-- ==== Sys2Proof/Word.lean ====
section
/-!
DEFINITION. Word types of the module: bytes, the 256-byte granule, index types of cells, partitions and ports.
-/

namespace Sys2Proof

/-- One byte. -/
abbrev Byte := BitVec 8

/-- A byte string, the byte of the lowest address first. -/
abbrev Bytes := List Byte

/-- A 256-byte granule or vector register: byte `i` is bits `[8i+7:8i]` (R36, R93). -/
abbrev Granule := BitVec 2048

/-- A partition number, 0 to 15 (R273). -/
abbrev PartIx := Fin 16

/-- A port number, J0 to J23 (R205). -/
abbrev PortIx := Fin 24

/-- A virtual cell by its row and column (R141). The owning partition follows from the column (R273). -/
structure CellRef where
  row : Fin 12
  col : Fin 16
  deriving DecidableEq, Repr

/-- Index of a virtual cell in the grid, row × 16 + column (Table 6-6). -/
def CellRef.ix (c : CellRef) : Fin 192 := ⟨c.row.val * 16 + c.col.val, by omega⟩

/-- The four engines of a cell, in the fixed order MXE, VXE, DME, SQE (R25, R32). -/
inductive Eng where
  | mxe | vxe | dme | sqe
  deriving DecidableEq, Repr

/-- Engine code of the CODE record and of SPF (Table 6-6). -/
def Eng.code : Eng → Fin 4
  | .mxe => 0
  | .vxe => 1
  | .dme => 2
  | .sqe => 3

/-- Engine of a two-bit code. -/
def Eng.ofCode (b : BitVec 2) : Eng :=
  if b = 0 then .mxe else if b = 1 then .vxe else if b = 2 then .dme else .sqe

end Sys2Proof
end

