-- ==== Sys2Proof/Syntax.lean ====
section
/-!
DEFINITION. The commands of the module, one constructor of `Instr` per row of spec/opcode_table.json, and the operands they carry.
Operands of an engine instruction are the fields of its 64-bit word, grouped by layout class (Tables 4-1 to 4-17, 5-2 to 5-10).
Operands of the other rows are what the outside world brings: a frame, a flit, a pin level, bytes read from the host.
-/

namespace Sys2Proof

/-- STAL and SINC of the common frame (Table 4-1). -/
structure SigF where
  stal : BitVec 6
  sinc : BitVec 8
  deriving DecidableEq, Repr

/-- MPAL layout (Table 4-4). -/
structure MpalF where
  sg : SigF
  pd : BitVec 2
  kill : Bool
  pf : Bool
  addr : BitVec 14
  slot : BitVec 4
  aix : BitVec 3
  deriving DecidableEq, Repr

/-- MLDW layout (Table 4-5). -/
structure MldwF where
  sg : SigF
  wd : BitVec 1
  kill : Bool
  wfmt : BitVec 4
  pa : BitVec 2
  palu : Bool
  pb : BitVec 2
  pblu : Bool
  addr : BitVec 14
  aix : BitVec 3
  deriving DecidableEq, Repr

/-- MACC layout (Table 4-7). -/
structure MaccF where
  sg : SigF
  tile : BitVec 2
  z : Bool
  kill : Bool
  ws : BitVec 1
  wlu : Bool
  koff : BitVec 7
  km1 : BitVec 6
  afmt : BitVec 4
  wfmt : BitVec 4
  addr : BitVec 14
  aix : BitVec 3
  deriving DecidableEq, Repr

/-- MDRN layout (Table 4-9). -/
structure MdrnF where
  sg : SigF
  tile : BitVec 2
  tlu : Bool
  ofmt : BitVec 4
  sat : Bool
  addr : BitVec 14
  aix : BitVec 3
  deriving DecidableEq, Repr

/-- VR class layout (Table 4-12). -/
structure VrF where
  sg : SigF
  vd : BitVec 6
  kill : Bool
  va : BitVec 6
  alu : Bool
  vb : BitVec 6
  blu : Bool
  vc : BitVec 6
  clu : Bool
  fmt : BitVec 2
  msk : BitVec 4
  mlu : Bool
  sub : BitVec 4
  deriving DecidableEq, Repr

/-- VK class layout (Table 4-13). -/
structure VkF where
  sg : SigF
  md : BitVec 3
  kill : Bool
  va : BitVec 6
  alu : Bool
  vb : BitVec 6
  blu : Bool
  fmt : BitVec 2
  msk : BitVec 4
  mlu : Bool
  cond : BitVec 3
  ksel : BitVec 7
  deriving DecidableEq, Repr

/-- VM class layout (Table 4-14). -/
structure VmF where
  sg : SigF
  md : BitVec 3
  kill : Bool
  ma : BitVec 3
  malu : Bool
  mb : BitVec 3
  mblu : Bool
  sub : BitVec 4
  n : BitVec 7
  deriving DecidableEq, Repr

/-- VMEM class layout (Table 4-15). -/
structure VmemF where
  sg : SigF
  vr : BitVec 6
  kl : Bool
  addr : BitVec 14
  aix : BitVec 3
  str : BitVec 8
  msk : BitVec 4
  mlu : Bool
  deriving DecidableEq, Repr

/-- VQ class layout (Table 4-15). -/
structure VqF where
  sg : SigF
  vd : BitVec 6
  kill : Bool
  q : BitVec 2
  deriving DecidableEq, Repr

/-- VI class layout (Table 4-15). -/
structure ViF where
  sg : SigF
  vd : BitVec 6
  kill : Bool
  msk : BitVec 4
  mlu : Bool
  imm : BitVec 32
  deriving DecidableEq, Repr

/-- VC class layout (Table 4-16). -/
structure VcF where
  sg : SigF
  vd : BitVec 6
  kill : Bool
  va : BitVec 6
  alu : Bool
  vb : BitVec 6
  blu : Bool
  sfmt : BitVec 4
  dfmt : BitVec 4
  part : BitVec 3
  sat : Bool
  deriving DecidableEq, Repr

/-- VS class layout (Table 4-17). -/
structure VsF where
  sg : SigF
  vd : BitVec 6
  kill : Bool
  ksrc : Bool
  sel : BitVec 12
  wsel : BitVec 2
  form : Bool
  callb : BitVec 18
  aix : BitVec 3
  deriving DecidableEq, Repr

/-- WAIT layout (Table 5-2). -/
structure WaitF where
  tally : BitVec 6
  thr : BitVec 16
  c : Bool
  v : Bool
  dm : BitVec 2
  due : BitVec 32
  deriving DecidableEq, Repr

/-- LOOP operands (Table 5-3). -/
structure LoopF where
  sg : SigF
  count : BitVec 24
  body : BitVec 16
  deriving DecidableEq, Repr

/-- SIG operands (Table 5-3). -/
structure SigTwoF where
  sg : SigF
  tal2 : BitVec 6
  inc2 : BitVec 8
  deriving DecidableEq, Repr

/-- DLY operands (Table 5-3). -/
structure DlyF where
  sg : SigF
  n : BitVec 32
  deriving DecidableEq, Repr

/-- PSET layout (Table 5-5). -/
structure PsetF where
  sg : SigF
  pd : BitVec 4
  kill : Bool
  hi : Bool
  imm : BitVec 32
  deriving DecidableEq, Repr

/-- PADD layout (Table 5-5). -/
structure PaddF where
  sg : SigF
  pd : BitVec 4
  kill : Bool
  pa : BitVec 4
  alu : Bool
  imm : BitVec 34
  deriving DecidableEq, Repr

/-- PLD layout (Table 5-5). -/
structure PldF where
  sg : SigF
  pd : BitVec 4
  kill : Bool
  addr : BitVec 14
  word : BitVec 5
  aix : BitVec 3
  deriving DecidableEq, Repr

/-- PUSH layout (Table 5-5). -/
structure PushF where
  sg : SigF
  dir : BitVec 2
  addr : BitVec 14
  aix : BitVec 3
  qtal : BitVec 6
  qinc : BitVec 8
  deriving DecidableEq, Repr

/-- DPOP layout (Table 5-5). -/
structure DpopF where
  sg : SigF
  q : BitVec 2
  addr : BitVec 14
  aix : BitVec 3
  deriving DecidableEq, Repr

/-- DCPY layout (Table 5-5). -/
structure DcpyF where
  sg : SigF
  src : BitVec 14
  dst : BitVec 14
  gm1 : BitVec 12
  aix : BitVec 3
  deriving DecidableEq, Repr

/-- DMEM layout (Table 5-6). -/
structure DmemF where
  ctal : BitVec 6
  cinc : BitVec 8
  ps : BitVec 4
  plu : Bool
  caddr : BitVec 14
  gm1 : BitVec 12
  aix : BitVec 3
  str : BitVec 10
  deriving DecidableEq, Repr

/-- DLINK layout (Table 5-7). -/
structure DlinkF where
  ctal : BitVec 6
  cinc : BitVec 8
  route : BitVec 12
  caddr : BitVec 14
  gm1 : BitVec 12
  aix : BitVec 3
  deriving DecidableEq, Repr

/-- SR layout of SALU (Table 5-10). -/
structure SaluF where
  sg : SigF
  sd : BitVec 5
  kill : Bool
  sa : BitVec 5
  alu : Bool
  i : Bool
  sb : BitVec 5
  blu : Bool
  sub : BitVec 4
  imm : BitVec 16
  deriving DecidableEq, Repr

/-- SI layout of SIMM (Table 5-10). -/
structure SimmF where
  sg : SigF
  sd : BitVec 5
  kill : Bool
  hi : Bool
  imm : BitVec 32
  deriving DecidableEq, Repr

/-- SMEM layout of SLD and SST (Table 5-10). -/
structure SmemF where
  sg : SigF
  srg : BitVec 5
  kl : Bool
  addr : BitVec 22
  aix : BitVec 3
  str : BitVec 10
  deriving DecidableEq, Repr

/-- SHK layout (Table 5-10). -/
structure ShkF where
  sg : SigF
  sd : BitVec 5
  kill : Bool
  hsel : BitVec 6
  slot : BitVec 12
  deriving DecidableEq, Repr

/-- SRPT layout (Table 5-10). -/
structure SrptF where
  sg : SigF
  sa : BitVec 5
  alu : Bool
  slot : BitVec 12
  word : BitVec 3
  deriving DecidableEq, Repr

/-- SB layout of SBR (Table 5-10). -/
structure SbrF where
  sg : SigF
  sa : BitVec 5
  alu : Bool
  cond : BitVec 3
  off : BitVec 20
  deriving DecidableEq, Repr

/-- SP layout of SPF (Table 5-10). -/
structure SpfF where
  sg : SigF
  eng : BitVec 2
  line : BitVec 24
  deriving DecidableEq, Repr

/-- SS layout of SRND (Table 5-10). -/
structure SrndF where
  sg : SigF
  sd : BitVec 5
  kill : Bool
  ksrc : Bool
  sel : BitVec 12
  wsel : BitVec 2
  pair : Bool
  callb : BitVec 18
  aix : BitVec 3
  deriving DecidableEq, Repr

/-- One engine instruction, its fields read out of its word (R78, R108). -/
inductive EngOp where
  | mpal (f : MpalF) | mldw (f : MldwF) | macc (f : MaccF) | mdrn (f : MdrnF)
  | vld (f : VmemF) | vst (f : VmemF) | vpop (f : VqF) | vimm (f : ViF)
  | vadd (f : VrF) | vsub (f : VrF) | vmul (f : VrF) | vfma (f : VrF)
  | vmin (f : VrF) | vmax (f : VrF) | vdiv (f : VrF) | vsqrt (f : VrF)
  | vtrn (f : VrF) | vbit (f : VrF) | vlane (f : VrF) | vcmp (f : VkF)
  | vsel (f : VrF) | vmop (f : VmF) | vcvt (f : VcF) | vqmx (f : VcF)
  | vred (f : VrF) | vscan (f : VrF) | vsort (f : VrF) | vmrg (f : VrF)
  | vselk (f : VkF) | vfirst (f : VrF) | vrnd (f : VsF)
  | wait (f : WaitF) | loop (f : LoopF) | sig (f : SigTwoF) | dly (f : DlyF) | stepend
  | pset (f : PsetF) | padd (f : PaddF) | pld (f : PldF) | push (f : PushF) | dpop (f : DpopF)
  | dcpy (f : DcpyF) | drd (f : DmemF) | dwr (f : DmemF) | dsnd (f : DlinkF) | drcv (f : DlinkF)
  | salu (f : SaluF) | simm (f : SimmF) | sld (f : SmemF) | sst (f : SmemF) | shk (f : ShkF)
  | srpt (f : SrptF) | sbr (f : SbrF) | spf (f : SpfF) | srnd (f : SrndF)
  deriving DecidableEq, Repr

/-- The way of a datagram: the management port, the address at the other end, and the address and UDP port of the module that it names (R308). -/
structure Udp where
  port : Fin 2
  peer : BitVec 128
  dst : BitVec 128
  udp : BitVec 16
  deriving DecidableEq, Repr

/-- The way a Basnus frame reaches the module, or leaves it (R289). -/
inductive Path where
  | mgmt (u : Udp)
  | pf (link : Fin 2)
  | vf (p : PartIx)
  deriving DecidableEq, Repr

/-- How a PCIe request of the host reaches the module: over which link, and whether in its function's IDE stream (R276, R280). -/
structure Tlp where
  link : Fin 2
  ide : Bool
  deriving DecidableEq, Repr

/-- A write of the host: its value, and how it reaches the module. -/
structure HostWrite (α : Type) where
  value : α
  via : Tlp
  deriving DecidableEq, Repr

/-- An item with the sequence number under which it comes (R223). -/
structure Sequenced (α : Type) where
  sqn : BitVec 20
  item : α
  deriving DecidableEq, Repr

/-- Inline crypto engines that failed their known-answer test: those of ports, of LPDDR5X channels and of PCIe links (Table 11-4, R348). -/
structure CryptoFail where
  ports : BitVec 24
  chans : BitVec 96
  links : BitVec 2
  deriving DecidableEq, Repr

/-- How the flash writes of an activation go (R336): all done and read back right; a write error or a read-back mismatch; done, but the new image
then fails its measurement (R337); or cut by a power loss while the FL0 selector is written, between the two, or while the FL1 selector is. -/
inductive FlashWrite where
  | good | error | bad | cutFirst | cutBetween | cutSecond
  deriving DecidableEq, Repr

/-- What ROM finds in flash: banks whose image fails its measurement, bit k - 1 bank A and bit k + 5 bank B of KIND k, and how the writes of an
activation go. -/
structure RomRead where
  bad : BitVec 12
  write : FlashWrite
  deriving DecidableEq, Repr

/-- Flash answers and takes writes without a failure. -/
def RomRead.clean : RomRead := ⟨0, .good⟩

/-- Every answer of flash, from 15 bits. -/
def RomRead.ofBits (b : BitVec 15) : RomRead :=
  ⟨b.extractLsb' 0 12, match (b.extractLsb' 12 3).toNat with
    | 1 => .error | 2 => .bad | 3 => .cutFirst | 4 => .cutBetween | 5 => .cutSecond | _ => .good⟩

/-- A Basnus frame as received: the header fields of Table 12-3, the data and the tag. -/
structure Frame where
  path : Path
  magic : BitVec 16
  ver : BitVec 8
  kind : BitVec 8
  sid : BitVec 32
  seq : BitVec 64
  op : BitVec 8
  status : BitVec 8
  index : BitVec 16
  sub : BitVec 8
  more : Bool
  staged : Bool
  rsvd : BitVec 6
  offset : BitVec 32
  len : BitVec 16
  total : BitVec 32
  data : Bytes
  tag : Bytes
  /-- bytes beyond what the header declares (R290) -/
  extra : Bytes
  deriving DecidableEq, Repr

/-- A BARRIER item body (Table 10-3). -/
structure BarrierItem where
  job : BitVec 32
  step : BitVec 64
  stop : Bool
  status : BitVec 3
  src : BitVec 14
  dst : BitVec 14
  first : BitVec 15
  count : BitVec 15
  rtime : BitVec 64
  deriving DecidableEq, Repr

/-- A PEER item body (Table 10-6) and the destination it is sent to. -/
structure PeerItem where
  job : BitVec 32
  reporter : BitVec 14
  suspect : BitVec 14
  cause : BitVec 4
  step : BitVec 64
  evidence : BitVec 32
  dst : BitVec 14
  deriving DecidableEq, Repr

/-- A KENNEL short flit (Table 9-2, R240). -/
structure KennelItem where
  owner : BitVec 3
  src : BitVec 14
  dst : BitVec 14
  sqn : BitVec 20
  ctr : BitVec 64
  ct : Bytes
  tag : Bytes
  deriving DecidableEq, Repr

/-- A HEEL item body (Table 10-1). -/
structure HeelItem where
  hops : BitVec 8
  domain : BitVec 32
  sqn : BitVec 16
  t1 : BitVec 64
  t2 : BitVec 64
  t3 : BitVec 64
  locked : Bool
  epoch : BitVec 32
  deriving DecidableEq, Repr

/-- A data flit (Table 9-1), its CRC already compared by the receiver. -/
structure Flit where
  ft : BitVec 2
  vc : BitVec 2
  sqn : BitVec 20
  owner : BitVec 3
  len : BitVec 8
  tag : BitVec 16
  off : BitVec 16
  dst : BitVec 14
  last : Bool
  kph : Bool
  payload : Bytes
  deriving DecidableEq, Repr

/-- A codeword that holds bits of a flit received (R207): how many of its symbols arrived in error, and whether it is decoded with this
flit (else it has been counted with an earlier one). -/
structure Codeword where
  errors : Nat
  fresh : Bool
  deriving DecidableEq, Repr

/-- What a flit time of a port brings (R207): a flit as it was sent, with its CRC, the SRC and CTR of its message (R234, log 21) and the
codewords that carried it; or one of which nothing can be read. -/
inductive RxFlit where
  | uncorrectable
  | flit (f : Flit) (crc : BitVec 64) (src : BitVec 14) (ctr : BitVec 64) (codewords : List Codeword)
  deriving DecidableEq, Repr

/-- FREED and OCC of one channel in a BEACON or RESYNC item (Table 9-3). -/
structure ChanCount where
  freed : BitVec 32
  occ : BitVec 16
  deriving DecidableEq, Repr

/-- A VC2 request as it arrives at its target (R236): the port and owner entry, the sender, and the fields of Table 9-7. -/
structure Vc2In where
  port : PortIx
  owner : BitVec 3
  src : BitVec 14
  txid : BitVec 12
  raddr : BitVec 64
  len : BitVec 16
  opid : BitVec 64
  operand1 : BitVec 64
  operand2 : BitVec 64
  data : Bytes
  deriving DecidableEq, Repr

/-- A VC2 response as it arrives (R237, Table 9-8). -/
structure Vc2Out where
  txid : BitVec 12
  status : BitVec 8
  result : BitVec 64
  rstatus : BitVec 8
  data : Bytes
  deriving DecidableEq, Repr

/-- Destination of an ingest, which tells the ingests of a partition apart: DEST and DESTPG of its manifest (Table 8-11a). -/
structure IngestKey where
  dest : BitVec 2
  page : BitVec 32
  deriving DecidableEq, Repr

/-- An ingest of a partition. -/
structure IngestRef where
  part : PartIx
  key : IngestKey
  deriving DecidableEq, Repr

/-- A write of the host through BAR2 of a virtual function: its offset in STREAMIO, its bytes, and how it reaches the module (R174). -/
structure StreamWrite where
  offset : BitVec 28
  data : Bytes
  via : Tlp
  deriving DecidableEq, Repr

/-- The Bark unit whose work of a step is done, and what the host has written to the partition's STREAMIO before it (R174). -/
structure BarkWork where
  unit : Fin 2
  host : List StreamWrite
  deriving DecidableEq, Repr

/-- What the loader reads: the image behind the handle, none where it cannot all be read, and the capture that goes with a load for an audit
(R145, R264). -/
structure PlanBytes where
  image : Option Bytes
  audit : Option Bytes
  deriving DecidableEq, Repr

/-- Who met an uncorrectable memory error (Table 8-14). -/
inductive MemReader where
  | drd (c : CellRef) (tx : Fin 64)
  | refill (c : CellRef) (e : Eng)
  | patrol
  | swapCopy (slot : Fin 2)
  | suspendCopy (entry : BitVec 12)
  | resumeCopy (entry : BitVec 12)
  | mirrorCopy
  | ingestCopy (k : IngestKey)
  | loader
  | vc2
  deriving DecidableEq, Repr

/-- Result of one patrol-scrub read (R204). -/
inductive ScrubResult where
  | clean | corrected | uncorrectable
  deriving DecidableEq, Repr

/-- An error-line event (R314): the fields of the first-error record that the source supplies (Table 13-4). -/
structure ErrEvent where
  bit : Fin 50
  /-- the condition of Table 13-3 persists -/
  persists : Bool
  master : BitVec 8
  access : BitVec 4
  part : Option PartIx
  inst : BitVec 8
  addr : BitVec 64
  detail : BitVec 32
  detail2 : BitVec 32
  /-- bit 38: the sequencer itself, not an entry, has failed; bit 43: an engine self-check failed -/
  whole : Bool
  /-- bit 38: the relative Kennel entry concerned -/
  entry : BitVec 12
  deriving DecidableEq, Repr

/-- A mirror header (R194, R272). The free lists name pages by their byte offset in KVPOOL and in SUSPEND. -/
structure MirrorHeader where
  step : BitVec 64
  entries : List (BitVec 512)
  kvFree : List (BitVec 64)
  susFree : List (BitVec 64)
  variant : BitVec 16
  slots : List (BitVec 12 × BitVec 12 × BitVec 32 × BitVec 12 × BitVec 2)
  digest : Bytes
  deriving DecidableEq, Repr

/-- The side of a restore that the command reaches (R272): the spare, with the header; or the holder of the mirror, which
copies it to a device of the job. -/
inductive MirrorSide where
  | spare (h : MirrorHeader)
  | holder (dev : BitVec 14)
  deriving DecidableEq, Repr

/-- An ICMPv6 or other non-Basnus packet at a management port (R308). -/
inductive Icmp where
  | neighborSolicit (target : BitVec 128)
  | echoRequest (peer target : BitVec 128) (data : Bytes)
  | other
  deriving DecidableEq, Repr

/-- The sensors of Table 16-5, in the order of objects 0x9000.10 to .16. -/
abbrev SensorIx := Fin 7

/-- The commands: one constructor per row of the opcode table, in the table's order. -/
inductive Instr where
  | cellCycle (p : PartIx)
  | lineArrival (c : CellRef) (e : Eng) (line : BitVec 24)
  | fillArrival (c : CellRef) (tx : Fin 64) (j : BitVec 12)
  | mpal (c : CellRef) (f : MpalF)
  | mldw (c : CellRef) (f : MldwF)
  | macc (c : CellRef) (f : MaccF)
  | mdrn (c : CellRef) (f : MdrnF)
  | vld (c : CellRef) (f : VmemF)
  | vst (c : CellRef) (f : VmemF)
  | vpop (c : CellRef) (f : VqF)
  | vimm (c : CellRef) (f : ViF)
  | vadd (c : CellRef) (f : VrF)
  | vsub (c : CellRef) (f : VrF)
  | vmul (c : CellRef) (f : VrF)
  | vfma (c : CellRef) (f : VrF)
  | vmin (c : CellRef) (f : VrF)
  | vmax (c : CellRef) (f : VrF)
  | vdiv (c : CellRef) (f : VrF)
  | vsqrt (c : CellRef) (f : VrF)
  | vtrn (c : CellRef) (f : VrF)
  | vbit (c : CellRef) (f : VrF)
  | vlane (c : CellRef) (f : VrF)
  | vcmp (c : CellRef) (f : VkF)
  | vsel (c : CellRef) (f : VrF)
  | vmop (c : CellRef) (f : VmF)
  | vcvt (c : CellRef) (f : VcF)
  | vqmx (c : CellRef) (f : VcF)
  | vred (c : CellRef) (f : VrF)
  | vscan (c : CellRef) (f : VrF)
  | vsort (c : CellRef) (f : VrF)
  | vmrg (c : CellRef) (f : VrF)
  | vselk (c : CellRef) (f : VkF)
  | vfirst (c : CellRef) (f : VrF)
  | vrnd (c : CellRef) (f : VsF)
  | waitTally (c : CellRef) (e : Eng) (f : WaitF)
  | loopPush (c : CellRef) (e : Eng) (f : LoopF)
  | sig (c : CellRef) (e : Eng) (f : SigTwoF)
  | dly (c : CellRef) (e : Eng) (f : DlyF)
  | stepend (c : CellRef) (e : Eng)
  | pset (c : CellRef) (f : PsetF)
  | padd (c : CellRef) (f : PaddF)
  | pld (c : CellRef) (f : PldF)
  | push (c : CellRef) (f : PushF)
  | dpop (c : CellRef) (f : DpopF)
  | dcpy (c : CellRef) (f : DcpyF)
  | drd (c : CellRef) (f : DmemF)
  | dwr (c : CellRef) (f : DmemF)
  | dsnd (c : CellRef) (f : DlinkF)
  | drcv (c : CellRef) (f : DlinkF)
  | drdComplete (c : CellRef) (tx : Fin 64)
  | dwrComplete (c : CellRef) (tx : Fin 64)
  | dsndComplete (c : CellRef) (tx : Fin 64)
  | drcvComplete (c : CellRef) (tx : Fin 64)
  | salu (c : CellRef) (f : SaluF)
  | simm (c : CellRef) (f : SimmF)
  | sld (c : CellRef) (f : SmemF)
  | sst (c : CellRef) (f : SmemF)
  | shk (c : CellRef) (f : ShkF)
  | srpt (c : CellRef) (f : SrptF)
  | sbr (c : CellRef) (f : SbrF)
  | spf (c : CellRef) (f : SpfF)
  | srnd (c : CellRef) (f : SrndF)
  | holdLimit (p : PartIx)
  | governorSample (watts : BitVec 32) (attributed : List (BitVec 32))
  | cellArrival (c : CellRef)
  | barrierArrive (p : PartIx)
  | barrierArriveItem (n : PortIx) (b : Sequenced BarrierItem)
  | barWaitExpiry (p : PartIx)
  | barrierReleaseItem (n : PortIx) (b : Sequenced BarrierItem)
  | boundaryProcessing (p : PartIx)
  | stepRelease (p : PartIx)
  | admitStream (p : PartIx) (e : BitVec 512)
  | cancelStream (p : PartIx) (e : BitVec 512)
  | closeStream (p : PartIx) (e : BitVec 512)
  | suspendStream (p : PartIx) (e : BitVec 512)
  | resumeStream (p : PartIx) (e : BitVec 512)
  | modifyStream (p : PartIx) (e : BitVec 512)
  | seedKey (p : PartIx) (e : BitVec 512)
  | fastCancel (p : PartIx) (w : HostWrite (BitVec 64))
  | sqTail (p : PartIx) (w : HostWrite (BitVec 32))
  | cqHead (p : PartIx) (w : HostWrite (BitVec 32))
  | suspendCopyDone (p : PartIx) (e : BitVec 12)
  | resumeCopyDone (p : PartIx) (e : BitVec 12)
  | kennelItem (n : PortIx) (k : KennelItem)
  | barkWorkDone (p : PartIx) (work : BarkWork)
  | swapModel (f : Frame)
  | swapCopyDone (p : PartIx) (slot : Fin 2)
  | wload (f : Frame) (manifest : Option Bytes)
  | chunkReceive (g : IngestRef) (ix : BitVec 32) (chunk : Bytes)
  | ingestDone (g : IngestRef)
  | ingestReport (g : IngestRef) (child : BitVec 14)
  | ingestStall (g : IngestRef)
  | memoryError (p : PartIx) (addr : BitVec 64) (r : MemReader)
  | patrolScrubRead (lpddr : Bool) (channel : Fin 256) (r : ScrubResult)
  | reencryption (p : PartIx) (channel : Fin 96)
  | mirrorAck (p : PartIx) (step : BitVec 64)
  | mirrorTimeout (p : PartIx)
  | mirrorRestore (p : PartIx) (side : MirrorSide) (pages : List (BitVec 64 × Bytes))
  | trainingDone (n : PortIx) (prbs : BitVec 16) (rtt : BitVec 32) (digest : Bytes)
  | trainingFail (n : PortIx)
  | laneLockLoss (n : PortIx) (ns : BitVec 32)
  | downPattern (n : PortIx)
  | creditTimeout (n : PortIx)
  | fastRetrainDone (n : PortIx)
  | fastRetrainFail (n : PortIx)
  | linkGraceExpiry (n : PortIx)
  | wheelPosition (n : PortIx) (pos : BitVec 16)
  | dataFlitReceive (n : PortIx) (r : RxFlit)
  | fillItem (n : PortIx)
  | ackItem (n : PortIx) (next : BitVec 20) (nak : List (BitVec 20))
  | creditItem (n : PortIx) (owner : BitVec 3) (freed : List (BitVec 32))
  | beaconItem (n : PortIx) (owner : BitVec 3) (aseq : BitVec 20) (counts : List ChanCount)
  | resyncItem (n : PortIx) (owner : BitVec 3) (sqn : BitVec 20) (next : BitVec 20) (counts : List (Option ChanCount))
  | peerItem (n : PortIx) (ix : Sequenced PeerItem)
  | reservedItem (n : PortIx) (ty : BitVec 8)
  | beaconSend (n : PortIx)
  | creditSend (n : PortIx) (owner : BitVec 3)
  | ackSend (n : PortIx)
  | replayTimeout (n : PortIx) (sqn : BitVec 20)
  | transitBoundary
  | mqTail (p : PartIx) (w : HostWrite (BitVec 32)) (entries : List (BitVec 512))
  | mcHead (p : PartIx) (w : HostWrite (BitVec 32))
  | vc2Read (r : Vc2In)
  | vc2Write (r : Vc2In)
  | vc2Fadd (r : Vc2In)
  | vc2Cas (r : Vc2In)
  | vc2Query (r : Vc2In)
  | vc2Response (p : PartIx) (r : Vc2Out)
  | vc2Timeout (p : PartIx) (txid : BitVec 12)
  | heelExchange
  | heelReq (n : PortIx) (h : HeelItem)
  | heelResp (n : PortIx) (h : HeelItem) (t4 : BitVec 64)
  | heelParentTimeout
  | holdoverEntry
  | holdoverExpiry
  | heelWrap
  | jobStart (p : PartIx)
  | selfTest (f : Frame)
  | selfTestDone (pass : Bool)
  | verdict (f : Frame)
  | capture (f : Frame)
  | planImage (f : Frame)
  | planLoadDone (p : PartIx) (bytes : PlanBytes)
  | scrubDone (p : PartIx)
  | openFrame (f : Frame)
  | acceptFrame (f : Frame)
  | closeFrame (f : Frame)
  | basnusRead (f : Frame)
  | basnusWrite (f : Frame)
  | noticeAck (f : Frame)
  | noticeResend (sid : BitVec 32)
  | handshakeTimeout (sid : BitVec 32)
  | idleTimeout (sid : BitVec 32)
  | mbDoorbell (path : Path) (len : HostWrite (BitVec 32)) (f : Option Frame)
  | stgOpen (f : Frame)
  | stgCheck (f : Frame)
  | stgCommit (f : Frame)
  | stgAbort (f : Frame)
  | diagData (f : Frame)
  | scentOut (f : Frame)
  | attReq (f : Frame)
  | faultLatch (e : ErrEvent)
  | graceExpiry (bit : Fin 50)
  | ackBits (f : Frame)
  | clearBits (f : Frame)
  | unfence (f : Frame)
  | watchdogExpiry (core : Fin 2)
  | cratePut (f : Frame) (image : Option Bytes)
  | crateData (f : Frame)
  | crateCheck (f : Frame)
  | crateArm (f : Frame)
  | restartWhenIdle (f : Frame)
  | restartNow (f : Frame)
  | svnRaise (f : Frame)
  | probationTimeout
  | pupPut (f : Frame)
  | pupErase (f : Frame)
  | pupExit (f : Frame)
  | pwrEnRise
  | pwrEnFall
  | railsDone (geo : BitVec 6) (bifurHigh : Bool)
  | romDone
  | postDone (badColumns : BitVec 16) (badCrypto : CryptoFail) (badOe : BitVec 6)
  | memoryDone (badStacks : BitVec 8) (badDevices : BitVec 24)
  | firmwareDone
  | stageTimeout
  | perstAssert
  | perstRelease (recoveryHigh : Bool)
  | perst1Assert
  | railFault
  | refclkLoss
  | inputExcursion (mv : BitVec 32)
  | inputDip
  | thermalWarning (k : SensorIx) (t : BitVec 32)
  | thermalCritical (k : SensorIx) (t : BitVec 32)
  | pcieLinkDown (link : Fin 2)
  | smbStatus
  | smbPower
  | smbVoltage
  | smbHottest
  | smbInlet
  | smbOutlet
  | smbFsw
  | smbSerial
  | smbPartNumber
  | thermalWarningClear (temps : List (BitVec 32))
  | inputReturn (mv : BitVec 32)
  | inputExcursionTimeout
  | pcieLinkUp (link : Fin 2) (rate : BitVec 4) (width : BitVec 4)
  | reencryptionDone (p : PartIx) (channel : Fin 96)
  | ideKeySetSwitch (p : PartIx)
  | icmpv6Message (port : Fin 2) (m : Icmp)
  | coreRestartDone (core : Fin 2)
  deriving DecidableEq, Repr

end Sys2Proof
end

