-- ==== Sys2Proof/Decode.lean ====
section
/-!
DEFINITION. Words. The opcode table gives no row any bits, so `decodeTableWord` reads none. The engine instructions have
64-bit words of their own (04, 05), which the cells fetch from plan code: `decodeWord` reads one in an engine's opcode space and
rejects unlisted opcodes and nonzero reserved fields; `encodeWord` writes it.
-/

namespace Sys2Proof

/-- The opcode table gives no row any bits: no word spells a command. -/
def decodeTableWord (_nbits _w : Nat) : Option Instr := none

/-- Field of `n` bits from bit `lo`. -/
abbrev fld (w : BitVec 64) (lo n : Nat) : BitVec n := w.extractLsb' lo n

/-- One bit of a word. -/
abbrev bit (w : BitVec 64) (i : Nat) : Bool := w.getLsbD i

/-- One bit as a field. -/
abbrev b1 (b : Bool) : BitVec 1 := BitVec.ofBool b

/-- SIG fields of the common frame (Table 4-1). -/
abbrev sgOf (w : BitVec 64) : SigF := ⟨fld w 52 6, fld w 44 8⟩

/-- Mpal layout of a word, its reserved bits dropped. -/
def MpalF.ofWord (w : BitVec 64) : MpalF :=
  ⟨sgOf w, fld w 42 2, bit w 41, bit w 40, fld w 26 14, fld w 22 4, fld w 19 3⟩

/-- Mpal layout as a word with opcode `op`. -/
def MpalF.toWord (op : BitVec 6) (f : MpalF) : BitVec 64 :=
  op ++ f.sg.stal ++ f.sg.sinc ++ f.pd ++ b1 f.kill ++ b1 f.pf ++ f.addr ++ f.slot ++ f.aix ++ (0 : BitVec 19)

/-- Mldw layout of a word, its reserved bits dropped. -/
def MldwF.ofWord (w : BitVec 64) : MldwF :=
  ⟨sgOf w, fld w 43 1, bit w 42, fld w 38 4, fld w 36 2, bit w 35, fld w 33 2, bit w 32, fld w 18 14, fld w 15 3⟩

/-- Mldw layout as a word with opcode `op`. -/
def MldwF.toWord (op : BitVec 6) (f : MldwF) : BitVec 64 :=
  op ++ f.sg.stal ++ f.sg.sinc ++ f.wd ++ b1 f.kill ++ f.wfmt ++ f.pa ++ b1 f.palu ++ f.pb ++ b1 f.pblu ++
  f.addr ++ f.aix ++ (0 : BitVec 15)

/-- Macc layout of a word, its reserved bits dropped. -/
def MaccF.ofWord (w : BitVec 64) : MaccF :=
  ⟨sgOf w, fld w 42 2, bit w 41, bit w 40, fld w 39 1, bit w 38, fld w 31 7, fld w 25 6, fld w 21 4, fld w 17 4, fld w 3 14, fld w 0 3⟩

/-- Macc layout as a word with opcode `op`. -/
def MaccF.toWord (op : BitVec 6) (f : MaccF) : BitVec 64 :=
  op ++ f.sg.stal ++ f.sg.sinc ++ f.tile ++ b1 f.z ++ b1 f.kill ++ f.ws ++ b1 f.wlu ++ f.koff ++ f.km1 ++ f.afmt
  ++ f.wfmt ++ f.addr ++ f.aix

/-- Mdrn layout of a word, its reserved bits dropped. -/
def MdrnF.ofWord (w : BitVec 64) : MdrnF :=
  ⟨sgOf w, fld w 42 2, bit w 41, fld w 37 4, bit w 36, fld w 22 14, fld w 19 3⟩

/-- Mdrn layout as a word with opcode `op`. -/
def MdrnF.toWord (op : BitVec 6) (f : MdrnF) : BitVec 64 :=
  op ++ f.sg.stal ++ f.sg.sinc ++ f.tile ++ b1 f.tlu ++ f.ofmt ++ b1 f.sat ++ f.addr ++ f.aix ++ (0 : BitVec 19)

/-- Vr layout of a word, its reserved bits dropped. -/
def VrF.ofWord (w : BitVec 64) : VrF :=
  ⟨sgOf w, fld w 38 6, bit w 37, fld w 31 6, bit w 30, fld w 24 6, bit w 23, fld w 17 6, bit w 16, fld w 14 2, fld w 10 4, bit w 9, fld w 5 4⟩

/-- Vr layout as a word with opcode `op`. -/
def VrF.toWord (op : BitVec 6) (f : VrF) : BitVec 64 :=
  op ++ f.sg.stal ++ f.sg.sinc ++ f.vd ++ b1 f.kill ++ f.va ++ b1 f.alu ++ f.vb ++ b1 f.blu ++ f.vc ++ b1 f.clu
  ++ f.fmt ++ f.msk ++ b1 f.mlu ++ f.sub ++ (0 : BitVec 5)

/-- Vk layout of a word, its reserved bits dropped. -/
def VkF.ofWord (w : BitVec 64) : VkF :=
  ⟨sgOf w, fld w 41 3, bit w 40, fld w 34 6, bit w 33, fld w 27 6, bit w 26, fld w 24 2, fld w 20 4, bit w 19, fld w 16 3, fld w 9 7⟩

/-- Vk layout as a word with opcode `op`. -/
def VkF.toWord (op : BitVec 6) (f : VkF) : BitVec 64 :=
  op ++ f.sg.stal ++ f.sg.sinc ++ f.md ++ b1 f.kill ++ f.va ++ b1 f.alu ++ f.vb ++ b1 f.blu ++ f.fmt ++ f.msk ++
  b1 f.mlu ++ f.cond ++ f.ksel ++ (0 : BitVec 9)

/-- Vm layout of a word, its reserved bits dropped. -/
def VmF.ofWord (w : BitVec 64) : VmF :=
  ⟨sgOf w, fld w 41 3, bit w 40, fld w 37 3, bit w 36, fld w 33 3, bit w 32, fld w 28 4, fld w 21 7⟩

/-- Vm layout as a word with opcode `op`. -/
def VmF.toWord (op : BitVec 6) (f : VmF) : BitVec 64 :=
  op ++ f.sg.stal ++ f.sg.sinc ++ f.md ++ b1 f.kill ++ f.ma ++ b1 f.malu ++ f.mb ++ b1 f.mblu ++ f.sub ++ f.n ++
  (0 : BitVec 21)

/-- Vmem layout of a word, its reserved bits dropped. -/
def VmemF.ofWord (w : BitVec 64) : VmemF :=
  ⟨sgOf w, fld w 38 6, bit w 37, fld w 23 14, fld w 20 3, fld w 12 8, fld w 8 4, bit w 7⟩

/-- Vmem layout as a word with opcode `op`. -/
def VmemF.toWord (op : BitVec 6) (f : VmemF) : BitVec 64 :=
  op ++ f.sg.stal ++ f.sg.sinc ++ f.vr ++ b1 f.kl ++ f.addr ++ f.aix ++ f.str ++ f.msk ++ b1 f.mlu ++ (0 :
  BitVec 7)

/-- Vq layout of a word, its reserved bits dropped. -/
def VqF.ofWord (w : BitVec 64) : VqF :=
  ⟨sgOf w, fld w 38 6, bit w 37, fld w 35 2⟩

/-- Vq layout as a word with opcode `op`. -/
def VqF.toWord (op : BitVec 6) (f : VqF) : BitVec 64 :=
  op ++ f.sg.stal ++ f.sg.sinc ++ f.vd ++ b1 f.kill ++ f.q ++ (0 : BitVec 35)

/-- Vi layout of a word, its reserved bits dropped. -/
def ViF.ofWord (w : BitVec 64) : ViF :=
  ⟨sgOf w, fld w 38 6, bit w 37, fld w 33 4, bit w 32, fld w 0 32⟩

/-- Vi layout as a word with opcode `op`. -/
def ViF.toWord (op : BitVec 6) (f : ViF) : BitVec 64 :=
  op ++ f.sg.stal ++ f.sg.sinc ++ f.vd ++ b1 f.kill ++ f.msk ++ b1 f.mlu ++ f.imm

/-- Vc layout of a word, its reserved bits dropped. -/
def VcF.ofWord (w : BitVec 64) : VcF :=
  ⟨sgOf w, fld w 38 6, bit w 37, fld w 31 6, bit w 30, fld w 24 6, bit w 23, fld w 19 4, fld w 15 4, fld w 12 3, bit w 11⟩

/-- Vc layout as a word with opcode `op`. -/
def VcF.toWord (op : BitVec 6) (f : VcF) : BitVec 64 :=
  op ++ f.sg.stal ++ f.sg.sinc ++ f.vd ++ b1 f.kill ++ f.va ++ b1 f.alu ++ f.vb ++ b1 f.blu ++ f.sfmt ++ f.dfmt
  ++ f.part ++ b1 f.sat ++ (0 : BitVec 11)

/-- Vs layout of a word, its reserved bits dropped. -/
def VsF.ofWord (w : BitVec 64) : VsF :=
  ⟨sgOf w, fld w 38 6, bit w 37, bit w 36, fld w 24 12, fld w 22 2, bit w 21, fld w 3 18, fld w 0 3⟩

/-- Vs layout as a word with opcode `op`. -/
def VsF.toWord (op : BitVec 6) (f : VsF) : BitVec 64 :=
  op ++ f.sg.stal ++ f.sg.sinc ++ f.vd ++ b1 f.kill ++ b1 f.ksrc ++ f.sel ++ f.wsel ++ b1 f.form ++ f.callb ++
  f.aix

/-- Wait layout of a word, its reserved bits dropped. -/
def WaitF.ofWord (w : BitVec 64) : WaitF :=
  ⟨fld w 52 6, fld w 36 16, bit w 35, bit w 34, fld w 32 2, fld w 0 32⟩

/-- Wait layout as a word with opcode `op`. -/
def WaitF.toWord (op : BitVec 6) (f : WaitF) : BitVec 64 :=
  op ++ f.tally ++ f.thr ++ b1 f.c ++ b1 f.v ++ f.dm ++ f.due

/-- Loop layout of a word, its reserved bits dropped. -/
def LoopF.ofWord (w : BitVec 64) : LoopF :=
  ⟨sgOf w, fld w 20 24, fld w 4 16⟩

/-- Loop layout as a word with opcode `op`. -/
def LoopF.toWord (op : BitVec 6) (f : LoopF) : BitVec 64 :=
  op ++ f.sg.stal ++ f.sg.sinc ++ f.count ++ f.body ++ (0 : BitVec 4)

/-- SigTwo layout of a word, its reserved bits dropped. -/
def SigTwoF.ofWord (w : BitVec 64) : SigTwoF :=
  ⟨sgOf w, fld w 38 6, fld w 30 8⟩

/-- SigTwo layout as a word with opcode `op`. -/
def SigTwoF.toWord (op : BitVec 6) (f : SigTwoF) : BitVec 64 :=
  op ++ f.sg.stal ++ f.sg.sinc ++ f.tal2 ++ f.inc2 ++ (0 : BitVec 30)

/-- Dly layout of a word, its reserved bits dropped. -/
def DlyF.ofWord (w : BitVec 64) : DlyF :=
  ⟨sgOf w, fld w 12 32⟩

/-- Dly layout as a word with opcode `op`. -/
def DlyF.toWord (op : BitVec 6) (f : DlyF) : BitVec 64 :=
  op ++ f.sg.stal ++ f.sg.sinc ++ f.n ++ (0 : BitVec 12)

/-- Pset layout of a word, its reserved bits dropped. -/
def PsetF.ofWord (w : BitVec 64) : PsetF :=
  ⟨sgOf w, fld w 40 4, bit w 39, bit w 38, fld w 6 32⟩

/-- Pset layout as a word with opcode `op`. -/
def PsetF.toWord (op : BitVec 6) (f : PsetF) : BitVec 64 :=
  op ++ f.sg.stal ++ f.sg.sinc ++ f.pd ++ b1 f.kill ++ b1 f.hi ++ f.imm ++ (0 : BitVec 6)

/-- Padd layout of a word, its reserved bits dropped. -/
def PaddF.ofWord (w : BitVec 64) : PaddF :=
  ⟨sgOf w, fld w 40 4, bit w 39, fld w 35 4, bit w 34, fld w 0 34⟩

/-- Padd layout as a word with opcode `op`. -/
def PaddF.toWord (op : BitVec 6) (f : PaddF) : BitVec 64 :=
  op ++ f.sg.stal ++ f.sg.sinc ++ f.pd ++ b1 f.kill ++ f.pa ++ b1 f.alu ++ f.imm

/-- Pld layout of a word, its reserved bits dropped. -/
def PldF.ofWord (w : BitVec 64) : PldF :=
  ⟨sgOf w, fld w 40 4, bit w 39, fld w 25 14, fld w 20 5, fld w 17 3⟩

/-- Pld layout as a word with opcode `op`. -/
def PldF.toWord (op : BitVec 6) (f : PldF) : BitVec 64 :=
  op ++ f.sg.stal ++ f.sg.sinc ++ f.pd ++ b1 f.kill ++ f.addr ++ f.word ++ f.aix ++ (0 : BitVec 17)

/-- Push layout of a word, its reserved bits dropped. -/
def PushF.ofWord (w : BitVec 64) : PushF :=
  ⟨sgOf w, fld w 42 2, fld w 28 14, fld w 25 3, fld w 19 6, fld w 11 8⟩

/-- Push layout as a word with opcode `op`. -/
def PushF.toWord (op : BitVec 6) (f : PushF) : BitVec 64 :=
  op ++ f.sg.stal ++ f.sg.sinc ++ f.dir ++ f.addr ++ f.aix ++ f.qtal ++ f.qinc ++ (0 : BitVec 11)

/-- Dpop layout of a word, its reserved bits dropped. -/
def DpopF.ofWord (w : BitVec 64) : DpopF :=
  ⟨sgOf w, fld w 42 2, fld w 28 14, fld w 25 3⟩

/-- Dpop layout as a word with opcode `op`. -/
def DpopF.toWord (op : BitVec 6) (f : DpopF) : BitVec 64 :=
  op ++ f.sg.stal ++ f.sg.sinc ++ f.q ++ f.addr ++ f.aix ++ (0 : BitVec 25)

/-- Dcpy layout of a word, its reserved bits dropped. -/
def DcpyF.ofWord (w : BitVec 64) : DcpyF :=
  ⟨sgOf w, fld w 30 14, fld w 16 14, fld w 4 12, fld w 1 3⟩

/-- Dcpy layout as a word with opcode `op`. -/
def DcpyF.toWord (op : BitVec 6) (f : DcpyF) : BitVec 64 :=
  op ++ f.sg.stal ++ f.sg.sinc ++ f.src ++ f.dst ++ f.gm1 ++ f.aix ++ (0 : BitVec 1)

/-- Dmem layout of a word, its reserved bits dropped. -/
def DmemF.ofWord (w : BitVec 64) : DmemF :=
  ⟨fld w 52 6, fld w 44 8, fld w 40 4, bit w 39, fld w 25 14, fld w 13 12, fld w 10 3, fld w 0 10⟩

/-- Dmem layout as a word with opcode `op`. -/
def DmemF.toWord (op : BitVec 6) (f : DmemF) : BitVec 64 :=
  op ++ f.ctal ++ f.cinc ++ f.ps ++ b1 f.plu ++ f.caddr ++ f.gm1 ++ f.aix ++ f.str

/-- Dlink layout of a word, its reserved bits dropped. -/
def DlinkF.ofWord (w : BitVec 64) : DlinkF :=
  ⟨fld w 52 6, fld w 44 8, fld w 32 12, fld w 18 14, fld w 6 12, fld w 3 3⟩

/-- Dlink layout as a word with opcode `op`. -/
def DlinkF.toWord (op : BitVec 6) (f : DlinkF) : BitVec 64 :=
  op ++ f.ctal ++ f.cinc ++ f.route ++ f.caddr ++ f.gm1 ++ f.aix ++ (0 : BitVec 3)

/-- Salu layout of a word, its reserved bits dropped. -/
def SaluF.ofWord (w : BitVec 64) : SaluF :=
  ⟨sgOf w, fld w 39 5, bit w 38, fld w 33 5, bit w 32, bit w 31, fld w 26 5, bit w 25, fld w 21 4, fld w 5 16⟩

/-- Salu layout as a word with opcode `op`. -/
def SaluF.toWord (op : BitVec 6) (f : SaluF) : BitVec 64 :=
  op ++ f.sg.stal ++ f.sg.sinc ++ f.sd ++ b1 f.kill ++ f.sa ++ b1 f.alu ++ b1 f.i ++ f.sb ++ b1 f.blu ++ f.sub
  ++ f.imm ++ (0 : BitVec 5)

/-- Simm layout of a word, its reserved bits dropped. -/
def SimmF.ofWord (w : BitVec 64) : SimmF :=
  ⟨sgOf w, fld w 39 5, bit w 38, bit w 37, fld w 5 32⟩

/-- Simm layout as a word with opcode `op`. -/
def SimmF.toWord (op : BitVec 6) (f : SimmF) : BitVec 64 :=
  op ++ f.sg.stal ++ f.sg.sinc ++ f.sd ++ b1 f.kill ++ b1 f.hi ++ f.imm ++ (0 : BitVec 5)

/-- Smem layout of a word, its reserved bits dropped. -/
def SmemF.ofWord (w : BitVec 64) : SmemF :=
  ⟨sgOf w, fld w 39 5, bit w 38, fld w 16 22, fld w 13 3, fld w 3 10⟩

/-- Smem layout as a word with opcode `op`. -/
def SmemF.toWord (op : BitVec 6) (f : SmemF) : BitVec 64 :=
  op ++ f.sg.stal ++ f.sg.sinc ++ f.srg ++ b1 f.kl ++ f.addr ++ f.aix ++ f.str ++ (0 : BitVec 3)

/-- Shk layout of a word, its reserved bits dropped. -/
def ShkF.ofWord (w : BitVec 64) : ShkF :=
  ⟨sgOf w, fld w 39 5, bit w 38, fld w 32 6, fld w 20 12⟩

/-- Shk layout as a word with opcode `op`. -/
def ShkF.toWord (op : BitVec 6) (f : ShkF) : BitVec 64 :=
  op ++ f.sg.stal ++ f.sg.sinc ++ f.sd ++ b1 f.kill ++ f.hsel ++ f.slot ++ (0 : BitVec 20)

/-- Srpt layout of a word, its reserved bits dropped. -/
def SrptF.ofWord (w : BitVec 64) : SrptF :=
  ⟨sgOf w, fld w 39 5, bit w 38, fld w 26 12, fld w 23 3⟩

/-- Srpt layout as a word with opcode `op`. -/
def SrptF.toWord (op : BitVec 6) (f : SrptF) : BitVec 64 :=
  op ++ f.sg.stal ++ f.sg.sinc ++ f.sa ++ b1 f.alu ++ f.slot ++ f.word ++ (0 : BitVec 23)

/-- Sbr layout of a word, its reserved bits dropped. -/
def SbrF.ofWord (w : BitVec 64) : SbrF :=
  ⟨sgOf w, fld w 39 5, bit w 38, fld w 35 3, fld w 15 20⟩

/-- Sbr layout as a word with opcode `op`. -/
def SbrF.toWord (op : BitVec 6) (f : SbrF) : BitVec 64 :=
  op ++ f.sg.stal ++ f.sg.sinc ++ f.sa ++ b1 f.alu ++ f.cond ++ f.off ++ (0 : BitVec 15)

/-- Spf layout of a word, its reserved bits dropped. -/
def SpfF.ofWord (w : BitVec 64) : SpfF :=
  ⟨sgOf w, fld w 42 2, fld w 18 24⟩

/-- Spf layout as a word with opcode `op`. -/
def SpfF.toWord (op : BitVec 6) (f : SpfF) : BitVec 64 :=
  op ++ f.sg.stal ++ f.sg.sinc ++ f.eng ++ f.line ++ (0 : BitVec 18)

/-- Srnd layout of a word, its reserved bits dropped. -/
def SrndF.ofWord (w : BitVec 64) : SrndF :=
  ⟨sgOf w, fld w 39 5, bit w 38, bit w 37, fld w 25 12, fld w 23 2, bit w 22, fld w 4 18, fld w 1 3⟩

/-- Srnd layout as a word with opcode `op`. -/
def SrndF.toWord (op : BitVec 6) (f : SrndF) : BitVec 64 :=
  op ++ f.sg.stal ++ f.sg.sinc ++ f.sd ++ b1 f.kill ++ b1 f.ksrc ++ f.sel ++ f.wsel ++ b1 f.pair ++ f.callb ++
  f.aix ++ (0 : BitVec 1)

/-- Opcodes of the matrix engine; reserved low bits shall be 0 (R80, R109). -/
def decodeMxe (w : BitVec 64) : Option EngOp :=
  match (fld w 58 6).toNat with
  | 0x01 => if fld w 0 19 = 0 then some (.mpal (MpalF.ofWord w)) else none
  | 0x02 => if fld w 0 15 = 0 then some (.mldw (MldwF.ofWord w)) else none
  | 0x03 => some (.macc (MaccF.ofWord w))
  | 0x04 => if fld w 0 19 = 0 then some (.mdrn (MdrnF.ofWord w)) else none
  | _ => none

/-- Opcodes of the vector engine; reserved low bits shall be 0 (R80, R109). -/
def decodeVxe (w : BitVec 64) : Option EngOp :=
  match (fld w 58 6).toNat with
  | 0x01 => if fld w 0 7 = 0 then some (.vld (VmemF.ofWord w)) else none
  | 0x02 => if fld w 0 7 = 0 then some (.vst (VmemF.ofWord w)) else none
  | 0x03 => if fld w 0 35 = 0 then some (.vpop (VqF.ofWord w)) else none
  | 0x04 => some (.vimm (ViF.ofWord w))
  | 0x08 => if fld w 0 5 = 0 then some (.vadd (VrF.ofWord w)) else none
  | 0x09 => if fld w 0 5 = 0 then some (.vsub (VrF.ofWord w)) else none
  | 0x0a => if fld w 0 5 = 0 then some (.vmul (VrF.ofWord w)) else none
  | 0x0b => if fld w 0 5 = 0 then some (.vfma (VrF.ofWord w)) else none
  | 0x0c => if fld w 0 5 = 0 then some (.vmin (VrF.ofWord w)) else none
  | 0x0d => if fld w 0 5 = 0 then some (.vmax (VrF.ofWord w)) else none
  | 0x0e => if fld w 0 5 = 0 then some (.vdiv (VrF.ofWord w)) else none
  | 0x0f => if fld w 0 5 = 0 then some (.vsqrt (VrF.ofWord w)) else none
  | 0x10 => if fld w 0 5 = 0 then some (.vtrn (VrF.ofWord w)) else none
  | 0x11 => if fld w 0 5 = 0 then some (.vbit (VrF.ofWord w)) else none
  | 0x12 => if fld w 0 9 = 0 then some (.vcmp (VkF.ofWord w)) else none
  | 0x13 => if fld w 0 5 = 0 then some (.vsel (VrF.ofWord w)) else none
  | 0x14 => if fld w 0 21 = 0 then some (.vmop (VmF.ofWord w)) else none
  | 0x15 => if fld w 0 11 = 0 then some (.vcvt (VcF.ofWord w)) else none
  | 0x16 => if fld w 0 11 = 0 then some (.vqmx (VcF.ofWord w)) else none
  | 0x17 => if fld w 0 5 = 0 then some (.vred (VrF.ofWord w)) else none
  | 0x18 => if fld w 0 5 = 0 then some (.vlane (VrF.ofWord w)) else none
  | 0x19 => if fld w 0 5 = 0 then some (.vscan (VrF.ofWord w)) else none
  | 0x1a => if fld w 0 5 = 0 then some (.vsort (VrF.ofWord w)) else none
  | 0x1b => if fld w 0 5 = 0 then some (.vmrg (VrF.ofWord w)) else none
  | 0x1c => if fld w 0 9 = 0 then some (.vselk (VkF.ofWord w)) else none
  | 0x1d => if fld w 0 5 = 0 then some (.vfirst (VrF.ofWord w)) else none
  | 0x1e => some (.vrnd (VsF.ofWord w))
  | _ => none

/-- Opcodes of the move engine; reserved low bits shall be 0 (R80, R109). -/
def decodeDme (w : BitVec 64) : Option EngOp :=
  match (fld w 58 6).toNat with
  | 0x01 => if fld w 0 6 = 0 then some (.pset (PsetF.ofWord w)) else none
  | 0x02 => some (.padd (PaddF.ofWord w))
  | 0x03 => if fld w 0 17 = 0 then some (.pld (PldF.ofWord w)) else none
  | 0x04 => if fld w 0 11 = 0 then some (.push (PushF.ofWord w)) else none
  | 0x05 => if fld w 0 25 = 0 then some (.dpop (DpopF.ofWord w)) else none
  | 0x06 => if fld w 0 1 = 0 then some (.dcpy (DcpyF.ofWord w)) else none
  | 0x08 => some (.drd (DmemF.ofWord w))
  | 0x09 => some (.dwr (DmemF.ofWord w))
  | 0x0a => if fld w 0 3 = 0 then some (.dsnd (DlinkF.ofWord w)) else none
  | 0x0b => if fld w 0 3 = 0 then some (.drcv (DlinkF.ofWord w)) else none
  | _ => none

/-- Opcodes of the sequence engine; reserved low bits shall be 0 (R80, R109). -/
def decodeSqe (w : BitVec 64) : Option EngOp :=
  match (fld w 58 6).toNat with
  | 0x01 => if fld w 0 5 = 0 then some (.salu (SaluF.ofWord w)) else none
  | 0x02 => if fld w 0 5 = 0 then some (.simm (SimmF.ofWord w)) else none
  | 0x03 => if fld w 0 3 = 0 then some (.sld (SmemF.ofWord w)) else none
  | 0x04 => if fld w 0 3 = 0 then some (.sst (SmemF.ofWord w)) else none
  | 0x05 => if fld w 0 20 = 0 then some (.shk (ShkF.ofWord w)) else none
  | 0x06 => if fld w 0 23 = 0 then some (.srpt (SrptF.ofWord w)) else none
  | 0x07 => if fld w 0 15 = 0 then some (.sbr (SbrF.ofWord w)) else none
  | 0x08 => if fld w 0 18 = 0 then some (.spf (SpfF.ofWord w)) else none
  | 0x09 => if fld w 0 1 = 0 then some (.srnd (SrndF.ofWord w)) else none
  | _ => none

/-- Control opcodes of every engine (Table 5-1). -/
def decodeControl (w : BitVec 64) : Option EngOp :=
  match (fld w 58 6).toNat with
  | 0x38 => some (.wait (WaitF.ofWord w))
  | 0x39 => if fld w 0 4 = 0 then some (.loop (LoopF.ofWord w)) else none
  | 0x3a => if fld w 0 30 = 0 then some (.sig (SigTwoF.ofWord w)) else none
  | 0x3b => if fld w 0 12 = 0 then some (.dly (DlyF.ofWord w)) else none
  | 0x3c => if fld w 0 58 = 0 then some .stepend else none
  | _ => none

/-- The instruction that a word holds in an engine's opcode space (R78, R109). -/
def decodeWord (e : Eng) (w : BitVec 64) : Option EngOp :=
  if (fld w 58 6).toNat ≥ 0x38 then decodeControl w
  else match e with
    | .mxe => decodeMxe w
    | .vxe => decodeVxe w
    | .dme => decodeDme w
    | .sqe => decodeSqe w

/-- The instruction that a word names, its reserved bits set aside: every layout has them at its low end. -/
def readWord (e : Eng) (w : BitVec 64) : Option EngOp := (List.range 59).findSome? fun k => decodeWord e (w >>> k <<< k)

/-- The engine whose opcode space holds an instruction; none for the control instructions, which every engine has. -/
def EngOp.engine : EngOp → Option Eng
  | .mpal _ | .mldw _ | .macc _ | .mdrn _ => some .mxe
  | .vld _ | .vst _ | .vpop _ | .vimm _ | .vadd _ | .vsub _ | .vmul _ | .vfma _ | .vmin _ | .vmax _ | .vdiv _ | .vsqrt _ | .vtrn _ | .vbit _ | .vcmp _ | .vsel _ | .vmop _ | .vcvt _ | .vqmx _ | .vred _ | .vlane _ | .vscan _ | .vsort _ | .vmrg _ | .vselk _ | .vfirst _ | .vrnd _ => some .vxe
  | .pset _ | .padd _ | .pld _ | .push _ | .dpop _ | .dcpy _ | .drd _ | .dwr _ | .dsnd _ | .drcv _ => some .dme
  | .salu _ | .simm _ | .sld _ | .sst _ | .shk _ | .srpt _ | .sbr _ | .spf _ | .srnd _ => some .sqe
  | .wait _ | .loop _ | .sig _ | .dly _ | .stepend => none

/-- The word of an instruction (Tables 4-1 to 4-17, 5-1 to 5-10). -/
def encodeWord : EngOp → BitVec 64
  | .mpal f => f.toWord 0x01
  | .mldw f => f.toWord 0x02
  | .macc f => f.toWord 0x03
  | .mdrn f => f.toWord 0x04
  | .vld f => f.toWord 0x01
  | .vst f => f.toWord 0x02
  | .vpop f => f.toWord 0x03
  | .vimm f => f.toWord 0x04
  | .vadd f => f.toWord 0x08
  | .vsub f => f.toWord 0x09
  | .vmul f => f.toWord 0x0a
  | .vfma f => f.toWord 0x0b
  | .vmin f => f.toWord 0x0c
  | .vmax f => f.toWord 0x0d
  | .vdiv f => f.toWord 0x0e
  | .vsqrt f => f.toWord 0x0f
  | .vtrn f => f.toWord 0x10
  | .vbit f => f.toWord 0x11
  | .vcmp f => f.toWord 0x12
  | .vsel f => f.toWord 0x13
  | .vmop f => f.toWord 0x14
  | .vcvt f => f.toWord 0x15
  | .vqmx f => f.toWord 0x16
  | .vred f => f.toWord 0x17
  | .vlane f => f.toWord 0x18
  | .vscan f => f.toWord 0x19
  | .vsort f => f.toWord 0x1a
  | .vmrg f => f.toWord 0x1b
  | .vselk f => f.toWord 0x1c
  | .vfirst f => f.toWord 0x1d
  | .vrnd f => f.toWord 0x1e
  | .pset f => f.toWord 0x01
  | .padd f => f.toWord 0x02
  | .pld f => f.toWord 0x03
  | .push f => f.toWord 0x04
  | .dpop f => f.toWord 0x05
  | .dcpy f => f.toWord 0x06
  | .drd f => f.toWord 0x08
  | .dwr f => f.toWord 0x09
  | .dsnd f => f.toWord 0x0a
  | .drcv f => f.toWord 0x0b
  | .salu f => f.toWord 0x01
  | .simm f => f.toWord 0x02
  | .sld f => f.toWord 0x03
  | .sst f => f.toWord 0x04
  | .shk f => f.toWord 0x05
  | .srpt f => f.toWord 0x06
  | .sbr f => f.toWord 0x07
  | .spf f => f.toWord 0x08
  | .srnd f => f.toWord 0x09
  | .wait f => f.toWord 0x38
  | .loop f => f.toWord 0x39
  | .sig f => f.toWord 0x3a
  | .dly f => f.toWord 0x3b
  | .stepend => 0xf000000000000000

end Sys2Proof
end

