-- ==== Sys2Proof/Machine/Num.lean ====
section
/-!
DEFINITION. Number formats, exact values and the one rounding of the module (R52 to R73).
A value is decoded to an exact dyadic, the operation is computed without loss, and the result is encoded once.
-/

namespace Sys2Proof.Machine

/-- A decoded value: NaN, a signed infinity, or the exact dyadic (−1)^neg × m × 2^e (R53, R56). -/
inductive Val where
  | nan
  | inf (neg : Bool)
  | fin (neg : Bool) (m : Nat) (e : Int)
  deriving DecidableEq, Repr, Inhabited

/-- How the top codes of a floating-point format are used (Table 3-1). -/
inductive Special where
  | ieee | e4m3 | finiteOnly
  deriving DecidableEq, Repr

/-- A floating-point format: exponent bits, mantissa bits, bias, use of the top codes (Table 3-1). -/
structure Fp where
  eb : Nat
  mb : Nat
  bias : Int
  special : Special
  deriving DecidableEq, Repr

def fp32 : Fp := ⟨8, 23, 127, .ieee⟩
def bf16 : Fp := ⟨8, 7, 127, .ieee⟩
def fpE4m3 : Fp := ⟨4, 3, 7, .e4m3⟩
def fpE5m2 : Fp := ⟨5, 2, 15, .ieee⟩
def fpE3m2 : Fp := ⟨3, 2, 3, .finiteOnly⟩
def fpE2m3 : Fp := ⟨2, 3, 1, .finiteOnly⟩
def fpE2m1 : Fp := ⟨2, 1, 1, .finiteOnly⟩

/-- Width of the encoding in bits. -/
def Fp.width (f : Fp) : Nat := f.eb + f.mb + 1

/-- Code of the largest finite magnitude (Table 3-1). -/
def Fp.maxCode (f : Fp) : Nat :=
  match f.special with
  | .ieee => (2 ^ f.eb - 1) * 2 ^ f.mb - 1
  | .e4m3 => 2 ^ (f.eb + f.mb) - 2
  | .finiteOnly => 2 ^ (f.eb + f.mb) - 1

/-- The canonical NaN (R56). -/
def Fp.nanCode (f : Fp) : Nat :=
  match f.special with
  | .ieee => (2 ^ f.eb - 1) * 2 ^ f.mb + 2 ^ (f.mb - 1)
  | .e4m3 => 2 ^ (f.eb + f.mb) - 1
  | .finiteOnly => 0

/-- Value of an encoding (R53). -/
def Fp.decode (f : Fp) (b : Nat) : Val :=
  let neg := decide (b / 2 ^ (f.eb + f.mb) % 2 = 1)
  let ex := b / 2 ^ f.mb % 2 ^ f.eb
  let mn := b % 2 ^ f.mb
  if f.special = .ieee ∧ ex = 2 ^ f.eb - 1 then
    if mn = 0 then .inf neg else .nan
  else if f.special = .e4m3 ∧ ex = 2 ^ f.eb - 1 ∧ mn = 2 ^ f.mb - 1 then .nan
  else if ex = 0 then .fin neg mn (1 - f.bias - f.mb)
  else .fin neg (2 ^ f.mb + mn) (ex - f.bias - f.mb)

/-- Round-to-nearest, ties-to-even, of m / 2^k (R55). -/
def rneShift (m k : Nat) : Nat :=
  let q := m / 2 ^ k
  let r := m % 2 ^ k
  if k = 0 then q
  else if r * 2 > 2 ^ k ∨ (r * 2 = 2 ^ k ∧ q % 2 = 1) then q + 1 else q

/-- Round-to-nearest, ties-to-even, of m × 2^e to a natural number. -/
def rneNat (m : Nat) (e : Int) : Nat :=
  if e ≥ 0 then m * 2 ^ e.toNat else rneShift m (-e).toNat

/-- Magnitude code of m × 2^e (m ≠ 0) rounded with the exponent range unbounded above (R58). -/
def Fp.roundCode (f : Fp) (m : Nat) (e : Int) : Nat :=
  let q : Int := max ((Nat.log2 m : Int) + e - f.mb) (1 - f.bias - f.mb)
  let n := rneNat m (e - q)
  if n < 2 ^ f.mb then n
  else (q + f.bias + f.mb).toNat * 2 ^ f.mb + (n - 2 ^ f.mb)

/-- Encoding of a value under R58 with the saturation bit. -/
def Fp.encode (f : Fp) (v : Val) (sat : Bool) : Nat :=
  let s (neg : Bool) : Nat := if neg then 2 ^ (f.eb + f.mb) else 0
  match v with
  | .nan => f.nanCode
  | .inf neg => if f.special = .ieee then s neg + (f.maxCode + 1) else f.nanCode
  | .fin neg m e =>
    if m = 0 then s neg
    else
      let c := f.roundCode m e
      if c ≤ f.maxCode then s neg + c
      else if sat then s neg + f.maxCode
      else if f.special = .ieee then s neg + (f.maxCode + 1) else f.nanCode

/-- Signed integer that a finite value rounds to (R59). -/
def rneInt (neg : Bool) (m : Nat) (e : Int) : Int :=
  let n : Int := rneNat m e
  if neg then -n else n

/-- Conversion to a two's-complement integer of `w` bits (R59). -/
def encodeInt (w : Nat) (v : Val) : Nat :=
  let hi : Int := 2 ^ (w - 1) - 1
  let lo : Int := -(2 ^ (w - 1))
  let x : Int :=
    match v with
    | .nan => 0
    | .inf neg => if neg then lo else hi
    | .fin neg m e => max lo (min hi (rneInt neg m e))
  (x % 2 ^ w).toNat

/-- Value of a two's-complement integer of `w` bits. -/
def decodeInt (w b : Nat) : Val :=
  if b ≥ 2 ^ (w - 1) then .fin true (2 ^ w - b) 0 else .fin false b 0

/-! Exact arithmetic (R54 to R57, R67, R68, R70) -/

def Val.isNan : Val → Bool
  | .nan => true
  | _ => false

def Val.isInf : Val → Bool
  | .inf _ => true
  | _ => false

def Val.isZero : Val → Bool
  | .fin _ m _ => m == 0
  | _ => false

/-- Sign of a value that is not NaN. -/
def Val.sign : Val → Bool
  | .nan => false
  | .inf n => n
  | .fin n _ _ => n

def Val.neg : Val → Val
  | .nan => .nan
  | .inf n => .inf !n
  | .fin n m e => .fin (!n) m e

/-- Exact product; a zero product takes the exclusive-or of the signs (R57); infinity × 0 is NaN. -/
def Val.mul : Val → Val → Val
  | .nan, _ => .nan
  | _, .nan => .nan
  | .inf a, .inf b => .inf (a != b)
  | .inf a, .fin b m _ => if m = 0 then .nan else .inf (a != b)
  | .fin a m _, .inf b => if m = 0 then .nan else .inf (a != b)
  | .fin a m e, .fin b n k => .fin (a != b) (m * n) (e + k)

/-- Exact multiple of 2^-k-scaled integers: the sum of finite addends over the common exponent `lo`. -/
def scaledSum (lo : Int) : List Val → Int
  | [] => 0
  | .fin neg m e :: vs =>
    let t : Int := m * 2 ^ (e - lo).toNat
    (if neg then -t else t) + scaledSum lo vs
  | _ :: vs => scaledSum lo vs

/-- Least exponent among finite nonzero addends, at most `acc`. -/
def leastExp (acc : Int) : List Val → Int
  | [] => acc
  | .fin _ m e :: vs => leastExp (if m = 0 then acc else min acc e) vs
  | _ :: vs => leastExp acc vs

/-- Exact sum of all addends with the rules of R57 and R68. -/
def Val.sum (vs : List Val) : Val :=
  if vs.any Val.isNan then .nan
  else if vs.any (fun v => v.isInf && v.sign) && vs.any (fun v => v.isInf && !v.sign) then .nan
  else if vs.any Val.isInf then .inf (vs.any (fun v => v.isInf && v.sign))
  else
    let lo := leastExp 0 vs
    let t := scaledSum lo vs
    if t = 0 then .fin (vs.all (fun v => v.isZero && v.sign)) 0 0
    else .fin (decide (t < 0)) t.natAbs lo

def Val.add (a b : Val) : Val := Val.sum [a, b]
def Val.fma (a b c : Val) : Val := Val.sum [a.mul b, c]

/-- Quotient with a sticky bit below 64 or more exact bits, so that one rounding is correct (R70). DEDUCED (log 92): a zero quotient has the sign
of IEEE 754, the exclusive-or of the operands'. -/
def Val.div : Val → Val → Val
  | .nan, _ => .nan
  | _, .nan => .nan
  | .inf _, .inf _ => .nan
  | .inf a, .fin b _ _ => .inf (a != b)
  | .fin a _ _, .inf b => .fin (a != b) 0 0
  | .fin a m e, .fin b n k =>
    if n = 0 then (if m = 0 then .nan else .inf (a != b))
    else if m = 0 then .fin (a != b) 0 0
    else
      let sh := 64 + Nat.log2 n
      let x := m * 2 ^ sh
      .fin (a != b) (2 * (x / n) + (if x % n = 0 then 0 else 1)) (e - k - sh - 1)

/-- Floor square root by `bits` binary digits. -/
def isqrtGo (x : Nat) : Nat → Nat → Nat
  | 0, r => r
  | b + 1, r =>
    let t := r + 2 ^ b
    isqrtGo x b (if t * t ≤ x then t else r)

/-- Floor square root. -/
def isqrt (x : Nat) : Nat := isqrtGo x (Nat.log2 x / 2 + 1) 0

/-- Square root with a sticky bit (R70). DEDUCED (log 92): that of −0 is −0, as in IEEE 754. -/
def Val.sqrt : Val → Val
  | .nan => .nan
  | .inf n => if n then .nan else .inf false
  | .fin n m e =>
    if m = 0 then .fin n 0 0
    else if n then .nan
    else
      let odd := decide (e % 2 ≠ 0)
      let x := m * 2 ^ (128 + (if odd then 1 else 0))
      let e' : Int := e - 128 - (if odd then 1 else 0)
      let r := isqrt x
      .fin false (2 * r + (if r * r = x then 0 else 1)) (e' / 2 - 1)

/-- −1, 0 or 1 as a is below, equal to or above b; both finite or infinite; −0 equals +0. -/
def Val.cmp (a b : Val) : Int :=
  match a, b with
  | .inf x, .inf y => if x = y then 0 else if x then -1 else 1
  | .inf x, _ => if x then -1 else 1
  | _, .inf y => if y then 1 else -1
  | x, y =>
    match Val.sum [x, y.neg] with
    | .fin n m _ => if m = 0 then 0 else if n then -1 else 1
    | _ => 0

/-- Minimum of R70: a lone NaN gives the other operand, −0 orders below +0. -/
def Val.vmin (a b : Val) : Val :=
  if a.isNan then b else if b.isNan then a
  else if a.cmp b < 0 ∨ (a.cmp b = 0 ∧ a.sign) then a else b

/-- Maximum of R70. -/
def Val.vmax (a b : Val) : Val :=
  if a.isNan then b else if b.isNan then a
  else if a.cmp b > 0 ∨ (a.cmp b = 0 ∧ !a.sign) then a else b

/-- The total order of R73 over FP32 patterns as a key: −∞ < negative < −0 < +0 < positive < +∞ < NaN, all NaNs equal. -/
def orderKey (x : BitVec 32) : Nat :=
  let n := x.toNat
  if (fp32.decode n).isNan then 2 ^ 33
  else if n ≥ 2 ^ 31 then 2 ^ 32 - 1 - n else 2 ^ 31 + n

/-! Formats as codes (Table 4-2) -/

/-- The element formats. -/
inductive Fmt where
  | fp32 | bf16 | e4m3 | e5m2 | int8 | int4 | mxE4m3 | mxE5m2 | mxE3m2 | mxE2m3 | mxE2m1 | p4 | p3
  deriving DecidableEq, Repr

/-- Format of a code; 0xD to 0xF are reserved. -/
def Fmt.ofCode (c : BitVec 4) : Option Fmt :=
  match c.toNat with
  | 0 => some .fp32 | 1 => some .bf16 | 2 => some .e4m3 | 3 => some .e5m2 | 4 => some .int8 | 5 => some .int4
  | 6 => some .mxE4m3 | 7 => some .mxE5m2 | 8 => some .mxE3m2 | 9 => some .mxE2m3 | 10 => some .mxE2m1
  | 11 => some .p4 | 12 => some .p3 | _ => none

/-- Element width in bits (Table 4-2). -/
def Fmt.bits : Fmt → Nat
  | .fp32 => 32 | .bf16 => 16 | .e4m3 => 8 | .e5m2 => 8 | .int8 => 8 | .int4 => 4
  | .mxE4m3 => 8 | .mxE5m2 => 8 | .mxE3m2 => 6 | .mxE2m3 => 6 | .mxE2m1 => 4 | .p4 => 4 | .p3 => 3

/-- Elements per vector register (Table 4-11). -/
def Fmt.count : Fmt → Nat
  | .fp32 => 64 | .bf16 => 128 | .e4m3 => 256 | .e5m2 => 256 | .int8 => 256 | .int4 => 512
  | .mxE4m3 => 256 | .mxE5m2 => 256 | .mxE3m2 => 256 | .mxE2m3 => 256 | .mxE2m1 => 512 | .p4 => 512 | .p3 => 512

def Fmt.isMx : Fmt → Bool
  | .mxE4m3 | .mxE5m2 | .mxE3m2 | .mxE2m3 | .mxE2m1 => true
  | _ => false

def Fmt.isPalette : Fmt → Bool
  | .p4 | .p3 => true
  | _ => false

/-- The floating-point layout of a format's element, if it has one. -/
def Fmt.fp : Fmt → Option Fp
  | .fp32 => some Machine.fp32
  | .bf16 => some Machine.bf16
  | .e4m3 | .mxE4m3 => some fpE4m3
  | .e5m2 | .mxE5m2 => some fpE5m2
  | .mxE3m2 => some fpE3m2
  | .mxE2m3 => some fpE2m3
  | .mxE2m1 => some fpE2m1
  | _ => none

/-- Exact value of one stored element; a palette index has none of its own. -/
def Fmt.decode (f : Fmt) (b : Nat) : Val :=
  match f with
  | .int8 => decodeInt 8 b
  | .int4 => decodeInt 4 b
  | .p4 | .p3 => .fin false b 0
  | f => match f.fp with
    | some p => p.decode b
    | none => .nan

/-- Encoding of a value in a format under R58 or R59. -/
def Fmt.encode (f : Fmt) (v : Val) (sat : Bool) : Nat :=
  match f with
  | .int8 => encodeInt 8 v
  | .int4 => encodeInt 4 v
  | f => match f.fp with
    | some p => p.encode v sat
    | none => 0

/-- Value of an E8M0 scale; 0xFF is NaN (R53, R62). -/
def e8m0 (b : Nat) : Val := if b = 255 then .nan else .fin false 1 ((b : Int) - 127)

/-- Element `i` of width `w` in a little-endian bit string: R61 places it at bits [w·i+w−1 : w·i] for every width. -/
def elemOf {n : Nat} (x : BitVec n) (w i : Nat) : Nat := x.toNat / 2 ^ (w * i) % 2 ^ w

/-- The bit string of a list of elements of width `w`, element 0 lowest. -/
def packNat (w : Nat) : List Nat → Nat
  | [] => 0
  | a :: as => a % 2 ^ w + 2 ^ w * packNat w as

/-- Elements of width `w` packed under R61 into `n` bits. -/
def pack (n w : Nat) (xs : List Nat) : BitVec n := BitVec.ofNat n (packNat w xs)

/-- emax of the MX element types (R64). -/
def Fmt.emax : Fmt → Int
  | .mxE4m3 => 8 | .mxE5m2 => 15 | .mxE3m2 => 4 | .mxE2m3 => 2 | .mxE2m1 => 2 | _ => 0

/-- floor(log2 |v|) of a finite nonzero value. -/
def Val.ilog2 : Val → Int
  | .fin _ m e => Nat.log2 m + e
  | _ => 0

/-- Largest magnitude of a list of finite values, as floor(log2) if any is nonzero. -/
def blockLog2 : List Val → Option Int
  | [] => none
  | v :: vs =>
    let r := blockLog2 vs
    if v.isZero then r
    else match r with
      | none => some v.ilog2
      | some x => some (max x v.ilog2)

/-- Block quantisation of R64: the scale field and the element fields. -/
def quantise (f : Fmt) (vs : List Val) : Nat × List Nat :=
  if vs.any (fun v => v.isNan || v.isInf) then (255, vs.map fun _ => 0)
  else
    let e : Int := match blockLog2 vs with
      | none => 0
      | some l => l - f.emax
    let e := min (max e (-127)) 127
    ((e + 127).toNat, vs.map fun v => f.encode (v.mul (.fin false 1 (-e))) true)

/-! FP32 and BF16 operations on bit patterns -/

def f32 (x : BitVec 32) : Val := fp32.decode x.toNat
def toF32 (v : Val) : BitVec 32 := BitVec.ofNat 32 (fp32.encode v false)
def b16 (x : BitVec 16) : Val := bf16.decode x.toNat
def toB16 (v : Val) : BitVec 16 := BitVec.ofNat 16 (bf16.encode v false)

end Sys2Proof.Machine
end

