-- ==== Sys2Proof/Config.lean ====
section
/-!
DEFINITION. What an implementation fixes and what the spec leaves open, as constants without a body: nothing in Lean can
evaluate one, and a claim holds whatever they are. Log entries 5 (free values), 6 (algorithms of other standards),
10 (identity of one module), 17 (Bark coefficients).
-/

namespace Sys2Proof.Config

/-- DESIGN CHOICE (log 5). A free value of `w` bits: the `n`-th value that the spec leaves undefined (R9) or unstated. -/
opaque freeValue (w n : Nat) : BitVec w

/-- PRESUMED (log 6). SHA3-512 of FIPS 202. -/
opaque sha3_512 : Bytes → BitVec 512

/-- PRESUMED (log 6). SHA3-256 of FIPS 202. -/
opaque sha3_256 : Bytes → BitVec 256

/-- PRESUMED (log 6). KMAC256 with key, data, output length in bits and customisation string. -/
opaque kmac256 (key data : Bytes) (l : Nat) (custom : String) : BitVec l

/-- PRESUMED (log 6). ML-DSA-87 verification in pure mode: public key, message, context string, signature (R329). -/
opaque mlDsaVerify (pk msg : Bytes) (ctx : String) (sig : Bytes) : Bool

/-- PRESUMED (log 6). ML-DSA-87 signature by the key made from a 32-byte seed. -/
opaque mlDsaSign (seed : BitVec 256) (msg : Bytes) (ctx : String) : Bytes

/-- PRESUMED (log 6). ML-DSA-87 public key made from a 32-byte seed (R342). -/
opaque mlDsaPublic (seed : BitVec 256) : Bytes

/-- PRESUMED (log 6). ML-KEM-1024 encapsulation key of the pair made from `entropy`. -/
opaque mlKemEk (entropy : BitVec 256) : Bytes

/-- PRESUMED (log 6). ML-KEM-1024 decapsulation with the pair made from `entropy`; it never reports failure (R279). -/
opaque mlKemDecaps (entropy : BitVec 256) (ct : Bytes) : BitVec 256

/-- PRESUMED (log 6). AES-256 in counter mode under GCM: the byte of the key stream for each byte of a text. -/
opaque gcmStream (key : BitVec 256) (iv : BitVec 96) : Nat → Byte

/-- PRESUMED (log 6). The GCM tag over additional data and ciphertext. -/
opaque gcmTag (key : BitVec 256) (iv : BitVec 96) (aad ct : Bytes) : BitVec 128

/-- A text under the key stream: ciphertext of a plaintext, and plaintext of a ciphertext. -/
def gcmCrypt (key : BitVec 256) (iv : BitVec 96) (text : Bytes) : Bytes := text.mapIdx fun i b => b ^^^ gcmStream key iv i

/-- AES-256-GCM sealing: ciphertext and tag. -/
def gcmSeal (key : BitVec 256) (iv : BitVec 96) (aad pt : Bytes) : Bytes × BitVec 128 :=
  let ct := gcmCrypt key iv pt
  (ct, gcmTag key iv aad ct)

/-- AES-256-GCM opening; `none` when the tag fails. -/
def gcmOpen (key : BitVec 256) (iv : BitVec 96) (aad ct : Bytes) (tag : BitVec 128) : Option Bytes :=
  if tag = gcmTag key iv aad ct then some (gcmCrypt key iv ct) else none

/-- PRESUMED (log 6). XXH64 with seed 0, of which a Zstandard frame carries the low 4 bytes as its content checksum (RFC 8878). -/
opaque xxh64 : Bytes → BitVec 64

/-- PRESUMED (log 6). Decoding of the blocks of a Zstandard frame (RFC 8878); `none` where they are not well formed. -/
opaque zstdDecode : Bytes → Option Bytes

/-- DESIGN CHOICE (log 6). The module's entropy source: the `n`-th 256-bit draw since manufacture. -/
opaque entropy : Nat → BitVec 256

/-- DESIGN CHOICE (log 10). The device secret UDS fused at manufacture (R342). -/
opaque uds : BitVec 256

/-- DESIGN CHOICE (log 10). Physical place, x and y, of each virtual cell of this module on its die (R141). -/
opaque harvest : Fin 192 → Fin 10 × Fin 10

/-- DESIGN CHOICE (log 10). Digests of the firmware keys in ROM slots 0 to 3 (R330). -/
opaque romKeyDigest : Fin 4 → BitVec 512

/-- DESIGN CHOICE (log 10). SHA3-512 of the ROM contents (Table 14-10). -/
opaque romDigest : BitVec 512

/-- DESIGN CHOICE (log 10). Measurement of the factory image of KIND k + 1 (R328). -/
opaque factoryDigest : Fin 6 → BitVec 512

/-- DESIGN CHOICE (log 10). SERIAL (0x1018.01) of this module. -/
opaque serial : BitVec 192

/-- DESIGN CHOICE (log 10). MAC of each management port (0x1060.01 and .02). -/
opaque mac : Fin 2 → BitVec 48

/-- DESIGN CHOICE (log 10). Manufacturing key, date and signature of the endorsement record (Table 14-9). -/
opaque endorsement : BitVec 16 × BitVec 64 × Bytes

/-- DESIGN CHOICE (log 10). Steppings 0x1010.01 to .03. -/
opaque stepping : Fin 3 → BitVec 8

/-- DESIGN CHOICE (log 65). Fixed transmit delay of a port in ht, as its training at time `t` has measured it (R246). -/
opaque txDelay (port : Fin 24) (t : BitVec 64) : BitVec 64

/-- DESIGN CHOICE (log 65). Fixed receive delay of a port in ht, as its training at time `t` has measured it (R246). -/
opaque rxDelay (port : Fin 24) (t : BitVec 64) : BitVec 64

/-- DESIGN CHOICE (log 17). Sample `i` of the 160 at 16 kHz that the polyphase FIR of R175 makes of a hop at an input rate, by the AUD major
version, which fixes its coefficients, and the filter's state. -/
opaque barkDown (aud rate : Nat) (st : Bytes) (hop : List (BitVec 16)) (i : Nat) : BitVec 16

/-- DESIGN CHOICE (log 17). That filter's state after the hop. -/
opaque barkDownState (aud rate : Nat) (st : Bytes) (hop : List (BitVec 16)) : Bytes

/-- DESIGN CHOICE (log 17). What the fixed-point word of a stage of the features (R175) holds for an exact value, both in units of 2^-64: the
widths and roundings of the unit are not laid down. Stages: 0 windowed samples, 1 real and 2 imaginary parts, 3 powers, 4 filter sums, 5 logs. -/
opaque barkNarrow (aud stage : Nat) (exact : Int) : Int

/-- DESIGN CHOICE (log 17). Corner `i` (1 to 80) of the mel filters, in units of 2^-16 Hz: R175 gives no formula for the mel scale. -/
opaque barkCorner (aud i : Nat) : Nat

/-- DESIGN CHOICE (log 17). The Hann window of 400 samples is periodic, not symmetric. -/
opaque barkPeriodic (aud : Nat) : Bool

/-- DESIGN CHOICE (log 17). Power of two that a 16-bit sample is divided by before the window. -/
opaque barkShift (aud : Nat) : Nat

/-- DESIGN CHOICE (log 17). Sample `i` that the output FIR makes at an output rate of 240 samples at 24 kHz, in units of the 16-bit output. -/
opaque barkUp (aud rate : Nat) (st : Bytes) (hop : List Sys2Proof.Machine.Val) (i : Nat) : Sys2Proof.Machine.Val

/-- DESIGN CHOICE (log 17). That filter's state afterwards. -/
opaque barkUpState (aud rate : Nat) (st : Bytes) (hop : List Sys2Proof.Machine.Val) : Bytes

end Sys2Proof.Config
end

