-- ==== Sys2Proof/Machine/CellState.lean ====
section
/-!
DEFINITION. The state of one cell (Table 2-2) and of the checks that run beside it. Plain data.
-/

namespace Sys2Proof.Machine

/-- A tracked register: its value, LAND, LIVE, and the landing cycle of the live value, kept for the record of
LATE_OVERWRITE (R29, Table 2-5). -/
structure Reg (α : Type) where
  val : α
  land : BitVec 32
  live : Bool
  at_ : BitVec 32
  deriving DecidableEq, Repr

/-- A weight buffer: element (k, n) of 16 bits at bits [16(128n + k) + 15 : 16(128n + k)], the 256 block scales, and the tag;
`none` is the reset tag (R51, R87). -/
structure Wb where
  w : BitVec 131072
  scale : Granule
  tag : Option (BitVec 4)
  deriving DecidableEq, Repr

/-- Name of a tracked register. -/
inductive RegName where
  | a (i : BitVec 2)
  | wb (i : BitVec 1)
  | pal (i : BitVec 2)
  | v (i : BitVec 6)
  | m (i : BitVec 3)
  | p (i : BitVec 4)
  | s (i : BitVec 5)
  deriving DecidableEq, Repr

/-- The four inbound neighbour queues. -/
inductive Side where
  | n | e | s | w
  deriving DecidableEq, Repr

/-- The busy-port resources of R84 and R116, and the die-to-die link of R48. -/
inductive PortKind where
  | weight | drain | dmeRead | dmeWrite | d2d
  deriving DecidableEq, Repr

/-- Kinds of schedule faults (R49, R30, R31, R33, R34, R37). -/
inductive SfKind where
  | earlyRead | lateOverwrite | queueOverrun | staticMiss | bankClash
  deriving DecidableEq, Repr

/-- What the operand of a schedule-fault record names (Table 2-5). -/
inductive Operand where
  | reg (r : RegName)
  | granule (g : BitVec 14)
  | queue (q : Side)
  | tally (t : BitVec 6)
  | bank (b : BitVec 5)
  | port (k : PortKind)
  deriving DecidableEq, Repr

/-- One detected schedule fault, placed at the cell it is charged to (R49). -/
structure SchedFault where
  kind : SfKind
  cell : CellRef
  eng : Eng
  pc : BitVec 32
  operand : Operand
  first : BitVec 32
  second : BitVec 32
  deriving DecidableEq, Repr

/-- Who issued something and when: the cell, the engine, its PC and the issue cycle. -/
structure Origin where
  cell : CellRef
  eng : Eng
  pc : BitVec 32
  issued : BitVec 32
  deriving DecidableEq, Repr

/-- A tally signal on its way to its cell (R32). -/
structure Signal where
  due : BitVec 32
  tally : BitVec 6
  inc : Nat
  by_ : Origin
  deriving DecidableEq, Repr

/-- The value of a register write in flight. `v` and `m` keep the lanes whose enable bit is 0 (R94). `macc` adds its captured
block to the tile when it lands (R88, R90). -/
inductive LandVal where
  | tile (i : BitVec 2) (x : BitVec 262144)
  | macc (i : BitVec 2) (z : Bool) (sums : List Val)
  | wb (i : BitVec 1) (x : Wb)
  | pal (i : BitVec 2) (x : BitVec 256)
  | v (i : BitVec 6) (x : Granule) (en : BitVec 64)
  | m (i : BitVec 3) (x en : BitVec 64)
  | p (i : BitVec 4) (x : BitVec 64)
  | s (i : BitVec 5) (x : BitVec 64)
  deriving DecidableEq, Repr

/-- A register write in flight (R29). `check` is false for an accumulating MACC, whose landing is no write under R31. -/
structure Landing where
  due : BitVec 32
  val : LandVal
  kill : Bool
  check : Bool
  by_ : Origin
  deriving DecidableEq, Repr

/-- Captured operands of an MACC: its fields, the weight buffer as it stood at issue, and the number of a free value if the
tag is inconsistent (R80, R88). -/
structure MaccJob where
  f : MaccF
  wb : Wb
  free : Option Nat
  deriving DecidableEq, Repr

/-- What becomes of the granules that an instruction reads from the cell store, once the last one is read. -/
inductive Sink where
  | vld (vd : BitVec 6) (kill : Bool) (en : BitVec 64)
  | mpal (pd : BitVec 2) (kill : Bool) (p3 : Bool) (byte : BitVec 22)
  | mldw (wd : BitVec 1) (kill : Bool) (fmt : BitVec 4) (pa pb : BitVec 256)
  | macc (j : MaccJob)
  | pld (pd : BitVec 4) (kill : Bool) (word : BitVec 5)
  | sld (sd : BitVec 5) (kill : Bool) (word : BitVec 5)
  | push (dir : Side) (qtal : BitVec 6) (qinc : BitVec 8)
  | copy (dst : BitVec 14)
  | stage (tx : Fin 64)
  /-- the read of an illegal instruction: what reaches its destination is free, from value `n` on (R9) -/
  | undef (n : Nat) (k : Sink)
  deriving DecidableEq, Repr

/-- The sink itself, legal or not. -/
def Sink.base : Sink → Sink
  | .undef _ k => k.base
  | k => k

/-- First free value of an illegal instruction's read. -/
def Sink.free : Sink → Option Nat
  | .undef n _ => some n
  | _ => none

/-- Granules being read by one instruction, the newest first. -/
structure Stream where
  id : Nat
  by_ : Origin
  sink : Sink
  total : Nat
  got : List Granule
  deriving DecidableEq, Repr

/-- A static cell-store access to come (R37): a read for a stream, or a store of the bytes that `bytes` marks. -/
inductive AccessKind where
  | read (stream : Nat)
  | store (data : Granule) (bytes : BitVec 256)
  deriving DecidableEq, Repr

structure Access where
  due : BitVec 32
  granule : BitVec 14
  by_ : Origin
  kind : AccessKind
  deriving DecidableEq, Repr

/-- A window in which an instruction holds a port. -/
structure PortWindow where
  port : PortKind
  first : BitVec 32
  last : BitVec 32
  issued : BitVec 32
  deriving DecidableEq, Repr

/-- An entry of a neighbour queue or of the crossing towards it (R44, R46). -/
structure QEntry where
  data : Granule
  tally : BitVec 6
  inc : BitVec 8
  land : BitVec 32
  by_ : Origin
  deriving DecidableEq, Repr

/-- An inbound queue: landed entries not yet popped and entries in the crossing, the oldest first. -/
structure Queue where
  landed : List QEntry
  coming : List QEntry
  deriving DecidableEq, Repr

/-- The kinds of memory transactions (R42). -/
inductive TxKind where
  | drd | dwr | dsnd | drcv
  deriving DecidableEq, Repr

/-- A DWR that a DRD of another cell races with (R122): the cell that issued it, its number there, its memory range in bytes. -/
structure Race where
  cell : CellRef
  serial : Nat
  mem : BitVec 64
  bytes : Nat
  deriving DecidableEq, Repr

/-- How a message is sealed, and how many of its flits have been queued (R210, R240). -/
structure SealRec where
  key : BitVec 256
  phase : Bool
  ctr : BitVec 64
  queued : Nat
  deriving DecidableEq, Repr

/-- One outstanding transaction of a DME (R42, R120 to R124). `serial` orders the transactions of a cell; `raced` holds
other cells' writes that a DRD races with (R122); `kth` is the number of the transfer on its tag within the step (R124). -/
structure Tx where
  kind : TxKind
  ctal : BitVec 6
  cinc : BitVec 8
  by_ : Origin
  serial : Nat
  first : BitVec 14
  g : Nat
  mem : BitVec 64
  /-- the memory range is legal under R120 -/
  legal : Bool
  /-- an illegal instruction started it: what it delivers is free (R9) -/
  wild : Bool
  route : BitVec 12
  kth : Nat
  arrived : BitVec 4096
  written : BitVec 4096
  drained : Nat
  raced : List Race
  /-- a DSND whose message has begun to leave: how it is sealed, and its flits queued so far (R215) -/
  sealed : Option SealRec
  done : Bool
  deriving DecidableEq, Repr

/-- A granule in the fill buffer or in the crossing behind it (R40). -/
structure FillItem where
  tx : Fin 64
  j : BitVec 12
  granule : BitVec 14
  data : Granule
  deriving DecidableEq, Repr

/-- A granule in the outbound staging buffer (R123). -/
structure StagedGranule where
  tx : Fin 64
  j : Nat
  data : Granule
  deriving DecidableEq, Repr

/-- A loop-stack entry with ITER and ISTART (R82, R111, R112). -/
structure LoopEntry where
  count : BitVec 32
  startPc : BitVec 32
  endPc : BitVec 32
  iter : BitVec 32
  /-- a cycle number, which may lie past the last value of CYC -/
  istart : Nat
  deriving DecidableEq, Repr

/-- A wait in progress (R34). -/
structure WaitRec where
  f : WaitF
  /-- a cycle number, which may lie past the last value of CYC (R110) -/
  due : Nat
  issued : BitVec 32
  pc : BitVec 32
  deriving DecidableEq, Repr

/-- An instruction-cache line refill or prefetch under way, of an engine of this cell (R43, R133). -/
structure Refill where
  eng : Eng
  line : BitVec 24
  deriving DecidableEq, Repr

/-- A line of an instruction cache. -/
structure CacheLine where
  tag : BitVec 17
  data : Granule
  deriving DecidableEq, Repr

/-- Why a cell holds its partition. -/
inductive HoldWhy where
  | wait (tally : BitVec 6)
  | line
  | tx65
  | staging
  deriving DecidableEq, Repr

/-- A wait or held instruction that raised a hold. -/
structure HoldCause where
  cell : CellRef
  eng : Eng
  pc : BitVec 32
  why : HoldWhy
  deriving DecidableEq, Repr

/-- Hook values of one batch slot, latched at the step boundary (R131): HSEL 0x10 to 0x16. -/
structure SlotHooks where
  occupied : Bool
  entry : BitVec 12
  length : BitVec 32
  maxLength : BitVec 32
  pageList : BitVec 64
  seed : BitVec 16
  draft : BitVec 8
  deriving DecidableEq, Repr

/-- A route entry after patching (Table 6-10). -/
structure RouteEntry where
  farDev : BitVec 14
  farCell : BitVec 8
  tag : BitVec 16
  pport : BitVec 5
  dport : BitVec 5
  slot0 : BitVec 16
  slotCnt : BitVec 16
  farAddr : BitVec 32
  deriving DecidableEq, Repr

/-- The route table of one cell. -/
structure RouteTable where
  vcell : BitVec 8
  entries : List RouteEntry
  deriving DecidableEq, Repr

/-- One engine: PC, loop stack, instruction queue, instruction cache and issue bookkeeping (R25, R27, R34, R43). -/
structure Engine where
  pc : BitVec 32
  ended : Bool
  /-- first cycle at which it may issue again, which may lie past the last value of CYC (R25) -/
  ready : Nat
  wait : Option WaitRec
  loops : List LoopEntry
  iq : List EngOp
  icache : Vector (Option CacheLine) 128
  deriving DecidableEq, Repr

/-- A report word written in the step (R132). -/
structure Report where
  slot : BitVec 12
  word : BitVec 3
  val : BitVec 64
  cyc : BitVec 32
  deriving DecidableEq, Repr

/-- One cell. -/
structure Cell where
  a : Vector (Reg (BitVec 262144)) 4
  wb : Vector (Reg Wb) 2
  pal : Vector (Reg (BitVec 256)) 4
  v : Vector (Reg Granule) 64
  m : Vector (Reg (BitVec 64)) 8
  p : Vector (Reg (BitVec 64)) 16
  s : Vector (Reg (BitVec 64)) 32
  tally : Vector (BitVec 16) 64
  mxe : Engine
  vxe : Engine
  dme : Engine
  sqe : Engine
  refills : List Refill
  /-- the cell store, 4 MiB, in canonical form -/
  store : List Host.Cell
  /-- granules whose WRITTEN bit is 1, in rising order (R39) -/
  written : List (BitVec 14)
  qn : Queue
  qe : Queue
  qs : Queue
  qw : Queue
  txs : Vector (Option Tx) 64
  /-- transactions started in the step, for `Tx.serial` -/
  serial : Nat
  /-- transfers started in the step by kind (true: DSND) and tag, for `Tx.kth` -/
  kth : List ((Bool × BitVec 16) × Nat)
  fill : List FillItem
  crossing : List FillItem
  staging : List StagedGranule
  /-- granules of DSNDs that have left the staging buffer for a message not yet whole -/
  outbox : List StagedGranule
  landings : List Landing
  signals : List Signal
  streams : List Stream
  nextStream : Nat
  accesses : List Access
  ports : List PortWindow
  /-- issue cycle of the last cross-die push (R48) -/
  xpush : Option (BitVec 32)
  /-- completions that have reached the cell and are not yet applied (R32) -/
  completions : List (Fin 64)
  reports : List Report
  /-- seed-table entries that draws of the step have named themselves, KSRC = 0 (R264) -/
  drawn : List (BitVec 12)
  arrived : Bool
  deriving DecidableEq, Repr

/-! Values at the start of a step (R51) -/

def Reg.zero {α : Type} (z : α) : Reg α := ⟨z, 0, false, 0⟩

def Wb.zero : Wb := ⟨0, 0, none⟩

def Queue.empty : Queue := ⟨[], []⟩

/-- DESIGN CHOICE (log 10): an engine before any step, with PC 0 and every cache line invalid (R351). -/
def Engine.cold : Engine := ⟨0, false, 0, none, [], [], Vector.replicate 128 none⟩

/-- A cell after a start: everything empty and zero (R51, R282, R351). -/
def Cell.cold : Cell where
  a := Vector.replicate 4 (Reg.zero 0)
  wb := Vector.replicate 2 (Reg.zero Wb.zero)
  pal := Vector.replicate 4 (Reg.zero 0)
  v := Vector.replicate 64 (Reg.zero 0)
  m := Vector.replicate 8 (Reg.zero 0)
  p := Vector.replicate 16 (Reg.zero 0)
  s := Vector.replicate 32 (Reg.zero 0)
  tally := Vector.replicate 64 0
  mxe := Engine.cold
  vxe := Engine.cold
  dme := Engine.cold
  sqe := Engine.cold
  refills := []
  store := []
  written := []
  qn := Queue.empty
  qe := Queue.empty
  qs := Queue.empty
  qw := Queue.empty
  txs := Vector.replicate 64 none
  serial := 0
  kth := []
  fill := []
  crossing := []
  staging := []
  outbox := []
  landings := []
  signals := []
  streams := []
  nextStream := 0
  accesses := []
  ports := []
  xpush := none
  completions := []
  reports := []
  drawn := []
  arrived := false

end Sys2Proof.Machine
end

