-- ==== Sys2Proof/Machine/Mem.lean ====
section
/-!
DEFINITION. Byte memories as lists of (address, byte) in one canonical form: addresses strictly rising, no entry equal to what an
unlisted address reads as. An unlisted byte reads 0: every frame and every cell store is written with zeros before first
use (R282, R345, R39). The one home of byte order: the byte of the lowest address is the least significant.
-/

namespace Sys2Proof.Machine

/-- A byte memory. -/
abbrev Memory := List Host.Cell

/-- What an unlisted address reads as. -/
def Memory.unlisted : Byte := 0

/-- Addresses strictly rising, no entry equal to `unlisted`. -/
def Memory.wf : Memory → Bool
  | [] => true
  | [c] => c.2 != unlisted
  | c :: d :: m => c.2 != unlisted && decide (c.1 < d.1) && wf (d :: m)

/-- The byte at an address. -/
def Memory.byte (m : Memory) (a : Nat) : Byte :=
  match m.find? (fun c => c.1 == a) with
  | some c => c.2
  | none => unlisted

/-- The entries of the bytes `bs` from address `a` on. -/
def Memory.entries (a : Nat) : Bytes → Memory
  | [] => []
  | b :: bs => if b = unlisted then entries (a + 1) bs else (a, b) :: entries (a + 1) bs

/-- Write the bytes `bs` from address `a` on. -/
def Memory.write (m : Memory) (a : Nat) (bs : Bytes) : Memory :=
  m.filter (fun c => c.1 < a) ++ entries a bs ++ m.filter (fun c => a + bs.length ≤ c.1)

/-- The `n` bytes from address `a` on. -/
def Memory.read (m : Memory) (a n : Nat) : Bytes :=
  let w : Memory := m.filter (fun c => a ≤ c.1 ∧ c.1 < a + n)
  (List.range n).map (fun i => Memory.byte w (a + i))

/-- Zero the `n` bytes from address `a` on. -/
def Memory.clear (m : Memory) (a n : Nat) : Memory :=
  m.filter (fun c => c.1 < a) ++ m.filter (fun c => a + n ≤ c.1)

/-- A little-endian number of a byte string. -/
def leNat : Bytes → Nat
  | [] => 0
  | b :: bs => b.toNat + 256 * leNat bs

/-- The `n` bytes of a number, little-endian. -/
def leBytes : Nat → Nat → Bytes
  | 0, _ => []
  | n + 1, x => BitVec.ofNat 8 x :: leBytes n (x / 256)

/-- The `n` bytes of a number, big-endian. -/
def beBytes (n x : Nat) : Bytes := (leBytes n x).reverse

/-- A granule of a byte string of 256 bytes. -/
def granuleOf (bs : Bytes) : Granule := BitVec.ofNat 2048 (leNat bs)

/-- The 256 bytes of a granule. -/
def bytesOf (g : Granule) : Bytes := leBytes 256 g.toNat

/-- Field `[lo+n-1:lo]` of a record that stands in a byte string, little-endian. -/
def recField (bs : Bytes) (lo n : Nat) : Nat := leNat bs / 2 ^ lo % 2 ^ n

end Sys2Proof.Machine
end

