-- ==== Sys2Proof/Machine/Operands.lean ====
section
/-!
DEFINITION. Operand forms: register files, lanes and elements (R93), loop indexing (R82, R111), lane masks (R94), cell-store
granules (R36, R39).
-/

namespace Sys2Proof.Machine

/-- Element of a register file by a register field. -/
def rd {α : Type} {w n : Nat} (v : Vector α n) (i : BitVec w) (h : 2 ^ w ≤ n := by decide) : α :=
  v[i.toNat]'(Nat.lt_of_lt_of_le i.isLt h)

/-- A register file with the element of a register field replaced. -/
def wr {α : Type} {w n : Nat} (v : Vector α n) (i : BitVec w) (x : α) (h : 2 ^ w ≤ n := by decide) : Vector α n :=
  v.set i.toNat x (Nat.lt_of_lt_of_le i.isLt h)

/-! Lanes (R93) -/

/-- Lane `l` of a vector register: bits [32l+31:32l]. -/
def lane (x : Granule) (l : Nat) : BitVec 32 := x.extractLsb' (32 * l) 32

/-- The register whose lane `l` is `f l`. -/
def ofLanes (f : Nat → BitVec 32) : Granule :=
  pack 2048 32 ((List.range 64).map fun l => (f l).toNat)

/-- Elements of width `w` of a register, `n` of them. -/
def elems {m : Nat} (x : BitVec m) (w n : Nat) : List Nat := (List.range n).map (elemOf x w)

/-- The lanes whose bit is set, as a bit string of whole lanes. -/
def laneBits (en : BitVec 64) : Granule := ofLanes fun l => if en.getLsbD l then BitVec.allOnes 32 else 0

/-- New lanes where enabled, old lanes elsewhere (R94). -/
def mergeLanes (en : BitVec 64) (old new : Granule) : Granule :=
  (new &&& laneBits en) ||| (old &&& ~~~laneBits en)

/-- The byte enables of enabled lanes, four bytes a lane. -/
def laneBytes (en : BitVec 64) : BitVec 256 :=
  pack 256 4 ((List.range 64).map fun l => if en.getLsbD l then 15 else 0)

/-- New bytes where enabled, old bytes elsewhere. -/
def mergeBytes (en : BitVec 256) (old new : Granule) : Granule :=
  pack 2048 8 ((List.range 256).map fun i => elemOf (if en.getLsbD i then new else old) 8 i)

/-! Engines, loops and indexing -/

/-- The engine of a cell. -/
def Cell.eng (c : Cell) : Eng → Engine
  | .mxe => c.mxe
  | .vxe => c.vxe
  | .dme => c.dme
  | .sqe => c.sqe

/-- A cell with one engine replaced. -/
def Cell.setEng (c : Cell) (e : Eng) (x : Engine) : Cell :=
  match e with
  | .mxe => { c with mxe := x }
  | .vxe => { c with vxe := x }
  | .dme => { c with dme := x }
  | .sqe => { c with sqe := x }

/-- ITER(d): 0 when fewer than d + 1 loops are in progress (R82). -/
def Engine.iter (e : Engine) (d : Nat) : Nat :=
  match e.loops[d]? with
  | some l => l.iter.toNat
  | none => 0

/-- ISTART(d): 0 when fewer than d + 1 loops are in progress (R111). -/
def Engine.istart (e : Engine) (d : Nat) : Nat :=
  match e.loops[d]? with
  | some l => l.istart
  | none => 0

/-- The iteration that AIX selects: 0 for 000, ITER(dd) for 1dd (R82). -/
def Engine.index (e : Engine) (aix : BitVec 3) : Nat :=
  if aix.getLsbD 2 then e.iter (aix.extractLsb' 0 2).toNat else 0

/-- Granule address (ADDR + ITER × STEP) mod 16,384 (R82). -/
def granuleAt (addr : BitVec 14) (iter step : Nat) : BitVec 14 := addr + BitVec.ofNat 14 (iter * step)

/-- Granule address with a signed stride (R82, VLD and VST). -/
def granuleStr (addr : BitVec 14) (iter : Nat) (str : BitVec 8) : BitVec 14 :=
  addr + BitVec.ofNat 14 iter * str.signExtend 14

/-- Lane enables of a MSK field: every lane for 0000, mask register Mm for 1mmm (R94). -/
def Cell.enables (c : Cell) (msk : BitVec 4) : BitVec 64 :=
  if msk.getLsbD 3 then (rd c.m (msk.extractLsb' 0 3)).val else BitVec.allOnes 64

/-! Cell store (R36, R39) -/

/-- Byte address of a granule. -/
def gAddr (g : BitVec 14) : Nat := g.toNat * 256

/-- What a load of a granule returns: zeros while its WRITTEN bit is 0 (R39). -/
def Cell.loadG (c : Cell) (g : BitVec 14) : Granule :=
  if c.written.contains g then granuleOf (Memory.read c.store (gAddr g) 256) else 0

/-- Insert into a rising list without repeats. -/
def insertRising {n : Nat} (g : BitVec n) : List (BitVec n) → List (BitVec n)
  | [] => [g]
  | h :: t => if g = h then h :: t else if g < h then g :: h :: t else h :: insertRising g t

/-- A write of the enabled bytes of a granule: on the first write of a step its other bytes become zero, then WRITTEN is 1 (R39). -/
def Cell.storeG (c : Cell) (g : BitVec 14) (data : Granule) (en : BitVec 256) : Cell :=
  { c with
    store := Memory.write c.store (gAddr g) (bytesOf (mergeBytes en (c.loadG g) data))
    written := insertRising g c.written }

/-- Inbound queue of a side. -/
def Cell.queue (c : Cell) : Side → Queue
  | .n => c.qn
  | .e => c.qe
  | .s => c.qs
  | .w => c.qw

/-- A cell with one inbound queue replaced. -/
def Cell.setQueue (c : Cell) (q : Side) (x : Queue) : Cell :=
  match q with
  | .n => { c with qn := x }
  | .e => { c with qe := x }
  | .s => { c with qs := x }
  | .w => { c with qw := x }

/-- Code of a direction or queue: 00 north, 01 east, 10 south, 11 west (Table 4-15, Table 5-5). -/
def Side.ofCode (b : BitVec 2) : Side :=
  if b = 0 then .n else if b = 1 then .e else if b = 2 then .s else .w

end Sys2Proof.Machine
end

