-- ==== Sys2Proof/Machine/Flags.lean ====
section
/-!
DEFINITION. Tracking state of registers and tallies: LAND and LIVE (R29, R30, R31), tally signals (R32, R33). The hardware has no other
flags (R55).
-/

namespace Sys2Proof.Machine

/-- LAND of a register. -/
def Cell.landOf (c : Cell) : RegName → BitVec 32
  | .a i => (rd c.a i).land
  | .wb i => (rd c.wb i).land
  | .pal i => (rd c.pal i).land
  | .v i => (rd c.v i).land
  | .m i => (rd c.m i).land
  | .p i => (rd c.p i).land
  | .s i => (rd c.s i).land

/-- LIVE of a register. -/
def Cell.liveOf (c : Cell) : RegName → Bool
  | .a i => (rd c.a i).live
  | .wb i => (rd c.wb i).live
  | .pal i => (rd c.pal i).live
  | .v i => (rd c.v i).live
  | .m i => (rd c.m i).live
  | .p i => (rd c.p i).live
  | .s i => (rd c.s i).live

/-- Landing cycle of the live value of a register. -/
def Cell.landedAt (c : Cell) : RegName → BitVec 32
  | .a i => (rd c.a i).at_
  | .wb i => (rd c.wb i).at_
  | .pal i => (rd c.pal i).at_
  | .v i => (rd c.v i).at_
  | .m i => (rd c.m i).at_
  | .p i => (rd c.p i).at_
  | .s i => (rd c.s i).at_

/-- A cell with the tracking state of one register changed, every value kept. -/
def Cell.track (c : Cell) (r : RegName) (f : {α : Type} → Reg α → Reg α) : Cell :=
  match r with
  | .a i => { c with a := wr c.a i (f (rd c.a i)) }
  | .wb i => { c with wb := wr c.wb i (f (rd c.wb i)) }
  | .pal i => { c with pal := wr c.pal i (f (rd c.pal i)) }
  | .v i => { c with v := wr c.v i (f (rd c.v i)) }
  | .m i => { c with m := wr c.m i (f (rd c.m i)) }
  | .p i => { c with p := wr c.p i (f (rd c.p i)) }
  | .s i => { c with s := wr c.s i (f (rd c.s i)) }

/-- LIVE becomes 0 (R29, LU = 1). -/
def Cell.clearLive (c : Cell) (r : RegName) : Cell := c.track r fun x => { x with live := false }

/-- LAND becomes the greater of its value and the landing cycle (R29). -/
def Cell.raiseLand (c : Cell) (r : RegName) (t : BitVec 32) : Cell :=
  c.track r fun x => { x with land := if x.land < t then t else x.land }

/-- A value lands: it replaces the old one and LIVE becomes 1 (R29). -/
def Reg.landed {α : Type} (r : Reg α) (x : α) (t : BitVec 32) : Reg α := { r with val := x, live := true, at_ := t }

/-- A source operand of an instruction, with its last-use bit. -/
structure Use where
  reg : RegName
  lu : Bool
  deriving DecidableEq, Repr

/-- The first operand read before its LAND, if any (R30). -/
def Cell.earlyUse (c : Cell) (cyc : BitVec 32) (us : List Use) : Option RegName :=
  (us.find? fun u => cyc < c.landOf u.reg).map (·.reg)

/-- LU bits clear LIVE in the issue cycle (R29). -/
def Cell.lastUses (c : Cell) : List Use → Cell
  | [] => c
  | u :: us => (if u.lu then c.clearLive u.reg else c).lastUses us

/-- The mask operand of a MSK field (R94). -/
def maskUse (msk : BitVec 4) (lu : Bool) : List Use :=
  if msk.getLsbD 3 then [⟨.m (msk.extractLsb' 0 3), lu⟩] else []

/-- A tally raised by a signal, unless that would carry it past 65,535 (R33). -/
def Cell.raiseTally (c : Cell) (t : BitVec 6) (inc : Nat) : Option Cell :=
  let n := (rd c.tally t).toNat + inc
  if n ≤ 65535 then some { c with tally := wr c.tally t (BitVec.ofNat 16 n) } else none

end Sys2Proof.Machine
end

