-- ==== Sys2Proof/Machine/Legal.lean ====
section
/-!
DEFINITION. Legality of an engine instruction as far as the instruction alone shows it (R78 to R80, R89, R100 to R106, R109, R113,
R117, R128, R134). The loader refuses a plan that breaks it (check 7); the result of an instruction
that breaks it is undefined (R9): its plan is `Plan.undef`.
-/

namespace Sys2Proof

open Machine (Fmt)

/-- AIX is 000 or 1dd (R82). -/
def aixOk (a : BitVec 3) : Bool := a == 0 || a.getLsbD 2

/-- MSK is 0000 or 1mmm, and MLU is 0 with 0000 (R94, R80). -/
def mskOk (m : BitVec 4) (lu : Bool) : Bool := m.getLsbD 3 || (m == 0 && !lu)

/-- An unused register field and its LU bit are 0 (R80). -/
def unused {n : Nat} (r : BitVec n) (lu : Bool) : Bool := r == 0 && !lu

/-- Codes of WFMT (Table 4-2). -/
def wfmtOk (c : BitVec 4) : Bool :=
  match Fmt.ofCode c with
  | none | some .fp32 => false
  | _ => true

/-- E4M3 or E5M2. -/
def isFp8 : Fmt → Bool
  | .e4m3 | .e5m2 => true
  | _ => false

/-- The pairings of Table 3-3 in the form of Table 4-8. -/
def pairOk (a w : Fmt) : Bool :=
  (isFp8 a && (isFp8 w || w.isPalette)) || (a == .bf16 && (w == .bf16 || w.isPalette))
    || (a == .int8 && (w == .int8 || w == .int4)) || (a.isMx && w.isMx)

/-- MACC fields (R79, R89, Table 4-7). -/
def MaccF.wf (f : MaccF) : Bool :=
  let k := f.km1.toNat + 1
  match Fmt.ofCode f.afmt, Fmt.ofCode f.wfmt with
  | some a, some w =>
    pairOk a w && decide (f.koff.toNat + k ≤ 128)
      && (!a.isMx || ((k == 32 || k == 64) && f.koff.toNat % 32 == 0))
      && (f.z || !f.kill) && aixOk f.aix
  | _, _ => false

/-- A conversion that Table 3-2 provides to a VCVT (R101). -/
def cvtOk (s d : Fmt) : Bool :=
  s != d && (d == .fp32 || d == .bf16 || d == .e4m3 || d == .e5m2 || d == .int8 || d == .int4)

/-- PART is below max(cs, cd) / n (R101). -/
def partOk (s d : Fmt) (part : BitVec 3) : Bool :=
  decide (part.toNat < max s.count d.count / min s.count d.count)

/-- VCVT fields (R101, Table 4-16). -/
def VcF.wfCvt (f : VcF) : Bool :=
  match Fmt.ofCode f.sfmt, Fmt.ofCode f.dfmt with
  | some s, some d =>
    cvtOk s d && partOk s d f.part && (s.isMx || s.isPalette || unused f.vb f.blu)
  | _, _ => false

/-- VQMX fields (R102, Table 4-16). DEDUCED (log 83): Table 3-2 marks Q for palette and MX sources too, R102 takes neither; the model follows
R102, and a VCVT to FP32 before the VQMX provides those pairs. -/
def VcF.wfQmx (f : VcF) : Bool :=
  match Fmt.ofCode f.sfmt, Fmt.ofCode f.dfmt with
  | some s, some d =>
    !s.isMx && !s.isPalette && d.isMx && partOk s d f.part && unused f.vb f.blu && !f.sat && !f.vd.getLsbD 0
  | _, _ => false

/-- VA is used, VB and VC as told; FMT may be BF16 as told; SUB is at most `sub` (Table 4-12). -/
def VrF.wf (f : VrF) (b c bf : Bool) (sub : Nat) : Bool :=
  (b || unused f.vb f.blu) && (c || unused f.vc f.clu) && (f.fmt == 0 || (bf && f.fmt == 1))
    && decide (f.sub.toNat ≤ sub) && mskOk f.msk f.mlu

/-- VLANE fields by SUB (R99): BCAST, UP and DOWN hold a lane count in VB; LANEID uses no source. -/
def VrF.wfLane (f : VrF) : Bool :=
  f.wf true false false 4 && (f.sub == 1 || !f.blu) && (f.sub != 4 || (unused f.va f.alu && f.vb == 0))

/-- VMOP fields by SUB (Table 4-14). -/
def VmF.wf (f : VmF) : Bool :=
  decide (f.sub.toNat ≤ 5)
    && (if f.sub == 5 then decide (f.n.toNat ≤ 64) && unused f.ma f.malu && unused f.mb f.mblu
        else f.n == 0 && (f.sub != 4 || unused f.mb f.mblu))

/-- HSEL values of Table 5-11. -/
def hselOk (h : BitVec 6) : Bool := decide (h.toNat < 8) || decide (16 ≤ h.toNat ∧ h.toNat ≤ 22)

/-- Legality of an instruction from its fields alone. -/
def EngOp.wf : EngOp → Bool
  | .mpal f => aixOk f.aix && (f.pf || !f.slot.getLsbD 0)
  | .mldw f => aixOk f.aix && wfmtOk f.wfmt
      && (f.wfmt == 0xB || f.wfmt == 0xC || (unused f.pa f.palu && unused f.pb f.pblu))
  | .macc f => f.wf
  | .mdrn f => aixOk f.aix && decide (f.ofmt.toNat ≤ 3) && (f.ofmt != 0 || !f.sat)
  | .vld f | .vst f => aixOk f.aix && (f.aix != 0 || f.str == 0) && mskOk f.msk f.mlu
  | .vpop _ => true
  | .vimm f => mskOk f.msk f.mlu
  | .vadd f | .vsub f | .vmul f | .vmin f | .vmax f | .vdiv f => f.wf true false true 0
  | .vfma f => f.wf true true true 0
  | .vsqrt f => f.wf false false true 0
  | .vtrn f => f.wf false false true 7
  | .vbit f => f.wf (f.sub != 4) false false 7
  | .vlane f => f.wfLane
  | .vcmp f => f.fmt == 0 && decide (f.cond.toNat ≤ 5) && f.ksel == 0 && mskOk f.msk f.mlu
  | .vsel f => f.wf true false false 0 && f.msk != 0
  | .vmop f => f.wf
  | .vcvt f => f.wfCvt
  | .vqmx f => f.wfQmx
  | .vred f => f.wf false false false 2
  | .vscan f => f.wf true (f.sub == 0) true 1 && f.msk == 0
  | .vsort f => f.wf true false false 1 && f.msk == 0 && !f.vd.getLsbD 0
  | .vmrg f => f.wf true false false 1 && f.msk == 0 && !f.vd.getLsbD 0 && !f.va.getLsbD 0 && !f.vb.getLsbD 0
  | .vselk f => f.fmt == 0 && decide (f.cond.toNat ≤ 1) && decide (f.ksel.toNat ≤ 64) && unused f.vb f.blu
      && mskOk f.msk f.mlu
  | .vfirst f => f.wf false false false 1 && unused f.va f.alu && f.msk != 0
  | .vrnd f => aixOk f.aix
  | .wait _ => true
  | .loop f => f.count != 0 && f.body != 0
  | .sig _ => true
  | .dly f => f.n != 0
  | .stepend => true
  | .pset f => !f.hi || !f.kill
  | .padd _ => true
  | .pld f => aixOk f.aix
  | .push f => aixOk f.aix
  | .dpop f => aixOk f.aix
  | .dcpy f => aixOk f.aix
  | .drd f | .dwr f => aixOk f.aix && (f.aix != 0 || f.str == 0)
  | .dsnd f | .drcv f => aixOk f.aix
  | .salu f => decide (f.sub.toNat ≤ 13) && (if f.i then unused f.sb f.blu else f.imm == 0)
  | .simm f => !f.hi || !f.kill
  | .sld f | .sst f => aixOk f.aix && (f.aix != 0 || f.str == 0) && f.addr.extractLsb' 0 3 == 0
  | .shk f => hselOk f.hsel && (decide (16 ≤ f.hsel.toNat) || f.slot == 0)
  | .srpt _ => true
  | .sbr f => f.cond != 7 && (f.cond != 6 || unused f.sa f.alu)
  | .spf _ => true
  | .srnd f => aixOk f.aix && (!f.pair || !f.wsel.getLsbD 0)

end Sys2Proof
end

