-- ==== Sys2Proof/Machine/MatResult.lean ====
section
/-!
DEFINITION. The results of the matrix engine as functions of the granules read (R63, R65 to R69, R86 to R91).
-/

namespace Sys2Proof.Machine

/-- The image of consecutive granules, the first lowest. -/
def imageNat : List Granule → Nat
  | [] => 0
  | g :: gs => g.toNat + 2 ^ 2048 * imageNat gs

/-- Element `i` of width `w` of an image. -/
def imgElem (img : Nat) (w i : Nat) : Nat := img / 2 ^ (w * i) % 2 ^ w

/-- Element granules of a weight-buffer image (Table 4-6). -/
def mldwElemG (f : Fmt) : Nat :=
  match f with
  | .bf16 => 64
  | .int4 | .p4 | .mxE2m1 => 16
  | .mxE3m2 | .mxE2m3 => 24
  | .p3 => 12
  | _ => 32

/-- G_w (Table 4-6). -/
def mldwG (f : Fmt) : Nat := mldwElemG f + (if f.isMx then 1 else 0)

/-- Palette register of a palette record read at byte `off` of a granule (R86): a P3 record fills entries 0 to 7. -/
def palOf (g : Granule) (off : Nat) (p3 : Bool) : BitVec 256 :=
  BitVec.ofNat 256 (g.toNat / 2 ^ (8 * off) % 2 ^ (if p3 then 128 else 256))

/-- Weight (k, n) of a weight-buffer image (R87). -/
def mldwElem (f : Fmt) (img : Nat) (pa pb : BitVec 256) (k n : Nat) : Nat :=
  if f.isPalette then
    let panel := k / 64
    let idx := imgElem img f.bits (4096 * panel + n * 64 + k % 64)
    elemOf (if panel = 0 then pa else pb) 16 idx
  else imgElem img f.bits (n * 128 + k)

/-- The weight buffer that MLDW loads (R87). -/
def mldwRes (code : BitVec 4) (gs : List Granule) (pa pb : BitVec 256) : Wb :=
  match Fmt.ofCode code with
  | none => Wb.zero
  | some f =>
    let img := imageNat gs
    { w := pack 131072 16 ((List.range 8192).map fun i => mldwElem f img pa pb (i % 128) (i / 128))
      scale := if f.isMx then gs.getD (mldwElemG f) 0 else 0
      tag := some code }

/-- Activation element granules and N of an MACC (Table 4-8). -/
def maccShape (a w : Fmt) (k : Nat) : Nat × Nat :=
  match a with
  | .bf16 => (k, 2 * k)
  | .mxE4m3 | .mxE5m2 => (k / 2, k)
  | .mxE3m2 | .mxE2m3 => (3 * k / 8, k)
  | .mxE2m1 => (k / 4, if w = .mxE2m1 then k / 2 else k)
  | _ => ((k + 1) / 2, k)

/-- Format of a code, FP32 where the code is reserved (the loader refuses those). -/
def fmtD (c : BitVec 4) : Fmt := (Fmt.ofCode c).getD .fp32

/-- G of an MACC: its activation granules with their scales. -/
def maccG (f : MaccF) : Nat :=
  let a := fmtD f.afmt
  (maccShape a (fmtD f.wfmt) (f.km1.toNat + 1)).1 + (if a.isMx then 1 else 0)

/-- N of an MACC: the cycles its block takes on the array. -/
def maccN (f : MaccF) : Nat := (maccShape (fmtD f.afmt) (fmtD f.wfmt) (f.km1.toNat + 1)).2

/-- Exact value of weight (k, n) in the format `wf` names: a buffer with the reset tag holds +0 everywhere (R51). -/
def Wb.weight (b : Wb) (wf : Fmt) (k n : Nat) : Val :=
  let x := elemOf b.w 16 (n * 128 + k)
  if b.tag = none then .fin false 0 0
  else if wf.isPalette then bf16.decode x
  else
    let v := wf.decode x
    if wf.isMx then v.mul (e8m0 (elemOf b.scale 8 (n * 4 + k / 32))) else v

/-- Exact value of activation (m, i) of an operand image of K k-positions (R63). -/
def actElem (af : Fmt) (img elemG k m i : Nat) : Val :=
  let v := af.decode (imgElem img af.bits (m * k + i))
  if af.isMx then v.mul (e8m0 (imgElem img 8 (elemG * 256 + m * (k / 32) + i / 32))) else v

/-- The exact block sum of tile element (m, n) (R67). -/
def maccSum (f : MaccF) (b : Wb) (img m n : Nat) : Val :=
  let a := fmtD f.afmt
  let w := fmtD f.wfmt
  let k := f.km1.toNat + 1
  let eg := (maccShape a w k).1
  Val.sum ((List.range k).map fun i => (actElem a img eg k m i).mul (b.weight w (f.koff.toNat + i) n))

/-- The block sums of a whole tile, element (m, n) at m × 64 + n. -/
def maccSums (f : MaccF) (b : Wb) (gs : List Granule) : List Val :=
  let img := imageNat gs
  (List.range 8192).map fun x => maccSum f b img (x / 64) (x % 64)

/-- The tile after a block: t + s rounded once, t = +0 when Z = 1 (R67, R88). -/
def maccTile (old : BitVec 262144) (z : Bool) (sums : List Val) : BitVec 262144 :=
  pack 262144 32 (List.zipWith
    (fun t s => fp32.encode (Val.add (if z then .fin false 0 0 else fp32.decode t) s) false)
    (elems old 32 8192) sums)

/-- G_d of a drain format (Table 4-9). -/
def mdrnG (ofmt : BitVec 4) : Nat := match fmtD ofmt with | .fp32 => 128 | .bf16 => 64 | _ => 32

/-- Granule `j` of a drained tile, row-major and packed little-endian (R91). -/
def mdrnGranule (ofmt : BitVec 4) (sat : Bool) (tile : BitVec 262144) (j : Nat) : Granule :=
  let f := fmtD ofmt
  let n := 2048 / f.bits
  pack 2048 f.bits ((List.range n).map fun i => f.encode (fp32.decode (elemOf tile 32 (j * n + i))) sat)

end Sys2Proof.Machine
end

