-- ==== Sys2Proof/Machine/Scent.lean ====
section
/-!
DEFINITION. The Scent generator (R74 to R76).
-/

namespace Sys2Proof.Machine

/-- The four words of a Scent state. -/
structure ScentWords where
  x0 : BitVec 32
  x1 : BitVec 32
  x2 : BitVec 32
  x3 : BitVec 32
  deriving DecidableEq, Repr

/-- The four words of a 128-bit value. -/
def ScentWords.of (x : BitVec 128) : ScentWords :=
  ⟨x.extractLsb' 0 32, x.extractLsb' 32 32, x.extractLsb' 64 32, x.extractLsb' 96 32⟩

/-- Word `i` of four. -/
def ScentWords.get (x : ScentWords) (i : Nat) : BitVec 32 :=
  match i with
  | 0 => x.x0 | 1 => x.x1 | 2 => x.x2 | _ => x.x3

/-- Round `r` of Scent (R76). -/
def scentRound (k : ScentWords) (r : Nat) (x : ScentWords) : ScentWords :=
  let x0 := x.x0 ^^^ k.get (r % 4)
  let x2 := x.x2 ^^^ (k.get ((r + 2) % 4) + 0x9E3779B9 * BitVec.ofNat 32 (r + 1))
  let x0 := x0 + x.x1
  let x3 := (x.x3 ^^^ x0).rotateLeft 16
  let x2 := x2 + x3
  let x1 := (x.x1 ^^^ x2).rotateLeft 12
  let x0 := x0 + x1
  let x3 := (x3 ^^^ x0).rotateLeft 8
  let x2 := x2 + x3
  let x1 := (x1 ^^^ x2).rotateLeft 7
  ⟨x1, x2, x3, x0⟩

/-- The four output words of a key and a counter (R76). -/
def scent (key ctr : BitVec 128) : ScentWords :=
  let k := ScentWords.of key
  let c := ScentWords.of ctr
  let x := (List.range 10).foldl (fun x r => scentRound k r x) c
  ⟨x.x0 + c.x0, x.x1 + c.x1, x.x2 + c.x2, x.x3 + c.x3⟩

/-- The counter of a draw (Table 3-4). -/
def scentCtr (part : PartIx) (plan : BitVec 20) (step : BitVec 64) (cell : CellRef) (lane : BitVec 6)
    (call : BitVec 26) : BitVec 128 :=
  BitVec.ofNat 4 part.val ++ plan ++ step ++ BitVec.ofNat 8 cell.ix.val ++ lane ++ call

/-- The uniform FP32 value of a word: w[31:8] × 2^-24. -/
def scentUniform (w : BitVec 32) : BitVec 32 := toF32 (.fin false (w.toNat / 256) (-24))

end Sys2Proof.Machine
end

