-- ==== Sys2Proof/Machine/Transc.lean ====
section
/-!
DEFINITION. The transcendental functions of VTRN (R71, R98): the exact value encoded once. Values are computed in fixed point with 512
fraction bits; the last bits are a guard below any case that decides a rounding (log 8).
-/

namespace Sys2Proof.Machine

/-- Fraction bits of the fixed-point values. -/
def trP : Nat := 512

/-- 1 in fixed point. -/
def trOne : Nat := 2 ^ 512

/-- Sum of z^(2i+1)/(2i+1) from the power `w` = z^(2i+1) on, `z2` = z². -/
def atanhSum (z2 : Nat) : Nat → Nat → Nat → Nat
  | 0, _, _ => 0
  | n + 1, i, w => w / (2 * i + 1) + atanhSum z2 n (i + 1) (w * z2 / trOne)

/-- ln y for fixed-point y in [1, 2). -/
def lnFix (y : Nat) : Nat :=
  let z := (y - trOne) * trOne / (y + trOne)
  2 * atanhSum (z * z / trOne) 170 0 z

/-- ln 2 in fixed point: 2 artanh(1/3). -/
def ln2Fix : Nat := let z := trOne / 3; 2 * atanhSum (z * z / trOne) 170 0 z

/-- Sum of r^i/i! from the term `t` = r^i/i! on. -/
def expSum (r : Nat) : Nat → Nat → Nat → Nat
  | 0, _, _ => 0
  | n + 1, i, t => t + expSum r n (i + 1) (t * r / trOne / (i + 1))

/-- e^r for fixed-point r in [0, 1). -/
def expFix (r : Nat) : Nat := expSum r 110 0 trOne

/-- A dyadic m × 2^e in fixed point, rounded down. -/
def toFix (m : Nat) (e : Int) : Nat :=
  if e + trP ≥ 0 then m * 2 ^ (e + trP).toNat else m / 2 ^ (-(e + trP)).toNat

/-- e^x for a nonzero x in sign and fixed-point magnitude, as a mantissa and an exponent: mant × 2^(k − 512). -/
def expParts (neg : Bool) (x : Nat) : Nat × Int :=
  let k := x / ln2Fix
  let r := x % ln2Fix
  if neg then (expFix (ln2Fix - r), -(k : Int) - 1) else (expFix r, k)

/-- A value known to its 512th bit, with a sticky bit below it. -/
def sticky (m : Nat) (e : Int) : Val := .fin false (2 * m + 1) (e - trP - 1)

/-- Magnitude at or above 2^9: beyond it exp overflows or vanishes in every format. -/
def isHuge (m : Nat) (e : Int) : Bool := decide (m ≠ 0 ∧ (Nat.log2 m : Int) + e ≥ 9)

/-- e^x (Table 4-18). -/
def trExp : Val → Val
  | .nan => .nan
  | .inf n => if n then .fin false 0 0 else .inf false
  | .fin n m e =>
    if m = 0 then .fin false 1 0
    else if isHuge m e then (if n then .fin false 1 (-600) else .fin false 1 600)
    else let p := expParts n (toFix m e); sticky p.1 p.2

/-- 2^x. -/
def trExp2 : Val → Val
  | .nan => .nan
  | .inf n => if n then .fin false 0 0 else .inf false
  | .fin n m e =>
    if m = 0 then .fin false 1 0
    else if isHuge m e then (if n then .fin false 1 (-600) else .fin false 1 600)
    else
      let x := toFix m e
      let k : Int := (x / trOne : Nat)
      let f := x % trOne
      if f = 0 ∧ (e ≥ 0 ∨ m % 2 ^ (-e).toNat = 0) then .fin false 1 (if n then -k else k)
      else if n then sticky (expFix ((trOne - f) * ln2Fix / trOne)) (-k - 1)
      else sticky (expFix (f * ln2Fix / trOne)) k

/-- ln x of a positive dyadic, as sign and fixed-point magnitude. -/
def lnParts (m : Nat) (e : Int) : Bool × Nat :=
  let l := Nat.log2 m
  let ex : Int := e + l
  let y := lnFix (m * 2 ^ trP / 2 ^ l)
  let t : Int := ex * ln2Fix + y
  (decide (t < 0), t.natAbs)

/-- A power of two, exactly. -/
def isPow2 (m : Nat) : Bool := m != 0 && 2 ^ Nat.log2 m == m

/-- ln x. -/
def trLog : Val → Val
  | .nan => .nan
  | .inf n => if n then .nan else .inf false
  | .fin n m e =>
    if m = 0 then .inf true
    else if n then .nan
    else if isPow2 m && (e + Nat.log2 m == 0) then .fin false 0 0
    else let p := lnParts m e; .fin p.1 (2 * p.2 + 1) (-trP - 1)

/-- log2 x. -/
def trLog2 : Val → Val
  | .nan => .nan
  | .inf n => if n then .nan else .inf false
  | .fin n m e =>
    if m = 0 then .inf true
    else if n then .nan
    else if isPow2 m then
      let k : Int := e + Nat.log2 m
      .fin (decide (k < 0)) k.natAbs 0
    else let p := lnParts m e; .fin p.1 (2 * (p.2 * trOne / ln2Fix) + 1) (-trP - 1)

/-- 1 / x. -/
def trRcp (x : Val) : Val := Val.div (.fin false 1 0) x

/-- 1 / √x. -/
def trRsqrt : Val → Val
  | .nan => .nan
  | .inf n => if n then .nan else .fin false 0 0
  | .fin n m e =>
    if m = 0 then .inf n
    else if n then .nan
    else
      let odd := decide (e % 2 ≠ 0)
      let m' := if odd then 2 * m else m
      let e' : Int := if odd then e - 1 else e
      let k := Nat.log2 m' + 64
      let q := 2 ^ (2 * k) / m'
      let r := isqrt q
      .fin false (2 * r + (if r * r * m' = 2 ^ (2 * k) then 0 else 1)) (-(e' / 2) - k - 1)

/-- tanh x. Below 2^-13 the exact value rounds to x in every format. -/
def trTanh : Val → Val
  | .nan => .nan
  | .inf n => .fin n 1 0
  | .fin n m e =>
    if m = 0 then .fin n 0 0
    else if (Nat.log2 m : Int) + e < -13 then .fin n m e
    else if isHuge m e then .fin n 1 0
    else
      let p := expParts true (2 * toFix m e)
      let t := toFix p.1 (p.2 - trP)
      .fin n (2 * ((trOne - t) * trOne / (trOne + t)) + 1) (-trP - 1)

/-- 1 / (1 + e^−x). -/
def trSigmoid : Val → Val
  | .nan => .nan
  | .inf n => if n then .fin false 0 0 else .fin false 1 0
  | .fin n m e =>
    if m = 0 then .fin false 1 (-1)
    else if isHuge m e then (if n then .fin false 1 (-600) else .fin false 1 0)
    else
      let p := expParts true (toFix m e)
      let t := toFix p.1 (p.2 - trP)
      let q := (if n then t else trOne) * trOne / (trOne + t)
      .fin false (2 * q + 1) (-trP - 1)

/-- The function that SUB selects (R98). -/
def trFn (sub : BitVec 4) (x : Val) : Val :=
  match sub.toNat with
  | 0 => trExp x | 1 => trExp2 x | 2 => trLog x | 3 => trLog2 x
  | 4 => trRcp x | 5 => trRsqrt x | 6 => trTanh x | _ => trSigmoid x

end Sys2Proof.Machine
end

