-- ==== Sys2Proof/Machine/VecResult.lean ====
section
/-!
DEFINITION. The results of the vector engine as functions of operand registers (R93, R97 to R106). Masks that only choose the lanes written
are applied when a result lands (R94).
-/

namespace Sys2Proof.Machine

/-! Floating-point elements (R97) -/

/-- FP32 for FMT = 00, BF16 for FMT = 01. -/
def fpOf (fmt : BitVec 2) : Fp := if fmt = 1 then bf16 else fp32

/-- Exact values of the elements of a register. -/
def fpElems (fmt : BitVec 2) (x : Granule) : List Val :=
  let f := fpOf fmt
  (elems x f.width (2048 / f.width)).map f.decode

/-- A register of values, each rounded once. -/
def fpPack (fmt : BitVec 2) (vs : List Val) : Granule :=
  let f := fpOf fmt
  pack 2048 f.width (vs.map fun v => f.encode v false)

/-- A one-operand operation per element. -/
def fpMap (fmt : BitVec 2) (f : Val → Val) (a : Granule) : Granule := fpPack fmt ((fpElems fmt a).map f)

/-- A two-operand operation per element. -/
def fpMap2 (fmt : BitVec 2) (f : Val → Val → Val) (a b : Granule) : Granule :=
  fpPack fmt (List.zipWith f (fpElems fmt a) (fpElems fmt b))

/-- A three-operand operation per element. -/
def fpMap3 (fmt : BitVec 2) (f : Val → Val → Val → Val) (a b c : Granule) : Granule :=
  fpPack fmt (List.zipWith (fun g z => g z) (List.zipWith f (fpElems fmt a) (fpElems fmt b)) (fpElems fmt c))

/-! Bits and lanes (R99) -/

/-- VBIT on one lane. -/
def bitOp (sub : BitVec 4) (a b : BitVec 32) : BitVec 32 :=
  let n := (b.extractLsb' 0 5).toNat
  match sub.toNat with
  | 0 => a &&& b | 1 => a ||| b | 2 => a ^^^ b | 3 => a &&& ~~~b
  | 4 => ~~~a | 5 => a <<< n | 6 => a >>> n | _ => a.rotateLeft n

/-- VBIT. -/
def vbitRes (sub : BitVec 4) (a b : Granule) : Granule := ofLanes fun l => bitOp sub (lane a l) (lane b l)

/-- VLANE; `cnt` is the lane count L of the VB field. -/
def vlaneRes (sub : BitVec 4) (a b : Granule) (cnt : Nat) : Granule :=
  ofLanes fun l =>
    match sub.toNat with
    | 0 => lane a cnt
    | 1 => lane a ((lane b l).extractLsb' 0 6).toNat
    | 2 => if l ≥ cnt then lane a (l - cnt) else 0
    | 3 => if l + cnt ≤ 63 then lane a (l + cnt) else 0
    | _ => BitVec.ofNat 32 l

/-! Compare and masks (R100) -/

/-- VCMP condition on two lanes: −0 equals +0; a comparison with NaN is false, but NE is true. -/
def cmpLane (cond : BitVec 3) (a b : BitVec 32) : Bool :=
  let x := f32 a
  let y := f32 b
  if x.isNan || y.isNan then cond == 1
  else
    let r := x.cmp y
    match cond.toNat with
    | 0 => r == 0 | 1 => r != 0 | 2 => decide (r < 0) | 3 => decide (r ≤ 0)
    | 4 => decide (r > 0) | _ => decide (r ≥ 0)

/-- The mask whose lane `l` is `f l`. -/
def maskOf (f : Nat → Bool) : BitVec 64 :=
  pack 64 1 ((List.range 64).map fun l => if f l then 1 else 0)

/-- VCMP. -/
def vcmpRes (cond : BitVec 3) (a b : Granule) : BitVec 64 := maskOf fun l => cmpLane cond (lane a l) (lane b l)

/-- VMOP (Table 4-14). -/
def vmopRes (sub : BitVec 4) (n : BitVec 7) (a b : BitVec 64) : BitVec 64 :=
  match sub.toNat with
  | 0 => a &&& b | 1 => a ||| b | 2 => a ^^^ b | 3 => a &&& ~~~b | 4 => ~~~a
  | _ => maskOf fun l => decide (l < n.toNat)

/-! Conversions (R101, R102) -/

/-- Exact value of element `es` of a source register, with its scale or palette from VB. -/
def srcElem (f : Fmt) (a b : Granule) (es : Nat) : Val :=
  let x := elemOf a f.bits es
  if f.isMx then (f.decode x).mul (e8m0 (elemOf b 8 (es / 32)))
  else if f.isPalette then bf16.decode (elemOf b 16 x)
  else f.decode x

/-- Elements converted at once: n = min(cs, cd). -/
def cvtCount (s d : Fmt) : Nat := min s.count d.count

/-- First source element that PART selects. -/
def cvtSrc (s d : Fmt) (part : BitVec 3) : Nat := if s.count > d.count then part.toNat * cvtCount s d else 0

/-- First destination element that PART selects. -/
def cvtDst (s d : Fmt) (part : BitVec 3) : Nat := if d.count > s.count then part.toNat * cvtCount s d else 0

/-- Selected source values, exactly. -/
def cvtVals (s d : Fmt) (part : BitVec 3) (a b : Granule) : List Val :=
  (List.range (cvtCount s d)).map fun i => srcElem s a b (cvtSrc s d part + i)

/-- Fields placed at consecutive elements from `first` on, every other bit 0 (R93). -/
def placeElems (w first : Nat) (xs : List Nat) : Granule :=
  BitVec.ofNat 2048 (packNat w xs * 2 ^ (w * first))

/-- VCVT. -/
def vcvtRes (s d : Fmt) (part : BitVec 3) (sat : Bool) (a b : Granule) : Granule :=
  placeElems d.bits (cvtDst s d part) ((cvtVals s d part a b).map fun v => d.encode v sat)

/-- Blocks of 32 of a list. -/
def blocks32 : Nat → List Val → List (List Val)
  | 0, _ => []
  | n + 1, vs => vs.take 32 :: blocks32 n (vs.drop 32)

/-- VQMX: the elements for VD and the scales for VD + 1. -/
def vqmxRes (s d : Fmt) (part : BitVec 3) (a : Granule) : Granule × Granule :=
  let q := (blocks32 (cvtCount s d / 32) (cvtVals s d part a 0)).map (quantise d)
  (placeElems d.bits (cvtDst s d part) (q.map (·.2)).flatten,
   placeElems 8 (cvtDst s d part / 32) (q.map (·.1)))

/-! Reduction and scan (R103, R104) -/

/-- One level of the reduction tree: neighbours joined pairwise. -/
def pairUp (op : BitVec 32 → BitVec 32 → BitVec 32) : List (BitVec 32) → List (BitVec 32)
  | a :: b :: xs => op a b :: pairUp op xs
  | xs => xs

/-- VRED operation on two lanes. -/
def redOp (sub : BitVec 4) (a b : BitVec 32) : BitVec 32 :=
  match sub.toNat with
  | 0 => toF32 (Val.add (f32 a) (f32 b))
  | 1 => toF32 (Val.vmax (f32 a) (f32 b))
  | _ => toF32 (Val.vmin (f32 a) (f32 b))

/-- Identity of a lane that takes no part (R103). -/
def redIdent (sub : BitVec 4) : BitVec 32 := if sub = 0 then 0x80000000 else 0x7FC00000

/-- VRED: the tree of six levels, its result in every lane. -/
def vredRes (sub : BitVec 4) (a : Granule) (en : BitVec 64) : Granule :=
  let s := (List.range 64).map fun l => if en.getLsbD l then lane a l else redIdent sub
  let op := redOp sub
  let r := pairUp op (pairUp op (pairUp op (pairUp op (pairUp op (pairUp op s)))))
  ofLanes fun _ => r.headD 0

/-- The sequential recurrence h := round(a × h + b), each element rounded once in format `f` (R72). -/
def scanGo (f : Fp) : Nat → List Nat → List Nat → List Nat
  | _, [], _ => []
  | _, _, [] => []
  | h, a :: as, b :: bs =>
    let h' := f.encode (Val.fma (f.decode a) (f.decode h) (f.decode b)) false
    h' :: scanGo f h' as bs

/-- VSCAN: carry from the last element of VC, or +0. -/
def vscanRes (fmt : BitVec 2) (zeroCarry : Bool) (a b c : Granule) : Granule :=
  let f := fpOf fmt
  let n := 2048 / f.width
  let h := if zeroCarry then 0 else elemOf c f.width (n - 1)
  pack 2048 f.width (scanGo f h (elems a f.width n) (elems b f.width n))

/-! Order (R105) -/

/-- A key with its payload and its index. -/
structure Keyed where
  key : BitVec 32
  pay : BitVec 32
  ix : Nat
  deriving DecidableEq, Repr

/-- Strictly earlier in the total order of R73, in the direction told. -/
def earlier (desc : Bool) (a b : Keyed) : Bool :=
  if desc then decide (orderKey b.key < orderKey a.key) else decide (orderKey a.key < orderKey b.key)

/-- Insert before every entry that is not strictly earlier: the lower index stays first among equals. -/
def insertKeyed (desc : Bool) (x : Keyed) : List Keyed → List Keyed
  | [] => [x]
  | y :: ys => if earlier desc y x then y :: insertKeyed desc x ys else x :: y :: ys

/-- The stable order of a list. -/
def sortKeyed (desc : Bool) (xs : List Keyed) : List Keyed := xs.foldr (insertKeyed desc) []

/-- Keys and payloads of two registers, with indices from `i0` on. -/
def keyedOf (keys pays : Granule) (i0 : Nat) : List Keyed :=
  (List.range 64).map fun l => ⟨lane keys l, lane pays l, i0 + l⟩

/-- The first 64 entries as a key register and a payload register. -/
def keyedRegs (xs : List Keyed) : Granule × Granule :=
  (pack 2048 32 ((xs.take 64).map (·.key.toNat)), pack 2048 32 ((xs.take 64).map (·.pay.toNat)))

/-- VSORT. DEDUCED (log 84): a NaN key is moved, not produced, and keeps its bits (R56); VMRG the same. -/
def vsortRes (desc : Bool) (a b : Granule) : Granule × Granule := keyedRegs (sortKeyed desc (keyedOf a b 0))

/-- VMRG: the first 64 of the 128 entries. -/
def vmrgRes (desc : Bool) (a a1 b b1 : Granule) : Granule × Granule :=
  keyedRegs (sortKeyed desc (keyedOf a a1 0 ++ keyedOf b b1 64))

/-- VSELK. -/
def vselkRes (desc : Bool) (k : Nat) (a : Granule) (en : BitVec 64) : BitVec 64 :=
  let xs := (sortKeyed desc ((keyedOf a 0 0).filter fun x => en.getLsbD x.ix)).take k
  maskOf fun l => xs.any fun x => x.ix == l

/-- VFIRST: lowest or highest set lane, 64 if none. -/
def vfirstRes (highest : Bool) (m : BitVec 64) : Granule :=
  let ls := (List.range 64).filter fun l => m.getLsbD l
  let r := (if highest then ls.getLast? else ls.head?).getD 64
  ofLanes fun _ => BitVec.ofNat 32 r

/-! Draws (R106) -/

/-- CALL of a draw: ITER mod 256 above CALLB when AIX = 1dd. -/
def callOf (iter : Nat) (callb : BitVec 18) : BitVec 26 := BitVec.ofNat 8 iter ++ callb

/-- VRND: one draw per lane. -/
def vrndRes (key : BitVec 128) (ctr : BitVec 6 → BitVec 128) (wsel : BitVec 2) (uniform : Bool) : Granule :=
  ofLanes fun l =>
    let w := (scent key (ctr (BitVec.ofNat 6 l))).get wsel.toNat
    if uniform then scentUniform w else w

end Sys2Proof.Machine
end

