-- ==== Sys2Proof/Machine/Issue.lean ====
section
/-!
DEFINITION. Issuing an instruction. `Plan` says everything an instruction does at its issue cycle; `Cell.issue` does it, once for every
instruction: the checks of R30, R84, R116, R121, R48 and R34 first, then LU bits, LAND, landings, bank accesses, signals and the PC.
-/

namespace Sys2Proof.Machine

/-- A region of the partition's memory (R184): tier, first page as the page number of an address (VPAGE and TIER of Table 8-2), pages. -/
structure MapRow where
  lpddr : Bool
  first : Nat
  pages : Nat
  deriving DecidableEq, Repr

/-- What a cell sees of the step it runs: hook values (Table 5-11), seed keys, routes, mapped memory, CYC. `free` is the next free value. -/
structure StepCtx where
  part : PartIx
  cols : BitVec 16
  plan : BitVec 20
  step : BitVec 64
  variant : BitVec 16
  releaseHt : BitVec 64
  slots : List SlotHooks
  seeds : List (BitVec 128)
  routes : List RouteTable
  map : List MapRow
  cyc : BitVec 32
  free : Nat
  deriving DecidableEq, Repr

/-- How issue goes on after an instruction (R25, R112, R130). -/
inductive Flow where
  | next (interval : BitVec 32)
  | loop (count endPc : BitVec 32)
  /-- a LOOP on a stack whose four levels are in use (R27, R113): every level free, from free value `n` on (R9) -/
  | spill (n : Nat)
  | wait (w : WaitRec)
  | stop
  | jump (pc interval : BitVec 32)
  deriving DecidableEq, Repr

/-- Everything an instruction does at its issue. -/
structure Plan where
  uses : List Use := []
  raises : List (RegName × BitVec 32) := []
  ports : List PortWindow := []
  xdie : Bool := false
  pop : Option Side := none
  lands : List Landing := []
  stores : List Access := []
  read : Option (Sink × List (BitVec 14)) := none
  signals : List Signal := []
  tx : Option Tx := none
  report : Option Report := none
  spf : Option Refill := none
  flow : Flow := .next 1
  draws : Nat := 0
  drawn : Option (BitVec 12) := none
  deriving DecidableEq, Repr

/-! Small builders -/

/-- The signal of STAL and SINC at c + 2; SINC = 0 is none (R32, R81). -/
def sigAt (o : Origin) (t : BitVec 6) (inc : Nat) : List Signal :=
  if inc = 0 then [] else [⟨o.issued + 2, t, inc, o⟩]

/-- The signal of the common frame. -/
def sigOf (o : Origin) (g : SigF) : List Signal := sigAt o g.stal g.sinc.toNat

/-- Register that a landing writes. -/
def LandVal.reg : LandVal → RegName
  | .tile i _ | .macc i _ _ => .a i
  | .wb i _ => .wb i
  | .pal i _ => .pal i
  | .v i _ _ => .v i
  | .m i _ _ => .m i
  | .p i _ => .p i
  | .s i _ => .s i

/-- A plan that lands values computed at issue, all after `lat` cycles. -/
def landing (o : Origin) (sg : SigF) (uses : List Use) (kill : Bool) (lat : BitVec 32) (interval : BitVec 32)
    (vals : List LandVal) : Plan :=
  { uses := uses
    raises := vals.map fun v => (v.reg, o.issued + lat)
    lands := vals.map fun v => ⟨o.issued + lat, v, kill, true, o⟩
    signals := sigOf o sg
    flow := .next interval }

/-- A plan that reads granules at c, c + 1, … for a sink whose value lands in `dst` after `lat` cycles. -/
def loading (o : Origin) (sg : SigF) (uses : List Use) (dst : List (RegName × BitVec 32)) (port : List PortKind)
    (sink : Sink) (gs : List (BitVec 14)) : Plan :=
  { uses := uses
    raises := dst.map fun d => (d.1, o.issued + d.2)
    ports := port.map fun k => ⟨k, o.issued, o.issued + BitVec.ofNat 32 gs.length - 1, o.issued⟩
    read := some (sink, gs)
    signals := sigOf o sg }

/-- `n` consecutive granules mod 16,384. -/
def granules (g : BitVec 14) (n : Nat) : List (BitVec 14) := (List.range n).map fun j => g + BitVec.ofNat 14 j

/-- Vector register operands. -/
def useV (i : BitVec 6) (lu : Bool) : Use := ⟨.v i, lu⟩

/-- The value of a vector register. -/
def Cell.vr (c : Cell) (i : BitVec 6) : Granule := (rd c.v i).val

/-! Matrix engine (R86 to R91) -/

def planMpal (o : Origin) (f : MpalF) (c : Cell) : Plan :=
  let size := if f.pf then 16 else 32
  let byte : BitVec 22 := BitVec.ofNat 22 (f.addr.toNat * 256 + f.slot.toNat * 16 + c.mxe.index f.aix * size)
  loading o f.sg [] [(.pal f.pd, 8)] [.weight] (.mpal f.pd f.kill f.pf byte) [byte.extractLsb' 8 14]

def planMldw (o : Origin) (f : MldwF) (c : Cell) : Plan :=
  let fm := fmtD f.wfmt
  let g := mldwG fm
  let uses : List Use := if fm.isPalette then [⟨.pal f.pa, f.palu⟩, ⟨.pal f.pb, f.pblu⟩] else []
  loading o f.sg uses [(.wb f.wd, BitVec.ofNat 32 (g + 7))] [.weight]
    (.mldw f.wd f.kill f.wfmt (rd c.pal f.pa).val (rd c.pal f.pb).val)
    (granules (granuleAt f.addr (c.mxe.index f.aix) g) g)

/-- The buffer's tag differs from WFMT and is not the reset tag (R80, R89). -/
def maccBad (f : MaccF) (b : Wb) : Bool := b.tag != none && b.tag != some f.wfmt

def planMacc (x : StepCtx) (o : Origin) (f : MaccF) (c : Cell) : Plan :=
  let b := (rd c.wb f.ws).val
  let bad := maccBad f b
  let p := loading o f.sg [⟨.wb f.ws, f.wlu⟩] [(.a f.tile, BitVec.ofNat 32 (maccN f + 23))] []
    (.macc ⟨f, b, if bad then some x.free else none⟩)
    (granules (granuleAt f.addr (c.mxe.index f.aix) (maccG f)) (maccG f))
  { p with flow := .next (BitVec.ofNat 32 (maccN f)), draws := if bad then 1 else 0 }

def planMdrn (o : Origin) (f : MdrnF) (c : Cell) : Plan :=
  let g := mdrnG f.ofmt
  let t := (rd c.a f.tile).val
  let first := granuleAt f.addr (c.mxe.index f.aix) g
  { uses := [⟨.a f.tile, f.tlu⟩]
    ports := [⟨.drain, o.issued, o.issued + BitVec.ofNat 32 g - 1, o.issued⟩]
    stores := (List.range g).map fun j =>
      ⟨o.issued + 4 + BitVec.ofNat 32 j, first + BitVec.ofNat 14 j, o,
        .store (mdrnGranule f.ofmt f.sat t j) (BitVec.allOnes 256)⟩
    signals := sigOf o f.sg }

/-! Vector engine (R96 to R106) -/

/-- A VR-class result written under the lane mask. -/
def vrLand (o : Origin) (f : VrF) (c : Cell) (uses : List Use) (lat interval : BitVec 32) (r : Granule) : Plan :=
  landing o f.sg (uses ++ maskUse f.msk f.mlu) f.kill lat interval [.v f.vd r (c.enables f.msk)]

/-- A VR-class result written to every lane. -/
def vrAll (o : Origin) (f : VrF) (uses : List Use) (lat interval : BitVec 32) (r : Granule) : Plan :=
  landing o f.sg (uses ++ maskUse f.msk f.mlu) f.kill lat interval [.v f.vd r (BitVec.allOnes 64)]

/-- A register pair VD and VD + 1. -/
def vrPair (o : Origin) (f : VrF) (uses : List Use) (lat interval : BitVec 32) (r : Granule × Granule) : Plan :=
  landing o f.sg uses f.kill lat interval
    [.v f.vd r.1 (BitVec.allOnes 64), .v (f.vd + 1) r.2 (BitVec.allOnes 64)]

def planVld (o : Origin) (f : VmemF) (c : Cell) : Plan :=
  loading o f.sg (maskUse f.msk f.mlu) [(.v f.vr, 8)] [] (.vld f.vr f.kl (c.enables f.msk))
    [granuleStr f.addr (c.vxe.index f.aix) f.str]

def planVst (o : Origin) (f : VmemF) (c : Cell) : Plan :=
  { uses := useV f.vr f.kl :: maskUse f.msk f.mlu
    stores := [⟨o.issued + 4, granuleStr f.addr (c.vxe.index f.aix) f.str, o,
      .store (c.vr f.vr) (laneBytes (c.enables f.msk))⟩]
    signals := sigOf o f.sg }

/-- The entry that a pop takes: the oldest landed one, zeros where there is none (the pop then faults). -/
def Cell.head (c : Cell) (q : Side) : Granule :=
  match (c.queue q).landed with
  | e :: _ => e.data
  | [] => 0

def planVpop (o : Origin) (f : VqF) (c : Cell) : Plan :=
  let q := Side.ofCode f.q
  { landing o f.sg [] f.kill 2 1 [.v f.vd (c.head q) (BitVec.allOnes 64)] with pop := some q }

def planVimm (o : Origin) (f : ViF) (c : Cell) : Plan :=
  landing o f.sg (maskUse f.msk f.mlu) f.kill 2 1 [.v f.vd (ofLanes fun _ => f.imm) (c.enables f.msk)]

def planVadd (o : Origin) (f : VrF) (c : Cell) : Plan :=
  vrLand o f c [useV f.va f.alu, useV f.vb f.blu] 6 1 (fpMap2 f.fmt Val.add (c.vr f.va) (c.vr f.vb))

def planVsub (o : Origin) (f : VrF) (c : Cell) : Plan :=
  vrLand o f c [useV f.va f.alu, useV f.vb f.blu] 6 1
    (fpMap2 f.fmt (fun a b => a.add b.neg) (c.vr f.va) (c.vr f.vb))

def planVmul (o : Origin) (f : VrF) (c : Cell) : Plan :=
  vrLand o f c [useV f.va f.alu, useV f.vb f.blu] 6 1 (fpMap2 f.fmt Val.mul (c.vr f.va) (c.vr f.vb))

def planVfma (o : Origin) (f : VrF) (c : Cell) : Plan :=
  vrLand o f c [useV f.va f.alu, useV f.vb f.blu, useV f.vc f.clu] 6 1
    (fpMap3 f.fmt Val.fma (c.vr f.va) (c.vr f.vb) (c.vr f.vc))

def planVmin (o : Origin) (f : VrF) (c : Cell) : Plan :=
  vrLand o f c [useV f.va f.alu, useV f.vb f.blu] 4 1 (fpMap2 f.fmt Val.vmin (c.vr f.va) (c.vr f.vb))

def planVmax (o : Origin) (f : VrF) (c : Cell) : Plan :=
  vrLand o f c [useV f.va f.alu, useV f.vb f.blu] 4 1 (fpMap2 f.fmt Val.vmax (c.vr f.va) (c.vr f.vb))

def planVdiv (o : Origin) (f : VrF) (c : Cell) : Plan :=
  vrLand o f c [useV f.va f.alu, useV f.vb f.blu] 18 4 (fpMap2 f.fmt Val.div (c.vr f.va) (c.vr f.vb))

def planVsqrt (o : Origin) (f : VrF) (c : Cell) : Plan :=
  vrLand o f c [useV f.va f.alu] 18 4 (fpMap f.fmt Val.sqrt (c.vr f.va))

def planVtrn (o : Origin) (f : VrF) (c : Cell) : Plan :=
  vrLand o f c [useV f.va f.alu] 12 2 (fpMap f.fmt (trFn f.sub) (c.vr f.va))

def planVbit (o : Origin) (f : VrF) (c : Cell) : Plan :=
  let ub := if f.sub = 4 then [] else [useV f.vb f.blu]
  vrLand o f c (useV f.va f.alu :: ub) 2 1 (vbitRes f.sub (c.vr f.va) (c.vr f.vb))

def planVlane (o : Origin) (f : VrF) (c : Cell) : Plan :=
  let ua := if f.sub = 4 then [] else [useV f.va f.alu]
  let ub := if f.sub = 1 then [useV f.vb f.blu] else []
  vrLand o f c (ua ++ ub) 4 1 (vlaneRes f.sub (c.vr f.va) (c.vr f.vb) f.vb.toNat)

def planVcmp (o : Origin) (f : VkF) (c : Cell) : Plan :=
  landing o f.sg ([useV f.va f.alu, useV f.vb f.blu] ++ maskUse f.msk f.mlu) f.kill 4 1
    [.m f.md (vcmpRes f.cond (c.vr f.va) (c.vr f.vb)) (c.enables f.msk)]

def planVsel (o : Origin) (f : VrF) (c : Cell) : Plan :=
  vrAll o f [useV f.va f.alu, useV f.vb f.blu] 2 1 (mergeLanes (c.enables f.msk) (c.vr f.vb) (c.vr f.va))

def planVmop (o : Origin) (f : VmF) (c : Cell) : Plan :=
  let ua : List Use := if f.sub = 5 then [] else [⟨.m f.ma, f.malu⟩]
  let ub : List Use := if f.sub = 5 ∨ f.sub = 4 then [] else [⟨.m f.mb, f.mblu⟩]
  landing o f.sg (ua ++ ub) f.kill 2 1
    [.m f.md (vmopRes f.sub f.n (rd c.m f.ma).val (rd c.m f.mb).val) (BitVec.allOnes 64)]

def planVcvt (o : Origin) (f : VcF) (c : Cell) : Plan :=
  let s := fmtD f.sfmt
  let ub := if s.isMx || s.isPalette then [useV f.vb f.blu] else []
  landing o f.sg (useV f.va f.alu :: ub) f.kill 6 1
    [.v f.vd (vcvtRes s (fmtD f.dfmt) f.part f.sat (c.vr f.va) (c.vr f.vb)) (BitVec.allOnes 64)]

def planVqmx (o : Origin) (f : VcF) (c : Cell) : Plan :=
  let r := vqmxRes (fmtD f.sfmt) (fmtD f.dfmt) f.part (c.vr f.va)
  landing o f.sg [useV f.va f.alu] f.kill 10 2
    [.v f.vd r.1 (BitVec.allOnes 64), .v (f.vd + 1) r.2 (BitVec.allOnes 64)]

def planVred (o : Origin) (f : VrF) (c : Cell) : Plan :=
  vrAll o f [useV f.va f.alu] 14 2 (vredRes f.sub (c.vr f.va) (c.enables f.msk))

def planVscan (o : Origin) (f : VrF) (c : Cell) : Plan :=
  let uc := if f.sub.getLsbD 0 then [] else [useV f.vc f.clu]
  vrAll o f ([useV f.va f.alu, useV f.vb f.blu] ++ uc) 20 2
    (vscanRes f.fmt (f.sub.getLsbD 0) (c.vr f.va) (c.vr f.vb) (c.vr f.vc))

def planVsort (o : Origin) (f : VrF) (c : Cell) : Plan :=
  vrPair o f [useV f.va f.alu, useV f.vb f.blu] 24 8 (vsortRes (f.sub.getLsbD 0) (c.vr f.va) (c.vr f.vb))

def planVmrg (o : Origin) (f : VrF) (c : Cell) : Plan :=
  vrPair o f [useV f.va f.alu, useV (f.va + 1) f.alu, useV f.vb f.blu, useV (f.vb + 1) f.blu] 12 4
    (vmrgRes (f.sub.getLsbD 0) (c.vr f.va) (c.vr (f.va + 1)) (c.vr f.vb) (c.vr (f.vb + 1)))

def planVselk (o : Origin) (f : VkF) (c : Cell) : Plan :=
  landing o f.sg (useV f.va f.alu :: maskUse f.msk f.mlu) f.kill 16 4
    [.m f.md (vselkRes (f.cond.getLsbD 0) f.ksel.toNat (c.vr f.va) (c.enables f.msk)) (BitVec.allOnes 64)]

def planVfirst (o : Origin) (f : VrF) (c : Cell) : Plan :=
  vrAll o f [] 4 1 (vfirstRes (f.sub.getLsbD 0) (c.enables f.msk))

/-- Key of a draw: a seed-table entry, or the entry that the seed index of a batch slot names; zero for an empty slot (R75, R106,
R172). -/
def StepCtx.key (x : StepCtx) (ksrc : Bool) (sel : BitVec 12) : BitVec 128 :=
  if ksrc then
    match x.slots[sel.toNat]? with
    | some s => if s.occupied then x.seeds.getD s.seed.toNat 0 else 0
    | none => 0
  else x.seeds.getD sel.toNat 0

/-- The counter of a draw of this step and cell. -/
def StepCtx.ctr (x : StepCtx) (cell : CellRef) (call : BitVec 26) (lane : BitVec 6) : BitVec 128 :=
  scentCtr x.part x.plan x.step cell lane call

def planVrnd (x : StepCtx) (o : Origin) (f : VsF) (c : Cell) : Plan :=
  let call := callOf (c.vxe.index f.aix) f.callb
  { landing o f.sg [] f.kill 10 1
      [.v f.vd (vrndRes (x.key f.ksrc f.sel) (x.ctr o.cell call) f.wsel f.form) (BitVec.allOnes 64)] with
    drawn := if f.ksrc then none else some f.sel }

/-! Control instructions (R34, R110 to R115) -/

/-- Due cycle of a wait (R110). -/
def waitDue (f : WaitF) (e : Engine) : Nat :=
  if f.dm = 0 then f.due.toNat else e.istart (f.dm.toNat - 1) + f.due.toNat

def planWait (o : Origin) (f : WaitF) (c : Cell) : Plan :=
  { flow := .wait ⟨f, waitDue f (c.eng o.eng), o.issued, o.pc⟩ }

def planLoop (o : Origin) (f : LoopF) : Plan :=
  { signals := sigOf o f.sg, flow := .loop (f.count.setWidth 32) (o.pc + 8 * f.body.setWidth 32) }

/-- SIG: the two signals together; increments of one tally add (R114). -/
def planSig (o : Origin) (f : SigTwoF) : Plan :=
  { signals :=
      if f.sg.stal = f.tal2 then sigAt o f.tal2 (f.sg.sinc.toNat + f.inc2.toNat)
      else sigOf o f.sg ++ sigAt o f.tal2 f.inc2.toNat }

def planDly (o : Origin) (f : DlyF) : Plan := { signals := sigOf o f.sg, flow := .next f.n }

def planStepend : Plan := { flow := .stop }

/-! Move engine (R116 to R124) -/

/-- The upper half replaced, the lower half kept (R117). -/
def withHi (old : BitVec 64) (imm : BitVec 32) : BitVec 64 := imm ++ old.extractLsb' 0 32

def planPset (o : Origin) (f : PsetF) (c : Cell) : Plan :=
  if f.hi then landing o f.sg [⟨.p f.pd, true⟩] f.kill 2 1 [.p f.pd (withHi (rd c.p f.pd).val f.imm)]
  else landing o f.sg [] f.kill 2 1 [.p f.pd (f.imm.setWidth 64)]

def planPadd (o : Origin) (f : PaddF) (c : Cell) : Plan :=
  landing o f.sg [⟨.p f.pa, f.alu⟩] f.kill 2 1 [.p f.pd ((rd c.p f.pa).val + f.imm.signExtend 64)]

def planPld (o : Origin) (f : PldF) (c : Cell) : Plan :=
  loading o f.sg [] [(.p f.pd, 8)] [.dmeRead] (.pld f.pd f.kill f.word) [granuleAt f.addr (c.dme.index f.aix) 1]

/-- The neighbour on a side, within the virtual grid. -/
def CellRef.next (c : CellRef) : Side → Option CellRef
  | .n => if h : c.row.val = 0 then none else some ⟨⟨c.row.val - 1, by omega⟩, c.col⟩
  | .s => if h : c.row.val + 1 < 12 then some ⟨⟨c.row.val + 1, h⟩, c.col⟩ else none
  | .w => if h : c.col.val = 0 then none else some ⟨c.row, ⟨c.col.val - 1, by omega⟩⟩
  | .e => if h : c.col.val + 1 < 16 then some ⟨c.row, ⟨c.col.val + 1, h⟩⟩ else none

/-- A push from column 7 east or from column 8 west crosses the die-to-die link (R48). -/
def crossesDie (c : CellRef) (d : Side) : Bool :=
  (d == .e && c.col.val == 7) || (d == .w && c.col.val == 8)

def planPush (o : Origin) (f : PushF) (c : Cell) : Plan :=
  let d := Side.ofCode f.dir
  { loading o f.sg [] [] [.dmeRead] (.push d f.qtal f.qinc) [granuleAt f.addr (c.dme.index f.aix) 1] with
    xdie := crossesDie o.cell d }

def planDpop (o : Origin) (f : DpopF) (c : Cell) : Plan :=
  let q := Side.ofCode f.q
  { pop := some q
    ports := [⟨.dmeWrite, o.issued + 4, o.issued + 4, o.issued⟩]
    stores := [⟨o.issued + 4, granuleAt f.addr (c.dme.index f.aix) 1, o, .store (c.head q) (BitVec.allOnes 256)⟩]
    signals := sigOf o f.sg }

def planDcpy (o : Origin) (f : DcpyF) (c : Cell) : Plan :=
  let g := f.gm1.toNat + 1
  let i := c.dme.index f.aix
  let p := loading o f.sg [] [] [.dmeRead] (.copy (granuleAt f.dst i g)) (granules (granuleAt f.src i g) g)
  { p with ports := p.ports ++ [⟨.dmeWrite, o.issued + 4, o.issued + 3 + BitVec.ofNat 32 g, o.issued⟩] }

/-- The memory range is granule-aligned and lies wholly within one mapped tier (R120). -/
def StepCtx.memOk (x : StepCtx) (a : BitVec 64) (g : Nat) : Bool :=
  let lo := a.toNat
  let hi := lo + g * 256
  let covers (t : Bool) (pg : Nat) : Bool :=
    x.map.any fun r => r.lpddr == t && decide (r.first ≤ pg ∧ pg < r.first + r.pages)
  let p0 := lo / 2097152
  let n := (hi - 1) / 2097152 - p0 + 1
  lo % 256 == 0 && [false, true].any fun t => (List.range n).all fun i => covers t (p0 + i)

/-- Address of the memory side of a DMEM instruction (R120). -/
def dmemAddr (f : DmemF) (c : Cell) : BitVec 64 :=
  (rd c.p f.ps).val + BitVec.ofNat 64 (c.dme.index f.aix) * f.str.signExtend 64 * 256

/-- The transaction of a DMEM instruction. -/
def dmemTx (x : StepCtx) (o : Origin) (k : TxKind) (f : DmemF) (c : Cell) : Tx :=
  let g := f.gm1.toNat + 1
  let a := dmemAddr f c
  { kind := k, ctal := f.ctal, cinc := f.cinc, by_ := o, serial := c.serial
    first := granuleAt f.caddr (c.dme.index f.aix) g, g := g, mem := a, legal := x.memOk a g
    wild := false, route := 0, kth := 0, arrived := 0, written := 0, drained := 0, raced := [], sealed := none, done := false }

def planDrd (x : StepCtx) (o : Origin) (f : DmemF) (c : Cell) : Plan :=
  { uses := [⟨.p f.ps, f.plu⟩], tx := some (dmemTx x o .drd f c) }

/-- The lowest free transaction number; 0 where none is free (the instruction is then held, R42). -/
def Cell.freeTx (c : Cell) : Fin 64 := ((List.finRange 64).find? fun i => c.txs[i].isNone).getD 0

/-- Reads of a range into the staging buffer for a transaction (R121, R124). -/
def stageRead (o : Origin) (c : Cell) (t : Tx) : Plan :=
  { loading o ⟨0, 0⟩ [] [] [.dmeRead] (.stage c.freeTx) (granules t.first t.g) with tx := some t }

def planDwr (x : StepCtx) (o : Origin) (f : DmemF) (c : Cell) : Plan :=
  { stageRead o c (dmemTx x o .dwr f c) with uses := [⟨.p f.ps, f.plu⟩] }

/-- The route entry that a ROUTE field names in a cell's table. -/
def StepCtx.route (x : StepCtx) (cell : CellRef) (r : BitVec 12) : Option RouteEntry :=
  match x.routes.find? fun t => t.vcell.toNat == cell.ix.val with
  | some t => t.entries[r.toNat]?
  | none => none

/-- Transfers already started on a tag in the step. -/
def Cell.kthOf (c : Cell) (send : Bool) (tag : BitVec 16) : Nat :=
  match c.kth.find? fun k => k.1 == (send, tag) with
  | some k => k.2
  | none => 0

/-- Tag of a route field; 0 where the table has no such entry. -/
def StepCtx.tag (x : StepCtx) (cell : CellRef) (r : BitVec 12) : BitVec 16 :=
  match x.route cell r with
  | some e => e.tag
  | none => 0

/-- The transaction of a DLINK instruction. -/
def dlinkTx (x : StepCtx) (o : Origin) (k : TxKind) (f : DlinkF) (c : Cell) : Tx :=
  let g := f.gm1.toNat + 1
  { kind := k, ctal := f.ctal, cinc := f.cinc, by_ := o, serial := c.serial
    first := granuleAt f.caddr (c.dme.index f.aix) g, g := g, mem := 0, legal := true
    route := f.route, kth := c.kthOf (k == .dsnd) (x.tag o.cell f.route)
    wild := false, arrived := 0, written := 0, drained := 0, raced := [], sealed := none, done := false }

def planDsnd (x : StepCtx) (o : Origin) (f : DlinkF) (c : Cell) : Plan := stageRead o c (dlinkTx x o .dsnd f c)

def planDrcv (x : StepCtx) (o : Origin) (f : DlinkF) (c : Cell) : Plan := { tx := some (dlinkTx x o .drcv f c) }

/-! Sequence engine (R128 to R134) -/

/-- SALU operation on two 64-bit values (R128). -/
def saluOp (sub : BitVec 4) (a b : BitVec 64) : BitVec 64 :=
  let n := (b.extractLsb' 0 6).toNat
  match sub.toNat with
  | 0 => a + b | 1 => a - b | 2 => a * b | 3 => a &&& b | 4 => a ||| b | 5 => a ^^^ b
  | 6 => a <<< n | 7 => a >>> n | 8 => a.sshiftRight n
  | 9 => if a.slt b then a else b
  | 10 => if a.slt b then b else a
  | 11 => if a.slt b then 1 else 0
  | 12 => if a.ult b then 1 else 0
  | _ => if a = b then 1 else 0

def planSalu (o : Origin) (f : SaluF) (c : Cell) : Plan :=
  let ub : List Use := if f.i then [] else [⟨.s f.sb, f.blu⟩]
  let b := if f.i then f.imm.signExtend 64 else (rd c.s f.sb).val
  landing o f.sg (⟨.s f.sa, f.alu⟩ :: ub) f.kill (if f.sub = 2 then 4 else 2) 1
    [.s f.sd (saluOp f.sub (rd c.s f.sa).val b)]

def planSimm (o : Origin) (f : SimmF) (c : Cell) : Plan :=
  if f.hi then landing o f.sg [⟨.s f.sd, true⟩] f.kill 2 1 [.s f.sd (withHi (rd c.s f.sd).val f.imm)]
  else landing o f.sg [] f.kill 2 1 [.s f.sd (f.imm.signExtend 64)]

/-- Byte address of an SLD or SST (R129). -/
def smemByte (f : SmemF) (c : Cell) : BitVec 22 :=
  f.addr + BitVec.ofNat 22 (c.sqe.index f.aix) * f.str.signExtend 22 * 8

def planSld (o : Origin) (f : SmemF) (c : Cell) : Plan :=
  let a := smemByte f c
  loading o f.sg [] [(.s f.srg, 8)] [] (.sld f.srg f.kl (a.extractLsb' 3 5)) [a.extractLsb' 8 14]

def planSst (o : Origin) (f : SmemF) (c : Cell) : Plan :=
  let a := smemByte f c
  let w := (a.extractLsb' 3 5).toNat
  { uses := [⟨.s f.srg, f.kl⟩]
    stores := [⟨o.issued + 4, a.extractLsb' 8 14, o,
      .store (BitVec.ofNat 2048 (2 ^ (64 * w) * (rd c.s f.srg).val.toNat)) (BitVec.ofNat 256 (255 * 2 ^ (8 * w)))⟩]
    signals := sigOf o f.sg }

/-- The value of a hook (Table 5-11). -/
def StepCtx.hook (x : StepCtx) (cell : CellRef) (h : BitVec 6) (slot : BitVec 12) : BitVec 64 :=
  let sv (f : SlotHooks → BitVec 64) : BitVec 64 :=
    match x.slots[slot.toNat]? with
    | some s => if s.occupied then f s else 0
    | none => 0
  match h.toNat with
  | 0x00 => x.cyc.setWidth 64
  | 0x01 => x.step
  | 0x02 => BitVec.ofNat 64 x.part.val
  | 0x03 => x.variant.setWidth 64
  | 0x04 => BitVec.ofNat 64 cell.row.val
  | 0x05 => BitVec.ofNat 64 cell.col.val
  | 0x06 => x.releaseHt
  | 0x07 => 1
  | 0x10 => sv fun _ => 1
  | 0x11 => sv fun s => s.entry.setWidth 64
  | 0x12 => sv fun s => s.length.setWidth 64
  | 0x13 => sv fun s => s.maxLength.setWidth 64
  | 0x14 => sv fun s => s.pageList
  | 0x15 => sv fun s => s.seed.setWidth 64
  | _ => sv fun s => s.draft.setWidth 64

def planShk (x : StepCtx) (o : Origin) (f : ShkF) : Plan :=
  landing o f.sg [] f.kill 2 1 [.s f.sd (x.hook o.cell f.hsel f.slot)]

def planSrpt (o : Origin) (f : SrptF) (c : Cell) : Plan :=
  { uses := [⟨.s f.sa, f.alu⟩]
    report := some ⟨f.slot, f.word, (rd c.s f.sa).val, o.issued⟩
    signals := sigOf o f.sg }

/-- Branch condition on a signed value (Table 5-10). -/
def sbrTaken (cond : BitVec 3) (v : BitVec 64) : Bool :=
  match cond.toNat with
  | 0 => v == 0 | 1 => v != 0 | 2 => v.slt 0 | 3 => !v.slt 0
  | 4 => BitVec.slt 0 v | 5 => !BitVec.slt 0 v | _ => true

def planSbr (o : Origin) (f : SbrF) (c : Cell) : Plan :=
  let us : List Use := if f.cond = 6 then [] else [⟨.s f.sa, f.alu⟩]
  { uses := us
    signals := sigOf o f.sg
    flow := if sbrTaken f.cond (rd c.s f.sa).val then .jump (o.pc + 8 * f.off.signExtend 32) 4 else .next 1 }

def planSpf (o : Origin) (f : SpfF) : Plan :=
  { spf := some ⟨Eng.ofCode f.eng, f.line⟩, signals := sigOf o f.sg }

def planSrnd (x : StepCtx) (o : Origin) (f : SrndF) (c : Cell) : Plan :=
  let w := scent (x.key f.ksrc f.sel) (x.ctr o.cell (callOf (c.sqe.index f.aix) f.callb) 0)
  let v : BitVec 64 :=
    if f.pair then w.get (f.wsel.toNat + 1) ++ w.get f.wsel.toNat else (w.get f.wsel.toNat).setWidth 64
  { landing o f.sg [] f.kill 10 1 [.s f.sd v] with drawn := if f.ksrc then none else some f.sel }

/-! The one issue operation -/

/-- The plan of an instruction. -/
def planOf (x : StepCtx) (o : Origin) (c : Cell) : EngOp → Plan
  | .mpal f => planMpal o f c | .mldw f => planMldw o f c | .macc f => planMacc x o f c | .mdrn f => planMdrn o f c
  | .vld f => planVld o f c | .vst f => planVst o f c | .vpop f => planVpop o f c | .vimm f => planVimm o f c
  | .vadd f => planVadd o f c | .vsub f => planVsub o f c | .vmul f => planVmul o f c | .vfma f => planVfma o f c
  | .vmin f => planVmin o f c | .vmax f => planVmax o f c | .vdiv f => planVdiv o f c
  | .vsqrt f => planVsqrt o f c | .vtrn f => planVtrn o f c | .vbit f => planVbit o f c
  | .vlane f => planVlane o f c | .vcmp f => planVcmp o f c | .vsel f => planVsel o f c
  | .vmop f => planVmop o f c | .vcvt f => planVcvt o f c | .vqmx f => planVqmx o f c | .vred f => planVred o f c
  | .vscan f => planVscan o f c | .vsort f => planVsort o f c | .vmrg f => planVmrg o f c
  | .vselk f => planVselk o f c | .vfirst f => planVfirst o f c | .vrnd f => planVrnd x o f c
  | .wait f => planWait o f c | .loop f => planLoop o f | .sig f => planSig o f | .dly f => planDly o f
  | .stepend => planStepend
  | .pset f => planPset o f c | .padd f => planPadd o f c | .pld f => planPld o f c | .push f => planPush o f c
  | .dpop f => planDpop o f c | .dcpy f => planDcpy o f c | .drd f => planDrd x o f c | .dwr f => planDwr x o f c
  | .dsnd f => planDsnd x o f c | .drcv f => planDrcv x o f c
  | .salu f => planSalu o f c | .simm f => planSimm o f c | .sld f => planSld o f c | .sst f => planSst o f c
  | .shk f => planShk x o f | .srpt f => planSrpt o f c | .sbr f => planSbr o f c | .spf f => planSpf o f
  | .srnd f => planSrnd x o f c

/-- Granule `g` lies in the range of a transaction that writes to the cell store (R41). -/
def Tx.covers (t : Tx) (g : BitVec 14) : Bool :=
  (t.kind == .drd || t.kind == .drcv) && decide ((g - t.first).toNat < t.g)

/-- Two cell ranges meet. -/
def rangesMeet (a b : BitVec 14) (ga gb : Nat) : Bool := decide ((a - b).toNat < gb) || decide ((b - a).toNat < ga)

/-- The oldest transaction whose pending range holds a granule. -/
def Cell.pendingAt (c : Cell) (g : BitVec 14) : Option Tx :=
  (c.txs.toList.filterMap id).find? fun t => t.covers g

/-- A pending range that the range of a new DRD or DRCV overlaps (R121). -/
def Cell.pendingMeet (c : Cell) (t : Tx) : Option Tx :=
  if t.kind == .drd || t.kind == .drcv then
    (c.txs.toList.filterMap id).find? fun u =>
      (u.kind == .drd || u.kind == .drcv) && rangesMeet t.first u.first t.g u.g
  else none

/-- A window of a port in use that meets a new one. DESIGN CHOICE (log 91): of several, the first to have been taken; of two busy ports of
a DCPY, the read port is the one recorded. -/
def Cell.portHeld (c : Cell) (w : PortWindow) : Option PortWindow :=
  c.ports.find? fun v => v.port == w.port && decide (v.first ≤ w.last ∧ w.first ≤ v.last)

/-- The fault that an instruction takes at its issue, if any (R30, R34, R48, R84, R116, R121). DESIGN CHOICE (log 63): R49 orders
faults by column, row and engine only. Where one instruction meets several, it takes one, the first of: an early register, in the order of
`uses`, a pop, a pending range, a busy port, the spacing of cross-die pushes, a wait already due. DESIGN CHOICE (log 91): of several pending
ranges it names the one of the lowest transaction number, by the instruction's first granule if that lies in it, else by the range's first. -/
def Plan.fault (p : Plan) (o : Origin) (c : Cell) : Option SchedFault :=
  let mk (k : SfKind) (op : Operand) (second : BitVec 32) : SchedFault := ⟨k, o.cell, o.eng, o.pc, op, o.issued, second⟩
  match c.earlyUse o.issued p.uses with
  | some r => some (mk .earlyRead (.reg r) (c.landOf r))
  | none =>
  match p.pop.bind fun q => if (c.queue q).landed.isEmpty then some q else none with
  | some q => some (mk .earlyRead (.queue q) (match (c.queue q).coming with | e :: _ => e.land | [] => 0xFFFFFFFF))
  | none =>
  match p.tx.bind fun t => (c.pendingMeet t).map fun u => (t, u) with
  | some (t, u) => some (mk .earlyRead (.granule (if u.covers t.first then t.first else u.first)) u.by_.issued)
  | none =>
  match p.ports.findSome? fun w => (c.portHeld w).map fun v => (w.port, v) with
  | some (k, v) => some (mk .queueOverrun (.port k) v.issued)
  | none =>
  match if p.xdie then c.xpush.bind fun t => if o.issued < t + 4 then some t else none else none with
  | some t => some (mk .queueOverrun (.port .d2d) t)
  | none =>
  match p.flow with
  | .wait w =>
    if w.due ≤ o.issued.toNat then some ⟨.staticMiss, o.cell, o.eng, o.pc, .tally w.f.tally, BitVec.ofNat 32 w.due, o.issued⟩ else none
  | _ => none

/-- The PC after an instruction that releases issue at cycle `rel`: loop-backs and ends cost no cycle (R111, R112). -/
def advancePc (pc : BitVec 32) (rel : Nat) : List LoopEntry → BitVec 32 × List LoopEntry
  | [] => (pc + 8, [])
  | l :: ls =>
    if l.endPc = pc then
      if l.iter + 1 < l.count then (l.startPc, { l with iter := l.iter + 1, istart := rel } :: ls)
      else advancePc pc rel ls
    else (pc + 8, l :: ls)

/-- Levels of a loop stack (R27). -/
def loopDepth : Nat := 4

/-- A level of a loop stack of which nothing is known (R9). -/
def LoopEntry.undef (n : Nat) : LoopEntry :=
  ⟨Config.freeValue 32 n, Config.freeValue 29 (n + 1) ++ (0 : BitVec 3), Config.freeValue 29 (n + 2) ++ (0 : BitVec 3),
    Config.freeValue 32 (n + 3), (Config.freeValue 32 (n + 4)).toNat⟩

/-- The engine after an instruction has issued at cycle `cyc`. It issues at most one per cycle, so an interval of 0, which only an illegal
DLY has, counts as 1 (R25). -/
def Engine.flow (e : Engine) (cyc : BitVec 32) : Flow → Engine
  | .next n =>
    let t := cyc.toNat + max n.toNat 1
    let p := advancePc e.pc t e.loops
    { e with pc := p.1, loops := p.2, ready := t }
  | .loop count endPc =>
    { e with pc := e.pc + 8, ready := cyc.toNat + 1, loops := ⟨count, e.pc + 8, endPc, 0, cyc.toNat + 1⟩ :: e.loops }
  | .spill n =>
    { e with pc := e.pc + 8, ready := cyc.toNat + 1, loops := (List.range loopDepth).map fun i => LoopEntry.undef (n + 5 * i) }
  | .wait w =>
    let p := advancePc e.pc w.due e.loops
    { e with pc := p.1, loops := p.2, ready := w.due, wait := some w }
  | .stop => { e with ended := true }
  | .jump pc n => { e with pc := pc, ready := cyc.toNat + n.toNat }

/-- The stream of reads that a plan starts, one granule per cycle from c on. -/
def Cell.startRead (c : Cell) (o : Origin) : Option (Sink × List (BitVec 14)) → Cell
  | none => c
  | some (k, gs) =>
    { c with
      streams := c.streams ++ [⟨c.nextStream, o, k, gs.length, []⟩]
      accesses := c.accesses ++ gs.mapIdx fun j g => ⟨o.issued + BitVec.ofNat 32 j, g, o, .read c.nextStream⟩
      nextStream := c.nextStream + 1 }

/-- A transaction starts: it takes the lowest free number and marks its range (R41, R42). -/
def Cell.startTx (c : Cell) (x : StepCtx) : Option Tx → Cell
  | none => c
  | some t =>
    let key : Bool × BitVec 16 := (t.kind == .dsnd, x.tag t.by_.cell t.route)
    { c with
      txs := c.txs.set c.freeTx (some t)
      serial := c.serial + 1
      kth := if t.kind == .dsnd || t.kind == .drcv
        then (key, t.kth + 1) :: c.kth.filter (fun k => k.1 != key) else c.kth }

/-- A line of an engine's code is cached. -/
def Engine.hasLine (e : Engine) (line : BitVec 24) : Bool :=
  match rd e.icache (line.extractLsb' 0 7) with
  | some l => l.tag == line.extractLsb' 7 17
  | none => false

/-- A refill is requested unless the line is cached or already under way (R43, R133). -/
def Cell.request (c : Cell) (r : Refill) : Cell :=
  if (c.eng r.eng).hasLine r.line || c.refills.contains r then c else { c with refills := c.refills ++ [r] }

/-- Everything a plan does when no check fails. -/
def Cell.apply (c : Cell) (x : StepCtx) (o : Origin) (p : Plan) : Cell :=
  let c := c.lastUses p.uses
  let c := p.raises.foldl (fun c r => c.raiseLand r.1 r.2) c
  let c := match p.pop with
    | some q => c.setQueue q { c.queue q with landed := (c.queue q).landed.tail }
    | none => c
  let c := c.startRead o p.read
  let c := c.startTx x p.tx
  let c := match p.spf with
    | some r => c.request r
    | none => c
  let c := { c with
    landings := c.landings ++ p.lands
    accesses := c.accesses ++ p.stores
    drawn := c.drawn ++ p.drawn.toList
    ports := (c.ports.filter fun (w : PortWindow) => o.issued ≤ w.last) ++ p.ports
    signals := c.signals ++ p.signals
    xpush := if p.xdie then some o.issued else c.xpush
    reports := c.reports ++ p.report.toList }
  c.setEng o.eng ((c.eng o.eng).flow o.issued p.flow)

/-! Illegal instructions (R9, R148): any value in any destination that the instruction names; everything else as its plan says -/

/-- Any value in the register that a landing writes. -/
def LandVal.undef (n : Nat) : LandVal → LandVal
  | .tile i _ | .macc i _ _ => .tile i (Config.freeValue 262144 n)
  | .wb i _ => .wb i ⟨Config.freeValue 131072 n, Config.freeValue 2048 n, some (Config.freeValue 4 n)⟩
  | .pal i _ => .pal i (Config.freeValue 256 n)
  | .v i _ _ => .v i (Config.freeValue 2048 n) (BitVec.allOnes 64)
  | .m i _ _ => .m i (Config.freeValue 64 n) (BitVec.allOnes 64)
  | .p i _ => .p i (Config.freeValue 64 n)
  | .s i _ => .s i (Config.freeValue 64 n)

/-- Any bytes where a store of the cell store writes. -/
def Access.undef (n : Nat) (a : Access) : Access :=
  match a.kind with
  | .store _ en => { a with kind := .store (Config.freeValue 2048 n) en }
  | .read _ => a

/-- The plan of an illegal instruction, its free values numbered from `n` on: registers, granules of the cell store or of memory, entries of a
neighbour's queue, words of a report, the PC of a branch, the entry of a loop, and, for a LOOP on a full stack, every level of it. -/
def Plan.undef (p : Plan) (n : Nat) (op : EngOp) (full : Bool) : Plan :=
  let a := n + p.lands.length
  let b := a + p.stores.length
  let g := match p.read with
    | some r => r.2.length
    | none => 0
  { p with
    lands := p.lands.mapIdx fun j l => { l with val := l.val.undef (n + j) }
    stores := p.stores.mapIdx fun j s => s.undef (a + j)
    read := p.read.map fun r => (.undef b r.1, r.2)
    report := p.report.map fun r => { r with val := Config.freeValue 64 b }
    tx := p.tx.map fun t => { t with wild := true }
    flow := match op with
      | .sbr _ => .jump (Config.freeValue 29 b ++ (0 : BitVec 3)) 4
      | .loop _ => if full then .spill b else .loop (Config.freeValue 32 b) (Config.freeValue 29 (b + 1) ++ (0 : BitVec 3))
      | _ => p.flow
    draws := p.lands.length + p.stores.length + g + 5 * loopDepth }

/-- Issue of a plan: the cell after it, or the fault taken, with which the instruction does not issue and accesses nothing (R368). -/
def Cell.issue (c : Cell) (x : StepCtx) (o : Origin) (p : Plan) : Except SchedFault Cell :=
  match p.fault o c with
  | some f => .error f
  | none => .ok (c.apply x o p)

end Sys2Proof.Machine
end

