-- ==== Sys2Proof/Machine/CellCycle.lean ====
section
/-!
DEFINITION. What one cell does in each phase of a cell cycle (R146, R147, R368), with the faults each phase detects.
-/

namespace Sys2Proof.Machine

/-- The engines in their fixed order (R32). -/
def engines : List Eng := [.mxe, .vxe, .dme, .sqe]

/-- The queues in their fixed order (R33). -/
def sides : List Side := [.n, .e, .s, .w]

/-- Run a function over a list, threading a cell and gathering faults. -/
def Cell.each {α : Type} (c : Cell) (xs : List α) (f : Cell → α → Cell × List SchedFault) : Cell × List SchedFault :=
  xs.foldl (fun r x => let q := f r.1 x; (q.1, r.2 ++ q.2)) (c, [])

/-! Phase 1: signals (R32, R33) -/

/-- One signal applied at cycle `cyc`, or its QUEUE_OVERRUN. -/
def Cell.takeSignal (cyc : BitVec 32) (c : Cell) (s : Signal) : Cell × List SchedFault :=
  match c.raiseTally s.tally s.inc with
  | some c' => (c', [])
  | none => (c, [⟨.queueOverrun, s.by_.cell, s.by_.eng, s.by_.pc, .tally s.tally, cyc, 0⟩])

/-- Sideband signals of the entries that land at `cyc` (R46). -/
def Cell.sidebands (c : Cell) (cyc : BitVec 32) : List Signal :=
  sides.flatMap fun q => (((c.queue q).coming.filter fun e => e.land == cyc).filter fun e => e.inc != 0).map
    fun e => ⟨cyc, e.tally, e.inc.toNat, e.by_⟩

/-- A completion that has reached the cell: its signal is applied and its pending range cleared (R32, R41, R121). -/
def Cell.takeCompletion (cyc : BitVec 32) (c : Cell) (i : Fin 64) : Cell × List SchedFault :=
  match c.txs[i] with
  | none => (c, [])
  | some t =>
    match c.raiseTally t.ctal t.cinc.toNat with
    | some c' => ({ c' with txs := c'.txs.set i none }, [])
    | none => (c, [⟨.queueOverrun, t.by_.cell, t.by_.eng, t.by_.pc, .tally t.ctal, cyc, 0⟩])

/-- Completions applied, held or not (R32). DESIGN CHOICE (log 90): several of one cycle are taken in the order in which they reached the cell,
which decides the one that R33 charges. -/
def Cell.takeCompletions (cyc : BitVec 32) (c : Cell) : Cell × List SchedFault :=
  { c with completions := [] }.each c.completions (Cell.takeCompletion cyc)

/-- Phase 1. -/
def Cell.phase1 (cyc : BitVec 32) (c : Cell) : Cell × List SchedFault :=
  let due := c.signals.filter fun s => s.due == cyc
  let now := engines.flatMap fun e => due.filter fun s => s.by_.eng == e
  let c1 := { c with signals := c.signals.filter fun s => s.due != cyc }
  let r := c1.each (now ++ c1.sidebands cyc) (Cell.takeSignal cyc)
  let q := r.1.takeCompletions cyc
  (q.1, r.2 ++ q.2)

/-! Phase 2: landings (R29, R31, R44) -/

/-- The value of a landing enters its register; lanes that are not enabled keep what the register holds now (R94). -/
def Cell.land (c : Cell) (t : BitVec 32) : LandVal → Cell
  | .tile i x => { c with a := wr c.a i ((rd c.a i).landed x t) }
  | .macc i z s => { c with a := wr c.a i ((rd c.a i).landed (maccTile (rd c.a i).val z s) t) }
  | .wb i x => { c with wb := wr c.wb i ((rd c.wb i).landed x t) }
  | .pal i x => { c with pal := wr c.pal i ((rd c.pal i).landed x t) }
  | .v i x en => { c with v := wr c.v i ((rd c.v i).landed (mergeLanes en (rd c.v i).val x) t) }
  | .m i x en => { c with m := wr c.m i ((rd c.m i).landed ((x &&& en) ||| ((rd c.m i).val &&& ~~~en)) t) }
  | .p i x => { c with p := wr c.p i ((rd c.p i).landed x t) }
  | .s i x => { c with s := wr c.s i ((rd c.s i).landed x t) }

/-- One landing, or its LATE_OVERWRITE; `before` holds the registers that landed earlier in this cycle (R31). -/
def Cell.takeLanding (cyc : BitVec 32) (before : List RegName) (c : Cell) (l : Landing) : Cell × List SchedFault :=
  let r := l.val.reg
  if l.check && (before.contains r || (c.liveOf r && !l.kill)) then
    (c, [⟨.lateOverwrite, l.by_.cell, l.by_.eng, l.by_.pc, .reg r, cyc, c.landedAt r⟩])
  else (c.land cyc l.val, [])

/-- The landings of a cycle in issue order. -/
def Cell.takeLandings (cyc : BitVec 32) : List RegName → List Landing → Cell → Cell × List SchedFault
  | _, [], c => (c, [])
  | before, l :: ls, c =>
    let r := c.takeLanding cyc before l
    let q := r.1.takeLandings cyc (l.val.reg :: before) ls
    (q.1, r.2 ++ q.2)

/-- Entries whose landing cycle has come become available to pops (R44). -/
def Queue.landNow (q : Queue) (cyc : BitVec 32) : Queue :=
  { landed := q.landed ++ q.coming.filter fun e => e.land == cyc
    coming := q.coming.filter fun e => e.land != cyc }

/-- Phase 2. -/
def Cell.phase2 (cyc : BitVec 32) (c : Cell) : Cell × List SchedFault :=
  let now := c.landings.filter fun l => l.due == cyc
  let r := { c with landings := c.landings.filter fun l => l.due != cyc }.takeLandings cyc [] now
  ({ r.1 with
    qn := r.1.qn.landNow cyc, qe := r.1.qe.landNow cyc, qs := r.1.qs.landNow cyc, qw := r.1.qw.landNow cyc }, r.2)

/-! Phase 3: waits and holds (R34, R35, R42, R43, R123, R147) -/

/-- What phase 3 finds in a cell: the cell with its met waits completed, the causes of a hold, the static misses. -/
structure WaitEval where
  cell : Cell
  causes : List HoldCause
  faults : List SchedFault
  deriving DecidableEq, Repr

/-- The wait of one engine at cycle `cyc` (R34). -/
def evalWait (ref : CellRef) (cyc : BitVec 32) (r : WaitEval) (e : Eng) : WaitEval :=
  let g := r.cell.eng e
  match g.wait with
  | none => r
  | some w =>
    if w.due != cyc.toNat then r
    else
      let t := rd r.cell.tally w.f.tally
      if w.f.thr ≤ t then
        let c := r.cell.setEng e { g with wait := none }
        { r with cell := if w.f.c then { c with tally := wr c.tally w.f.tally (t - w.f.thr) } else c }
      else if w.f.v then { r with causes := r.causes ++ [⟨ref, e, w.pc, .wait w.f.tally⟩] }
      else { r with faults := r.faults ++ [⟨.staticMiss, ref, e, w.pc, .tally w.f.tally, BitVec.ofNat 32 w.due, w.issued⟩] }

/-- What an engine's fetch delivers at its PC: an instruction and its legality, a line to wait for, or a word whose opcode names no
instruction. -/
inductive Fetch where
  | op (o : EngOp) (legal : Bool)
  | miss (line : BitVec 24)
  | blank
  deriving DecidableEq, Repr

/-- The next instruction: the head of the instruction queue, else the word in the instruction cache (R43). -/
def Cell.fetch (c : Cell) (e : Eng) : Fetch :=
  let g := c.eng e
  match g.iq with
  | o :: _ => .op o o.wf
  | [] =>
    let line := g.pc.extractLsb' 8 24
    match rd g.icache (line.extractLsb' 0 7) with
    | none => .miss line
    | some l =>
      if l.tag = line.extractLsb' 7 17 then
        let w := BitVec.ofNat 64 (elemOf l.data 64 (g.pc.extractLsb' 3 5).toNat)
        match readWord e w with
        | some o => .op o (o.wf && (decodeWord e w).isSome)
        | none => .blank
      else .miss line

/-- An engine can issue at `cyc`: not ended, no wait, interval elapsed (R25). -/
def Engine.canIssue (g : Engine) (cyc : BitVec 32) : Bool := !g.ended && g.wait.isNone && decide (g.ready ≤ cyc.toNat)

/-- Granules that the staging buffer holds (R123). -/
def stagingDepth : Nat := 64

/-- Why the next instruction of an engine would hold the partition, if it would. -/
def Cell.holdOf (c : Cell) (e : Eng) : Option HoldWhy :=
  let full := c.txs.toList.all (·.isSome)
  let stg := decide (stagingDepth ≤ c.staging.length)
  match c.fetch e with
  | .miss _ => some .line
  | .op (.drd _) _ | .op (.drcv _) _ => if full then some .tx65 else none
  | .op (.dwr _) _ | .op (.dsnd _) _ => if full then some .tx65 else if stg then some .staging else none
  | _ => none

/-- A granule that the read port delivers in this cycle would meet a full staging buffer (R123). -/
def Cell.stagingHold (c : Cell) (cyc : BitVec 32) : Option Origin :=
  if stagingDepth ≤ c.staging.length then
    (c.accesses.find? fun a => a.due == cyc && (match a.kind with
      | .read s => c.streams.any fun t => t.id == s && (match t.sink.base with | .stage _ => true | _ => false)
      | .store _ _ => false)).map (·.by_)
  else none

/-- Phase 3 of one cell, `cell` as its tallies and waits stand if no hold is raised. -/
def Cell.phase3 (ref : CellRef) (cyc : BitVec 32) (c : Cell) : WaitEval :=
  let r := engines.foldl (evalWait ref cyc) ⟨c, [], []⟩
  let own := engines.filterMap fun e =>
    let g := r.cell.eng e
    if g.canIssue cyc then (r.cell.holdOf e).map fun w => (⟨ref, e, g.pc, w⟩ : HoldCause) else none
  let stg := match r.cell.stagingHold cyc with
    | some o => [(⟨ref, o.eng, o.pc, .staging⟩ : HoldCause)]
    | none => []
  { r with causes := r.causes ++ own ++ stg }

/-- The line that each engine of a cell misses at `cyc`, requested (R43); `met` is the cell with its met waits completed. -/
def Cell.requestMisses (cyc : BitVec 32) (c met : Cell) : Cell :=
  engines.foldl (fun c e =>
    if (met.eng e).canIssue cyc then
      match met.fetch e with
      | .miss l => c.request ⟨e, l⟩
      | _ => c
    else c) c

/-! Phase 4: issue and queue occupancy (R25, R45) -/

/-- Outcome of issue in a cell: the cell, its faults, and the next free value. -/
structure IssueEval where
  cell : Cell
  faults : List SchedFault
  free : Nat
  deriving DecidableEq, Repr

/-- A LOOP. -/
def isLoop : EngOp → Bool
  | .loop _ => true
  | _ => false

/-- One engine issues if it can. A word whose opcode names no instruction names no destination either: the PC passes it (R9). After a fault
the engine issues nothing more in the cycle (R25). -/
def issueEng (x : StepCtx) (ref : CellRef) (r : IssueEval) (e : Eng) : IssueEval :=
  let g := r.cell.eng e
  if g.canIssue x.cyc then
    match r.cell.fetch e with
    | .miss _ => r
    | .blank => { r with cell := r.cell.setEng e (g.flow x.cyc (.next 1)) }
    | .op o legal =>
      let org : Origin := ⟨ref, e, g.pc, x.cyc⟩
      let x' := { x with free := r.free }
      let c := r.cell.setEng e { g with iq := g.iq.tail }
      let full := isLoop o && decide (loopDepth ≤ g.loops.length)
      let p := if legal && !full then planOf x' org c o else (planOf x' org c o).undef r.free o full
      match c.issue x' org p with
      | .ok c' => { r with cell := c', free := r.free + p.draws }
      | .error f =>
        { r with cell := r.cell.setEng e { g with iq := g.iq.tail, ready := x.cyc.toNat + 1 }, faults := r.faults ++ [f] }
  else r

/-- Entries beyond 32 are discarded, each a QUEUE_OVERRUN of its push (R45). -/
def Cell.judgeQueue (cyc : BitVec 32) (c : Cell) (q : Side) : Cell × List SchedFault :=
  let u := c.queue q
  let spilled := u.landed.drop 32
  let oldest := match u.landed with | e :: _ => e.land | [] => 0
  (c.setQueue q { u with landed := u.landed.take 32 },
   spilled.map fun e => ⟨.queueOverrun, e.by_.cell, e.by_.eng, e.by_.pc, .queue q, cyc, oldest⟩)

/-- Phase 4 of one cell. -/
def Cell.phase4 (x : StepCtx) (ref : CellRef) (c : Cell) : IssueEval :=
  let r := engines.foldl (issueEng x ref) ⟨c, [], x.free⟩
  let q := r.cell.each sides (Cell.judgeQueue x.cyc)
  { r with cell := q.1, faults := r.faults ++ q.2 }

/-! Phase 5: bank accesses and fills (R37 to R41) -/

/-- A queue entry on its way to the neighbour on a side. -/
structure PushOut where
  dir : Side
  entry : QEntry
  deriving DecidableEq, Repr

/-- Landing cycle of a push (R44). -/
def pushLand (ref : CellRef) (d : Side) (issued : BitVec 32) : BitVec 32 :=
  issued + (if crossesDie ref d then 24 else 6)

/-- What a finished stream does: the value it read enters its landing, or leaves for the neighbour. -/
def Cell.finish (c : Cell) (st : Stream) (gs : List Granule) : Cell × List PushOut :=
  let o := st.by_
  let g0 := gs.headD 0
  let add (lat : Nat) (kill : Bool) (v : LandVal) (check : Bool := true) : Cell × List PushOut :=
    let v := match st.sink.free with
      | some n => v.undef n
      | none => v
    ({ c with landings := c.landings ++ [⟨o.issued + BitVec.ofNat 32 lat, v, kill, check, o⟩] }, [])
  match st.sink.base with
  | .vld vd kill en => add 8 kill (.v vd g0 en)
  | .mpal pd kill p3 byte => add 8 kill (.pal pd (palOf g0 (byte.extractLsb' 0 8).toNat p3))
  | .mldw wd kill fmt pa pb => add (gs.length + 7) kill (.wb wd (mldwRes fmt gs pa pb))
  | .macc j =>
    let v : LandVal := match j.free with
      | some n => .tile j.f.tile (Config.freeValue 262144 n)
      | none => .macc j.f.tile j.f.z (maccSums j.f j.wb gs)
    add (maccN j.f + 23) j.f.kill v j.f.z
  | .pld pd kill w => add 8 kill (.p pd (BitVec.ofNat 64 (elemOf g0 64 w.toNat)))
  | .sld sd kill w => add 8 kill (.s sd (BitVec.ofNat 64 (elemOf g0 64 w.toNat)))
  | .push d t i => (c, [⟨d, ⟨g0, t, i, pushLand o.cell d o.issued, o⟩⟩])
  | .copy _ => (c, [])
  | .stage _ | .undef _ _ => (c, [])

/-- A granule read for a stream. -/
def Cell.feed (c : Cell) (cyc : BitVec 32) (id : Nat) (g : Granule) : Cell × List PushOut :=
  match c.streams.find? fun s => s.id == id with
  | none => (c, [])
  | some s =>
    let j := s.got.length
    let g := match s.sink.free with
      | some n => Config.freeValue 2048 (n + j)
      | none => g
    let s' := { s with got := g :: s.got }
    let c : Cell := match s.sink.base with
      | .copy dst =>
        { c with accesses := c.accesses ++
          [⟨cyc + 4, dst + BitVec.ofNat 14 j, s.by_, .store g (BitVec.allOnes 256)⟩] }
      | .stage t => { c with staging := c.staging ++ [⟨t, j, g⟩] }
      | _ => c
    if s'.got.length = s.total then
      Cell.finish { c with streams := c.streams.filter fun (t : Stream) => t.id != id } s' s'.got.reverse
    else ({ c with streams := c.streams.map fun (t : Stream) => if t.id = id then s' else t }, [])

/-- Bank of a granule (Table 2-3). -/
def bankOf (g : BitVec 14) : BitVec 5 := g.extractLsb' 0 5

/-- State of phase 5: the cell, banks already used with the issue cycle of their access, faults, pushes. -/
structure BankEval where
  cell : Cell
  used : List (BitVec 5 × BitVec 32)
  faults : List SchedFault
  out : List PushOut
  deriving DecidableEq, Repr

/-- One static access at its bank cycle (R37, R38, R41). -/
def bankAccess (cyc : BitVec 32) (r : BankEval) (a : Access) : BankEval :=
  let b := bankOf a.granule
  let bad (k : SfKind) (op : Operand) (second : BitVec 32) : SchedFault :=
    ⟨k, a.by_.cell, a.by_.eng, a.by_.pc, op, cyc, second⟩
  match r.used.find? fun u => u.1 == b with
  | some u => { r with faults := r.faults ++ [bad .bankClash (.bank b) u.2] }
  | none =>
    let r := { r with used := (b, a.by_.issued) :: r.used }
    match r.cell.pendingAt a.granule with
    | some t => { r with faults := r.faults ++ [bad .earlyRead (.granule a.granule) t.by_.issued] }
    | none =>
      match a.kind with
      | .store d en => { r with cell := r.cell.storeG a.granule d en }
      | .read s =>
        let q := r.cell.feed cyc s (r.cell.loadG a.granule)
        { r with cell := q.1, out := r.out ++ q.2 }

/-- An access is earlier in the order of R37: issued earlier, or in the same cycle by an earlier engine. -/
def accessBefore (a b : Access) : Bool :=
  decide (a.by_.issued < b.by_.issued)
    || (a.by_.issued == b.by_.issued && decide (a.by_.eng.code ≤ b.by_.eng.code))

/-- Insert an access in that order. -/
def insertAccess (a : Access) : List Access → List Access
  | [] => [a]
  | b :: bs => if accessBefore a b then a :: b :: bs else b :: insertAccess a bs

/-- Granules of the fill buffer that this cycle writes: the first waiting one of each bank that has no access (R40). -/
def fillNow (busy : List (BitVec 5)) : List FillItem → List FillItem × List FillItem
  | [] => ([], [])
  | f :: fs =>
    let b := bankOf f.granule
    if busy.contains b then let r := fillNow busy fs; (r.1, f :: r.2)
    else let r := fillNow (b :: busy) fs; (f :: r.1, r.2)

/-- A fill write of one granule. -/
def Cell.fillWrite (c : Cell) (f : FillItem) : Cell :=
  let c := c.storeG f.granule f.data (BitVec.allOnes 256)
  match c.txs[f.tx] with
  | none => c
  | some t => { c with txs := c.txs.set f.tx (some { t with written := t.written ||| BitVec.twoPow 4096 f.j.toNat }) }

/-- Granules that the fill buffer holds (R40). -/
def fillDepth : Nat := 64

/-- Fill-port writes of one cycle; freed places take granules from the crossing. -/
def Cell.fillPorts (c : Cell) (busy : List (BitVec 5)) : Cell :=
  let r := fillNow busy c.fill
  let c := r.1.foldl Cell.fillWrite c
  let room := fillDepth - r.2.length
  { c with fill := r.2 ++ c.crossing.take room, crossing := c.crossing.drop room }

/-- Phase 5 of one cell. -/
def Cell.phase5 (cyc : BitVec 32) (c : Cell) : BankEval :=
  let now := (c.accesses.filter fun a => a.due == cyc).foldr insertAccess []
  let r := now.foldl (bankAccess cyc) ⟨{ c with accesses := c.accesses.filter fun a => a.due != cyc }, [], [], []⟩
  { r with cell := r.cell.fillPorts (r.used.map (·.1)) }

/-- An entry pushed towards this cell (R44, R47). -/
def Cell.receive (c : Cell) (q : Side) (e : QEntry) : Cell :=
  c.setQueue q { c.queue q with coming := (c.queue q).coming ++ [e] }

/-- The side of the neighbour that faces the pushing cell. -/
def Side.facing : Side → Side
  | .n => .s
  | .s => .n
  | .e => .w
  | .w => .e

/-! Step boundary (R50, R51, R92) -/

/-- The cell's own conditions of arrival: engines ended, nothing scheduled, no transaction, no fill (R50, R92). -/
def Cell.drained (c : Cell) : Bool :=
  engines.all (fun e => (c.eng e).ended) && c.landings.isEmpty && c.accesses.isEmpty && c.streams.isEmpty
    && c.txs.toList.all (·.isNone) && c.fill.isEmpty && c.crossing.isEmpty

/-- An engine at the start of a step: its PC at the entry point, its loop stack empty, its cache kept (R51). -/
def Engine.boundary (g : Engine) (entry : BitVec 32) : Engine :=
  { g with pc := entry, ended := false, ready := 0, wait := none, loops := [], iq := [] }

/-- Lines and refills of a former plan are gone (R43). -/
def Engine.dropLines (g : Engine) : Engine := { g with icache := Vector.replicate 128 none }

def Cell.dropLines (c : Cell) : Cell :=
  { c with mxe := c.mxe.dropLines, vxe := c.vxe.dropLines, dme := c.dme.dropLines, sqe := c.sqe.dropLines, refills := [] }

/-- A cell at the start of a step (R51). `store` keeps its bytes; no WRITTEN bit is set. -/
def Cell.boundary (c : Cell) (entry : Eng → BitVec 32) : Cell :=
  { Cell.cold with
    mxe := c.mxe.boundary (entry .mxe), vxe := c.vxe.boundary (entry .vxe)
    dme := c.dme.boundary (entry .dme), sqe := c.sqe.boundary (entry .sqe)
    refills := c.refills, store := c.store }

end Sys2Proof.Machine
end

