-- ==== Sys2Proof/Machine/Objects.lean ====
section
/-!
DEFINITION. The object dictionary (12): index, subindex, type, rights of each role, default and staging of every object, from the object
tables of all chapters (Table 12-14).
-/

namespace Sys2Proof.Machine

/-- Object types (Table 12-1): a number of so many bytes, BOOL, STR and BLOB of at most so many bytes, HANDLE. -/
inductive ObjType where
  | num (bytes : Nat) | bool | str (max : Nat) | blob (max : Nat) | handle
  deriving DecidableEq, Repr

/-- Right of one role (R288). -/
inductive Right where
  | n | r | w | x
  deriving DecidableEq, Repr

/-- An object: index base and number of indices (16 partitions, 24 ports), first and last subindex, type, rights of FM, H, T, O,
default value in `len` bytes, staged. -/
structure ObjDef where
  index : Nat
  span : Nat
  sub : Nat
  last : Nat
  type : ObjType
  fm : Right
  h : Right
  t : Right
  o : Right
  len : Nat
  value : Nat
  staged : Bool
  deriving DecidableEq, Repr

/-- Rows of one index. -/
def rows (index span : Nat) (l : List (Nat × Nat × ObjType × Right × Right × Right × Right × Nat × Nat × Bool)) : List ObjDef :=
  l.map fun (sub, last, ty, fm, h, t, o, len, v, st) => ⟨index, span, sub, last, ty, fm, h, t, o, len, v, st⟩

/-- DEVICE_TYPE -/
def objs1000 : List ObjDef := rows 0x1000 1 [
  (0x01, 0x01, .num 4, .r, .r, .r, .r, 4, 0x4b520001, false)]

/-- PART_NUMBER -/
def objs1008 : List ObjDef := rows 0x1008 1 [
  (0x01, 0x01, .str 16, .r, .r, .r, .r, 0, 0, false)]

/-- STEPPING0, STEPPING1, STEPPING2 -/
def objs1010 : List ObjDef := rows 0x1010 1 [
  (0x01, 0x01, .num 1, .r, .r, .r, .r, 1, 0, false),
  (0x02, 0x02, .num 1, .r, .r, .r, .r, 1, 0, false),
  (0x03, 0x03, .num 1, .r, .r, .r, .r, 1, 0, false)]

/-- SERIAL -/
def objs1018 : List ObjDef := rows 0x1018 1 [
  (0x01, 0x01, .str 24, .r, .r, .r, .r, 0, 0, false)]

/-- CONTRACT_LEVEL -/
def objs1020 : List ObjDef := rows 0x1020 1 [
  (0x01, 0x01, .num 1, .r, .r, .r, .r, 1, 1, false)]

/-- FEATURES -/
def objs1030 : List ObjDef := rows 0x1030 1 [
  (0x01, 0x01, .num 8, .r, .r, .r, .r, 8, 0, false)]

/-- HARVEST_MAP -/
def objs1040 : List ObjDef := rows 0x1040 1 [
  (0x01, 0x01, .blob 384, .r, .r, .r, .r, 0, 0, false)]

/-- FM_KEY, HOST_KEY, OBS_KEY, SESSIONS, AUTH_FAIL -/
def objs1050 : List ObjDef := rows 0x1050 1 [
  (0x01, 0x01, .blob 2592, .x, .x, .n, .r, 0, 0, true),
  (0x02, 0x02, .blob 2592, .x, .x, .n, .r, 0, 0, true),
  (0x03, 0x03, .blob 2592, .x, .x, .n, .r, 0, 0, true),
  (0x10, 0x10, .num 1, .r, .r, .n, .r, 1, 0, false),
  (0x11, 0x11, .num 8, .r, .r, .n, .r, 8, 0, false)]

/-- MAC0, MAC1, ADDR0, ADDR1, PREFIX, MGMT_ROUTER, UDP_PORT, NOTIFY, NOTICE_LOST -/
def objs1060 : List ObjDef := rows 0x1060 1 [
  (0x01, 0x01, .blob 6, .r, .r, .n, .r, 0, 0, false),
  (0x02, 0x02, .blob 6, .r, .r, .n, .r, 0, 0, false),
  (0x03, 0x03, .blob 16, .x, .x, .n, .r, 16, 0, true),
  (0x04, 0x04, .blob 16, .x, .x, .n, .r, 16, 0, true),
  (0x05, 0x05, .num 1, .x, .x, .n, .r, 1, 64, true),
  (0x06, 0x06, .blob 16, .x, .x, .n, .r, 16, 0, true),
  (0x07, 0x07, .num 2, .r, .r, .n, .r, 2, 0xb45e, false),
  (0x20, 0x20, .bool, .x, .x, .n, .n, 1, 0, false),
  (0x21, 0x21, .num 8, .r, .r, .n, .r, 8, 0, false)]

/-- STG_OPEN, STG_CHECK, STG_COMMIT, STG_CLOCK, STG_ABORT, CHECK_REPORT, STG_STATE, STG_EFFECT, STG_HT -/
def objs1100 : List ObjDef := rows 0x1100 1 [
  (0x01, 0x01, .bool, .x, .x, .x, .n, 1, 0, false),
  (0x02, 0x02, .bool, .w, .w, .w, .n, 1, 0, false),
  (0x03, 0x03, .num 8, .w, .w, .w, .n, 8, 0, false),
  (0x04, 0x04, .num 1, .x, .x, .x, .n, 1, 255, false),
  (0x05, 0x05, .bool, .w, .w, .w, .n, 1, 0, false),
  (0x06, 0x06, .blob 32, .r, .r, .r, .n, 32, 0, false),
  (0x07, 0x07, .num 1, .r, .r, .r, .n, 1, 0, false),
  (0x08, 0x08, .num 8, .r, .r, .r, .n, 8, 0xffffffffffffffff, false),
  (0x09, 0x09, .num 8, .r, .r, .r, .n, 8, 0, false)]

/-- HOLD_STEP, HOLD_STEP_ITEM, HOLD_STEP_GOV, HOLD_LAST, HOLD_TOTAL, HOLD_LIMIT, PLAN_KEY, PACK_MAP, LOAD_STATUS, LOAD_WHERE, PLAN_IMAGE, PLAN_SWITCH, KEN_BASE, KEN_COUNT, SQ_BASE, SQ_SIZE, CQ_BASE, CQ_SIZE, KV_TOKEN_BYTES, BARK_SHARE -/
def objs2000a : List ObjDef := rows 0x2000 16 [
  (0x20, 0x20, .num 8, .r, .r, .r, .r, 8, 0, false),
  (0x21, 0x21, .num 8, .r, .r, .r, .r, 8, 0, false),
  (0x22, 0x22, .num 8, .r, .r, .r, .r, 8, 0, false),
  (0x23, 0x23, .num 8, .r, .r, .r, .r, 8, 0, false),
  (0x24, 0x24, .num 8, .r, .r, .r, .r, 8, 0, false),
  (0x25, 0x25, .num 4, .x, .x, .r, .r, 4, 0x1388, true),
  (0x30, 0x30, .blob 2592, .x, .r, .r, .r, 0, 0, true),
  (0x31, 0x31, .blob 65600, .x, .r, .r, .r, 0, 0, true),
  (0x32, 0x32, .num 4, .r, .r, .r, .r, 4, 255, false),
  (0x33, 0x33, .num 8, .r, .r, .r, .r, 8, 0, false),
  (0x34, 0x34, .handle, .n, .x, .x, .n, 0, 0, false),
  (0x35, 0x35, .num 8, .x, .r, .r, .r, 8, 0xffffffffffffffff, true),
  (0x40, 0x40, .num 2, .x, .r, .r, .r, 2, 0, true),
  (0x41, 0x41, .num 2, .x, .r, .r, .r, 2, 0, true),
  (0x42, 0x42, .num 8, .x, .x, .x, .r, 8, 0, true),
  (0x43, 0x43, .num 2, .x, .x, .x, .r, 2, 64, true),
  (0x44, 0x44, .num 8, .x, .x, .x, .r, 8, 0, true),
  (0x45, 0x45, .num 2, .x, .x, .x, .r, 2, 64, true),
  (0x46, 0x46, .num 4, .x, .x, .x, .r, 4, 0, true),
  (0x47, 0x47, .num 2, .x, .r, .r, .r, 2, 0, true)]

/-- AGE_STEPS, KEN_SEL, KEN_VIEW, MISS_COUNT, POOL_SHORT, NOREPORT, KEN_HOME, DOORBELL_BAD, MEM_LAYOUT, MEM_FRAMES, SLOT_STATE, SWAP, WEIGHT_KEY, WLOAD, WLOAD_STATUS, MIRROR_PARTNER, MIRROR_SOURCE, MIRROR_STEP, MIRROR_STATE, MQ_BASE -/
def objs2000b : List ObjDef := rows 0x2000 16 [
  (0x48, 0x48, .num 1, .x, .x, .x, .r, 1, 16, true),
  (0x49, 0x49, .num 2, .x, .x, .x, .n, 2, 0, false),
  (0x4A, 0x4A, .blob 64, .r, .r, .r, .n, 0, 0, false),
  (0x4B, 0x4B, .num 8, .r, .r, .r, .r, 8, 0, false),
  (0x4C, 0x4C, .num 8, .r, .r, .r, .r, 8, 0, false),
  (0x4D, 0x4D, .num 8, .r, .r, .r, .r, 8, 0, false),
  (0x4E, 0x4E, .num 2, .x, .r, .r, .r, 2, 0xffff, true),
  (0x4F, 0x4F, .num 8, .r, .r, .r, .r, 8, 0, false),
  (0x50, 0x50, .blob 256, .x, .r, .r, .r, 256, 0, true),
  (0x51, 0x51, .num 8, .r, .r, .r, .r, 8, 0, false),
  (0x52, 0x52, .num 2, .r, .r, .r, .r, 2, 0, false),
  (0x53, 0x53, .blob 16, .n, .x, .x, .n, 0, 0, false),
  (0x54, 0x54, .blob 2592, .x, .r, .r, .r, 0, 0, true),
  (0x55, 0x55, .handle, .n, .x, .x, .n, 0, 0, false),
  (0x56, 0x56, .num 8, .r, .r, .r, .r, 8, 0, false),
  (0x57, 0x57, .num 4, .x, .r, .r, .r, 4, 0, true),
  (0x58, 0x58, .num 4, .x, .r, .r, .r, 4, 0, true),
  (0x59, 0x59, .num 8, .r, .r, .r, .r, 8, 0xffffffffffffffff, false),
  (0x5A, 0x5A, .num 1, .r, .r, .r, .r, 1, 0, false),
  (0x60, 0x60, .num 8, .x, .x, .x, .r, 8, 0, true)]

/-- MQ_SIZE, MC_BASE, MC_SIZE, VC2_LIMIT, JOB_TAG, START_STEP, START_TIME, STEP_NOW, STEP_COMMITTED, BAR_MARGIN, BAR_WAIT, REPLAY_FROM, JOB_STATE, STOP_INFO, CAPTURE, AUDIT_STOP, BAR_IGNORED, BAR_LATE, PART_COLS, PART_STATE -/
def objs2000c : List ObjDef := rows 0x2000 16 [
  (0x61, 0x61, .num 2, .x, .x, .x, .r, 2, 64, true),
  (0x62, 0x62, .num 8, .x, .x, .x, .r, 8, 0, true),
  (0x63, 0x63, .num 2, .x, .x, .x, .r, 2, 64, true),
  (0x64, 0x64, .num 2, .r, .r, .r, .r, 2, 0, false),
  (0x70, 0x70, .num 4, .x, .r, .r, .r, 4, 0, true),
  (0x71, 0x71, .num 8, .x, .r, .r, .r, 8, 0, true),
  (0x72, 0x72, .num 8, .x, .r, .r, .r, 8, 0, true),
  (0x73, 0x73, .num 8, .r, .r, .r, .r, 8, 0xffffffffffffffff, false),
  (0x74, 0x74, .num 8, .r, .r, .r, .r, 8, 0xffffffffffffffff, false),
  (0x75, 0x75, .num 4, .x, .r, .r, .r, 4, 0xfa0, true),
  (0x76, 0x76, .num 4, .x, .r, .r, .r, 4, 0x2710, true),
  (0x77, 0x77, .num 8, .x, .r, .r, .r, 8, 0xffffffffffffffff, true),
  (0x78, 0x78, .num 1, .r, .r, .r, .r, 1, 0, false),
  (0x79, 0x79, .num 8, .r, .r, .r, .r, 8, 0, false),
  (0x7A, 0x7A, .handle, .n, .x, .x, .n, 0, 0, false),
  (0x7B, 0x7B, .num 4, .x, .x, .x, .r, 4, 0xffffffff, true),
  (0x7C, 0x7C, .num 8, .r, .r, .r, .r, 8, 0, false),
  (0x7D, 0x7D, .num 8, .r, .r, .r, .r, 8, 0, false),
  (0x01, 0x01, .num 2, .x, .r, .r, .r, 2, 0, true),
  (0x02, 0x02, .num 1, .r, .r, .r, .r, 1, 0, false)]

/-- PART_LINK, IDE_REQ, SCRUB_LEFT, PART_KEM, TENANT_KEY, LINK_KEY_WRAP, IDE_KEY_WRAP, KEY_STATE, LP_KEY_GEN -/
def objs2000d : List ObjDef := rows 0x2000 16 [
  (0x03, 0x03, .num 1, .x, .r, .r, .r, 1, 0, true),
  (0x04, 0x04, .bool, .x, .r, .r, .r, 1, 1, true),
  (0x05, 0x05, .num 8, .r, .r, .r, .r, 8, 0, false),
  (0x10, 0x10, .blob 1568, .r, .r, .r, .r, 0, 0, false),
  (0x11, 0x11, .blob 2592, .x, .r, .r, .r, 0, 0, true),
  (0x12, 0x12, .blob 6211, .w, .n, .w, .n, 0, 0, true),
  (0x13, 0x13, .blob 6211, .w, .n, .w, .n, 0, 0, true),
  (0x14, 0x14, .num 8, .r, .r, .r, .r, 8, 0, false),
  (0x15, 0x15, .num 4, .r, .r, .r, .r, 4, 0, false)]

/-- PORT_CTRL, PORT_STATE, DOWN_CAUSE, DOWN_COUNT, ERR_NOW, UNCORR_TOTAL, CORR_SYMBOLS, REPLAYED, SPILLED, LEASHED, PRBS_TRAIN, RTT, DISCARDED, NOSPACE, TAG_FAIL, PORT_OWNERS, OWNER_DIGEST -/
def objs3000 : List ObjDef := rows 0x3000 24 [
  (0x01, 0x01, .num 1, .x, .r, .n, .r, 1, 0, true),
  (0x02, 0x02, .num 1, .r, .r, .n, .r, 1, 0, false),
  (0x03, 0x03, .num 1, .r, .r, .n, .r, 1, 0, false),
  (0x04, 0x04, .num 4, .r, .r, .n, .r, 4, 0, false),
  (0x05, 0x05, .num 2, .r, .r, .n, .r, 2, 0, false),
  (0x06, 0x06, .num 8, .r, .r, .n, .r, 8, 0, false),
  (0x07, 0x07, .num 8, .r, .r, .n, .r, 8, 0, false),
  (0x08, 0x08, .num 8, .r, .r, .n, .r, 8, 0, false),
  (0x09, 0x09, .num 8, .r, .r, .n, .r, 8, 0, false),
  (0x0A, 0x0A, .num 4, .r, .r, .n, .r, 4, 0, false),
  (0x0B, 0x0B, .num 2, .r, .r, .n, .r, 2, 0, false),
  (0x0C, 0x0C, .num 4, .r, .r, .n, .r, 4, 0, false),
  (0x0D, 0x0D, .num 8, .r, .r, .n, .r, 8, 0, false),
  (0x0E, 0x0E, .num 8, .r, .r, .n, .r, 8, 0, false),
  (0x0F, 0x0F, .num 8, .r, .r, .n, .r, 8, 0, false),
  (0x10, 0x10, .blob 128, .x, .r, .n, .r, 128, 0, true),
  (0x11, 0x11, .blob 32, .r, .r, .n, .r, 0, 0, false)]

/-- ERR_THRESH, ERR_WINDOW, LOCK_LOSS, CREDIT_TIMEOUT, BEACON, LEASH_AFTER, GRACE, ATTEMPTS, TRAIN_LIMIT, FAST_LIMIT, VC2_TIMEOUT, VC2_MAX, VC2_RECORDS, TRANSIT_MAP -/
def objs3400 : List ObjDef := rows 0x3400 1 [
  (0x01, 0x01, .num 2, .x, .r, .n, .r, 2, 16, true),
  (0x02, 0x02, .num 1, .x, .r, .n, .r, 1, 20, true),
  (0x03, 0x03, .num 4, .x, .r, .n, .r, 4, 0x3e8, true),
  (0x04, 0x04, .num 4, .x, .r, .n, .r, 4, 50, true),
  (0x05, 0x05, .num 2, .r, .r, .n, .r, 2, 10, false),
  (0x06, 0x06, .num 1, .r, .r, .n, .r, 1, 8, false),
  (0x07, 0x07, .num 4, .x, .r, .n, .r, 4, 200, true),
  (0x09, 0x09, .num 1, .x, .r, .n, .r, 1, 3, true),
  (0x0A, 0x0A, .num 2, .r, .r, .n, .r, 2, 5, false),
  (0x0B, 0x0B, .num 2, .r, .r, .n, .r, 2, 150, false),
  (0x0C, 0x0C, .num 4, .x, .r, .n, .r, 4, 0x3e8, true),
  (0x10, 0x10, .num 2, .r, .r, .n, .r, 2, 0x1000, false),
  (0x11, 0x11, .num 2, .r, .r, .n, .r, 2, 0x400, false),
  (0x20, 0x20, .blob 131072, .x, .r, .n, .r, 0, 0, true)]

/-- HBM_FRAMES_PC, LP_FRAMES_CH, LP_CH_SHARE, CORRECTED, UNCORRECTED, PATROL_HOURS -/
def objs4000 : List ObjDef := rows 0x4000 1 [
  (0x01, 0x01, .num 2, .r, .r, .r, .r, 2, 0x23d, false),
  (0x02, 0x02, .num 2, .r, .r, .r, .r, 2, 0x1680, false),
  (0x03, 0x03, .num 1, .r, .r, .r, .r, 1, 0, false),
  (0x10, 0x10, .num 8, .r, .r, .r, .r, 8, 0, false),
  (0x11, 0x11, .num 8, .r, .r, .r, .r, 8, 0, false),
  (0x12, 0x12, .num 2, .x, .r, .r, .r, 2, 24, true)]

/-- SPEC_PRIOR, SPEC_THRESH, KEN_ENTRIES, BARK_CAP -/
def objs5000 : List ObjDef := rows 0x5000 1 [
  (0x01, 0x01, .num 4, .x, .r, .r, .r, 4, 0x8000, true),
  (0x02, 0x02, .num 4, .x, .r, .r, .r, 4, 0x4000, true),
  (0x03, 0x03, .num 2, .r, .r, .r, .r, 2, 0x1000, false),
  (0x04, 0x04, .num 2, .r, .r, .r, .r, 2, 0, false)]

/-- FSW, FSW_ACKED, FSW_CAUSE -/
def objs6000 : List ObjDef := rows 0x6000 1 [
  (0x01, 0x01, .num 8, .r, .r, .r, .r, 8, 0, false),
  (0x02, 0x02, .num 8, .r, .r, .r, .r, 8, 0, false),
  (0x03, 0x03, .num 8, .r, .r, .r, .r, 8, 0, false)]

/-- CLEAR, ACK -/
def objs6001 : List ObjDef := rows 0x6001 1 [
  (0x01, 0x01, .num 8, .w, .w, .w, .n, 8, 0, false),
  (0x02, 0x02, .num 8, .w, .w, .w, .n, 8, 0, false)]

/-- FIRST_ERROR -/
def objs6002 : List ObjDef := rows 0x6002 1 [
  (0x01, 0x01, .blob 64, .r, .r, .r, .r, 64, 0, false)]

/-- SF_RECORD -/
def objs6003 : List ObjDef := rows 0x6003 1 [
  (0x01, 0x10, .blob 40, .r, .r, .r, .r, 40, 0, false)]

/-- FSW_COUNT -/
def objs6004 : List ObjDef := rows 0x6004 1 [
  (0x01, 0x01, .blob 200, .r, .r, .n, .r, 200, 0, false)]

/-- GRACE -/
def objs6010 : List ObjDef := rows 0x6010 1 [
  (0x01, 0x01, .num 4, .x, .r, .r, .r, 4, 20, true)]

/-- ESC_MAX, ESC_LEVEL, UNFENCE, FENCED -/
def objs6011 : List ObjDef := rows 0x6011 1 [
  (0x01, 0x01, .blob 16, .x, .r, .r, .r, 16, 0x3ffffffffffffffffffffffff, true),
  (0x02, 0x02, .num 1, .r, .r, .r, .r, 1, 0, false),
  (0x03, 0x03, .num 1, .w, .w, .n, .n, 1, 0, false),
  (0x04, 0x04, .num 2, .r, .r, .r, .r, 2, 0, false)]

/-- FW_ACTIVE, FW_FALLBACK, CRATE_STATE, CRATE_PUT, CRATE_DATA, CRATE_CHECK, CRATE_ARM, RESTART, ACT_RESULT, BOOT_COUNT, SVN_FUSED, SVN_RAISE, FWKEY_STATE, ID_PUBLIC, ID_ENDORSE, ATT_REQ, ATT_REPORT, START_STAGE, START_LOG, START_CAUSE -/
def objs7000 : List ObjDef := rows 0x7000 1 [
  (0x01, 0x01, .blob 96, .r, .r, .r, .r, 0, 0, false),
  (0x02, 0x02, .blob 96, .r, .r, .r, .r, 0, 0, false),
  (0x03, 0x03, .num 8, .r, .r, .n, .r, 8, 0, false),
  (0x04, 0x04, .handle, .n, .w, .n, .n, 0, 0, false),
  (0x05, 0x05, .blob 16777216, .w, .w, .n, .n, 0, 0, false),
  (0x06, 0x06, .bool, .w, .w, .n, .n, 1, 0, false),
  (0x07, 0x07, .bool, .w, .w, .n, .n, 1, 0, false),
  (0x08, 0x08, .num 1, .w, .w, .n, .n, 1, 0, false),
  (0x09, 0x09, .num 8, .r, .r, .n, .r, 8, 0, false),
  (0x0A, 0x0A, .num 4, .r, .r, .r, .r, 4, 0, false),
  (0x10, 0x10, .blob 8, .r, .r, .r, .r, 0, 0, false),
  (0x11, 0x11, .num 1, .w, .n, .n, .n, 1, 0, false),
  (0x12, 0x12, .num 1, .r, .r, .r, .r, 1, 0, false),
  (0x20, 0x20, .blob 2592, .r, .r, .r, .r, 0, 0, false),
  (0x21, 0x21, .blob 7283, .r, .r, .r, .r, 0, 0, false),
  (0x30, 0x30, .blob 48, .w, .w, .w, .n, 0, 0, false),
  (0x31, 0x31, .blob 7203, .r, .r, .r, .n, 0, 0, false),
  (0x0B, 0x0B, .num 1, .r, .r, .r, .r, 1, 0, false),
  (0x0C, 0x0C, .blob 48, .r, .r, .n, .r, 0, 0, false),
  (0x0D, 0x0D, .num 1, .r, .r, .n, .r, 1, 0, false)]

/-- HEEL_NOW, HEEL_STATE, HEEL_ROLE, HEEL_PARENT, HEEL_BACKUP, HEEL_DOMAIN, ROOT_SET, HEEL_OFFSET, HEEL_HOPS, HOLDOVER_LIMIT, HEEL_PERIOD, HEEL_EPOCH, PEER_OPEN, VERDICT, SELF_TEST, SELF_VERDICT, SELF_TIME -/
def objs8000 : List ObjDef := rows 0x8000 1 [
  (0x01, 0x01, .num 8, .r, .r, .r, .r, 8, 0, false),
  (0x02, 0x02, .num 1, .r, .r, .r, .r, 1, 0, false),
  (0x03, 0x03, .num 1, .x, .r, .n, .r, 1, 0, true),
  (0x04, 0x04, .num 1, .x, .r, .n, .r, 1, 255, true),
  (0x05, 0x05, .num 1, .x, .r, .n, .r, 1, 255, true),
  (0x06, 0x06, .num 4, .x, .r, .n, .r, 4, 0, true),
  (0x07, 0x07, .num 8, .x, .r, .n, .r, 8, 0, true),
  (0x08, 0x08, .num 8, .r, .r, .n, .r, 8, 0, false),
  (0x09, 0x09, .num 1, .r, .r, .n, .r, 1, 255, false),
  (0x0A, 0x0A, .num 4, .x, .r, .n, .r, 4, 0x2710, true),
  (0x0B, 0x0B, .num 2, .r, .r, .n, .r, 2, 2, false),
  (0x0C, 0x0C, .num 4, .r, .r, .r, .r, 4, 0, false),
  (0x20, 0x20, .num 4, .r, .r, .n, .r, 4, 0, false),
  (0x21, 0x21, .blob 8, .w, .n, .n, .n, 0, 0, false),
  (0x22, 0x22, .num 1, .w, .w, .n, .n, 1, 0, false),
  (0x23, 0x23, .num 1, .r, .r, .r, .r, 1, 0, false),
  (0x24, 0x24, .num 8, .r, .r, .r, .r, 8, 0, false)]

/-- GOV_LIMIT, GOV_PERIOD, POWER_NOW, POWER_PEAK, INPUT_MV, DIPS, TEMP, THERM_LIMIT, STRAPS, PCIE_LINKS -/
def objs9000 : List ObjDef := rows 0x9000 1 [
  (0x01, 0x01, .num 4, .x, .r, .r, .r, 4, 0x960, true),
  (0x02, 0x02, .num 4, .r, .r, .r, .r, 4, 10, false),
  (0x03, 0x03, .num 4, .r, .r, .r, .r, 4, 0, false),
  (0x04, 0x04, .num 4, .r, .r, .n, .r, 4, 0, false),
  (0x05, 0x05, .num 4, .r, .r, .n, .r, 4, 0, false),
  (0x06, 0x06, .num 4, .r, .r, .n, .r, 4, 0, false),
  (0x10, 0x16, .num 4, .r, .r, .r, .r, 4, 0, false),
  (0x20, 0x20, .num 4, .x, .r, .r, .r, 4, 0x708, true),
  (0x30, 0x30, .num 2, .r, .r, .n, .r, 2, 0, false),
  (0x31, 0x31, .num 4, .r, .r, .n, .r, 4, 0, false)]

/-- RAMP_STEPS -/
def objs9010 : List ObjDef := rows 0x9010 1 [
  (0x01, 0x01, .num 2, .x, .r, .r, .r, 2, 16, true)]

/-- CT_LEVEL, CT_ENTRIES, CT_DIGEST, LAT_TALLY, LAT_CS_LOAD, LAT_CS_STORE, LAT_NQ, LAT_NQ_XDIE, GAP_NQ_XDIE, LAT_CROSSING, LAT_MXE_TILE, LAT_MXE_WB, LAT_VX_SHORT, LAT_VX_CMP, LAT_VX_FMA, LAT_VX_TRN, LAT_VX_DIV, LAT_VX_QMX, LAT_VX_RED, LAT_VX_SCAN -/
def objsA000a : List ObjDef := rows 0xA000 1 [
  (0x01, 0x01, .num 1, .r, .r, .r, .r, 1, 1, false),
  (0x02, 0x02, .num 1, .r, .r, .r, .r, 1, 23, false),
  (0x03, 0x03, .blob 64, .r, .r, .r, .r, 0, 0, false),
  (0x10, 0x10, .num 4, .r, .r, .r, .r, 4, 2, false),
  (0x11, 0x11, .num 4, .r, .r, .r, .r, 4, 8, false),
  (0x12, 0x12, .num 4, .r, .r, .r, .r, 4, 4, false),
  (0x13, 0x13, .num 4, .r, .r, .r, .r, 4, 6, false),
  (0x14, 0x14, .num 4, .r, .r, .r, .r, 4, 24, false),
  (0x15, 0x15, .num 4, .r, .r, .r, .r, 4, 4, false),
  (0x16, 0x16, .num 4, .r, .r, .r, .r, 4, 4, false),
  (0x17, 0x17, .num 4, .r, .r, .r, .r, 4, 24, false),
  (0x18, 0x18, .num 4, .r, .r, .r, .r, 4, 8, false),
  (0x19, 0x19, .num 4, .r, .r, .r, .r, 4, 2, false),
  (0x1A, 0x1A, .num 4, .r, .r, .r, .r, 4, 4, false),
  (0x1B, 0x1B, .num 4, .r, .r, .r, .r, 4, 6, false),
  (0x1C, 0x1C, .num 4, .r, .r, .r, .r, 4, 12, false),
  (0x1D, 0x1D, .num 4, .r, .r, .r, .r, 4, 18, false),
  (0x1E, 0x1E, .num 4, .r, .r, .r, .r, 4, 10, false),
  (0x1F, 0x1F, .num 4, .r, .r, .r, .r, 4, 14, false),
  (0x20, 0x20, .num 4, .r, .r, .r, .r, 4, 20, false)]

/-- LAT_VX_SORT, LAT_VX_MRG, LAT_VX_SELK, LAT_SC_SHORT, LAT_SC_MUL, LAT_SBR_TAKEN -/
def objsA000b : List ObjDef := rows 0xA000 1 [
  (0x21, 0x21, .num 4, .r, .r, .r, .r, 4, 24, false),
  (0x22, 0x22, .num 4, .r, .r, .r, .r, 4, 12, false),
  (0x23, 0x23, .num 4, .r, .r, .r, .r, 4, 16, false),
  (0x24, 0x24, .num 4, .r, .r, .r, .r, 4, 2, false),
  (0x25, 0x25, .num 4, .r, .r, .r, .r, 4, 4, false),
  (0x26, 0x26, .num 4, .r, .r, .r, .r, 4, 4, false)]

/-- Subindices that read 0 (R137). -/
def objsA000c : List ObjDef := rows 0xA000 1 [
  (0x27, 0x3F, .num 4, .r, .r, .r, .r, 4, 0, false)]

/-- DIAG_SEL, DIAG_DATA, DIAG_CYC -/
def objsF010 : List ObjDef := rows 0xF010 1 [
  (0x01, 0x01, .blob 8, .x, .x, .x, .n, 8, 0, false),
  (0x02, 0x02, .blob 4096, .r, .r, .r, .n, 0, 0, false),
  (0x03, 0x03, .num 4, .r, .r, .r, .n, 4, 0, false)]

/-- SCENT_KEY, SCENT_CTR, SCENT_OUT -/
def objsF020 : List ObjDef := rows 0xF020 1 [
  (0x01, 0x01, .blob 16, .x, .x, .n, .n, 16, 0, false),
  (0x02, 0x02, .blob 16, .x, .x, .n, .n, 16, 0, false),
  (0x03, 0x03, .blob 16, .r, .r, .n, .r, 0, 0, false)]

/-- Every object of the module. -/
def allObjects : List ObjDef :=
  objs1000 ++ objs1008 ++ objs1010 ++ objs1018 ++ objs1020 ++ objs1030 ++ objs1040 ++ objs1050 ++
  objs1060 ++ objs1100 ++ objs2000a ++ objs2000b ++ objs2000c ++ objs2000d ++ objs3000 ++ objs3400 ++
  objs4000 ++ objs5000 ++ objs6000 ++ objs6001 ++ objs6002 ++ objs6003 ++ objs6004 ++ objs6010 ++
  objs6011 ++ objs7000 ++ objs8000 ++ objs9000 ++ objs9010 ++ objsA000a ++ objsA000b ++ objsA000c ++ objsF010 ++
  objsF020

/-- The object of an index and subindex. -/
def objDef (index sub : Nat) : Option ObjDef :=
  allObjects.find? fun d => decide (d.index ≤ index ∧ index < d.index + d.span ∧ d.sub ≤ sub ∧ sub ≤ d.last)

/-- Key of an object in the dictionary. -/
def objKey (index sub : Nat) : Nat := index * 256 + sub

/-- Default value of an object; empty where no such object is defined. -/
def objDefault (key : Nat) : Bytes :=
  match objDef (key / 256) (key % 256) with
  | some d => leBytes d.len d.value
  | none => []

end Sys2Proof.Machine
end

