-- ==== Sys2Proof/Machine/LinkState.lean ====
section
/-!
DEFINITION. The state of the Jaldar ports (09): link state, credits, sequence and replay, receive pool, messages being rebuilt.
-/

namespace Sys2Proof.Machine

/-- Channels VC0, VC1, VC2 and BYP of a port (R217). -/
abbrev Chan := Fin 4

/-- Both sides of one channel of one owner (R218 to R220). The sender counts `occ`, `sent` and the window `w`; the receiver
counts `rocc` and `freed`; `off` counts consecutive disagreeing beacons; `told` is FREED as the last CREDIT reported it. -/
structure ChanState where
  occ : Nat
  sent : BitVec 32
  freedSeen : BitVec 32
  w : Nat
  rocc : Nat
  freed : BitVec 32
  off : Nat
  told : BitVec 32
  deriving DecidableEq, Repr

/-- A short flit as sent or received (Table 9-2), without its SEQ and CRC. -/
structure ShortFlit where
  item : BitVec 8
  sqd : Bool
  owner : BitVec 3
  module : Bool
  src : BitVec 14
  dst : BitVec 14
  body : Bytes
  deriving DecidableEq, Repr

/-- What a sequenced flit carries. -/
inductive FlitBody where
  | data (f : Flit)
  | short (f : ShortFlit)
  deriving DecidableEq, Repr

/-- Where a flit came from: a DSND of a cell, a VC2 request or response of a partition, the bulk channel, another port (transit). -/
inductive FlitFrom where
  | dsnd (c : CellRef) (serial : Nat)
  | vc2 (p : PartIx) (txid : BitVec 12)
  | vc2Answer (p : PartIx)
  | vc1 (p : PartIx)
  | transit (port : PortIx) (owner : BitVec 3) (chan : Chan) (units : Nat)
  | item
  deriving DecidableEq, Repr

/-- A flit that waits to be sent on a port. `alloc` is the allocation of a VC0 flit (SLOT0, SLOTCNT); `detour` is the other port
of its route entry, flow or transit map entry (R231). -/
structure OutFlit where
  body : FlitBody
  chan : Chan
  owner : BitVec 3
  alloc : Option (BitVec 16 × BitVec 16)
  primary : PortIx
  detour : PortIx
  from_ : FlitFrom
  deriving DecidableEq, Repr

/-- A sequenced flit as it was received: a data flit with the SRC and CTR of its message (R234), or an item of Table 9-3. -/
inductive RxBody where
  | data (f : Flit) (src : BitVec 14) (ctr : BitVec 64)
  | resync (owner : BitVec 3) (next : BitVec 20) (counts : List (Option ChanCount))
  | kennel (k : KennelItem)
  | arrive (b : BarrierItem)
  | release (b : BarrierItem)
  | peer (i : PeerItem)
  deriving DecidableEq, Repr

/-- A replay entry: a sequenced flit sent and not yet acknowledged (R223 to R225). `resend` counts the times it is still to be sent
again (R224). `spilled` is its slot of the spill region (R226). A `moved` flit has gone to the detour port as well (R231): its entry stays,
so that this port's sequence stays whole. -/
structure ReplayEntry where
  seq : BitVec 20
  out : OutFlit
  sentAt : BitVec 64
  resend : Nat
  spilled : Option Nat
  moved : Bool
  deriving DecidableEq, Repr

/-- A sequenced flit that has been sent: its number, place in the credit table, channel and units (R219). -/
structure SentRec where
  seq : BitVec 20
  ix : Fin 9
  chan : Chan
  units : Nat
  deriving DecidableEq, Repr

/-- One port. -/
structure Port where
  state : BitVec 8
  cause : BitVec 8
  downCount : BitVec 32
  attempts : Nat
  /-- time of the last entry to UP, and of the last entry to DOWN -/
  upSince : BitVec 64
  downSince : BitVec 64
  /-- VC2 and BYP items are held for the grace period (R233) -/
  grace : Bool
  /-- FAILED by the optical bias check, to the next start (R348) -/
  postFailed : Bool
  /-- error window: 16 buckets, the one being filled first, and the flit times in it (R229) -/
  win : List Nat
  winTick : Nat
  uncorr : BitVec 64
  corrected : BitVec 64
  replayed : BitVec 64
  spilledN : BitVec 64
  leashed : BitVec 32
  prbs : BitVec 16
  rtt : BitVec 32
  discarded : BitVec 64
  noSpace : BitVec 64
  tagFail : BitVec 64
  /-- next sequence number to assign -/
  txSeq : BitVec 20
  /-- owners 0 to 7 and, as 8, the module share (R217) -/
  chans : Vector (Vector ChanState 4) 9
  replay : List ReplayEntry
  /-- the last 2^19 sequenced flits sent, the newest first, by which a BEACON is judged (R219) -/
  sentLog : List SentRec
  /-- flits of orders 1 to 3 of R214 and the short flits, the oldest first -/
  q0 : List OutFlit
  qDetour : List OutFlit
  qBulk : List OutFlit
  qByp : List OutFlit
  /-- the channel of order 3 that goes next -/
  vc2Next : Bool
  /-- short flits inserted since the last reserve position (R212) -/
  inserted : Nat
  /-- owner whose short flit goes next -/
  rot : BitVec 3
  /-- NEXT, and the sequenced flits received beyond it (R223) -/
  rxNext : BitVec 20
  rxHeld : List (BitVec 20 × RxBody)
  /-- time of the last CREDIT or BEACON item, or of entry to UP (R222, R230) -/
  creditAt : BitVec 64
  /-- owners whose traffic is on the detour port (R231, R232) -/
  away : BitVec 8
  /-- VC2 and BYP items that a full training has cut off within the grace period, to be flushed at its end (R233), each with the time at which
  the port had gone down -/
  graceHeld : List (BitVec 64 × OutFlit)
  /-- time of the last 20 ms multiple of Heel time (R232) -/
  transitMark : BitVec 64
  deriving DecidableEq, Repr

/-- One flit of a message, by its OFF, with the pool units it still holds at a port (R218, R234). -/
structure MsgFlit where
  off : BitVec 16
  data : Bytes
  last : Bool
  port : PortIx
  owner : BitVec 3
  units : Nat
  deriving DecidableEq, Repr

/-- A message being rebuilt (R234), known by its partition, SRC, VC and CTR, and by its key phase, since CTR counts per key (R240, log 21).
`kth` counts the VC0 messages of a tag and cell (R124). -/
structure RxMsg where
  part : PartIx
  src : BitVec 14
  vc : BitVec 2
  ctr : BitVec 64
  tag : BitVec 16
  kph : Bool
  flits : List MsgFlit
  /-- verified and handed on; a VC0 message waits so until its granules are written -/
  whole : Bool
  cell : BitVec 8
  kth : Nat
  /-- consumed, or not taken (R241): flits of it that come again are discarded -/
  dead : Bool
  deriving DecidableEq, Repr

/-- What stays of a message that has been consumed or was not taken: its name, by which flits of it that come again are discarded (R234). -/
def RxMsg.spent (m : RxMsg) : RxMsg := { m with flits := [], whole := false, dead := true }

def ChanState.cold : ChanState := ⟨0, 0, 0, 0, 0, 0, 0, 0⟩

/-- A port after a start: DISABLED, counters 0, replay and spill empty (R351). -/
def Port.cold : Port where
  state := 0
  cause := 0
  downCount := 0
  attempts := 0
  upSince := 0
  downSince := 0
  grace := false
  postFailed := false
  win := List.replicate 16 0
  winTick := 0
  uncorr := 0
  corrected := 0
  replayed := 0
  spilledN := 0
  leashed := 0
  prbs := 0
  rtt := 0
  discarded := 0
  noSpace := 0
  tagFail := 0
  txSeq := 0
  chans := Vector.replicate 9 (Vector.replicate 4 ChanState.cold)
  replay := []
  sentLog := []
  q0 := []
  qDetour := []
  qBulk := []
  qByp := []
  vc2Next := false
  inserted := 0
  rot := 0
  rxNext := 0
  rxHeld := []
  creditAt := 0
  away := 0
  graceHeld := []
  transitMark := 0

end Sys2Proof.Machine
end

