-- ==== Sys2Proof/Machine/HubState.lean ====
section
/-!
DEFINITION. The state of the hub's other services: Heel (10), peer reports, fault collector (13), sessions and staging (12), firmware (14),
start-up (15), pins, power and thermal (16).
-/

namespace Sys2Proof.Machine

/-- Heel (R243 to R247). `slew` is the offset still to be removed by rate; `holdRate` is the rate that HOLDOVER keeps, in parts of 300 ppm. -/
structure Heel where
  state : BitVec 8
  now : BitVec 64
  epoch : BitVec 32
  offset : BitVec 64
  hops : BitVec 8
  slew : BitVec 64
  holdRate : Int
  /-- consecutive exchanges within 0.25 ns in ACQUIRING -/
  good : Nat
  /-- number and T1 of the exchange under way -/
  xseq : BitVec 16
  t1 : Option (BitVec 64)
  /-- the backup serves in place of the parent -/
  onBackup : Bool
  /-- time since PWR_GOOD of the last valid RESP, and of entry to HOLDOVER -/
  lastValid : BitVec 64
  holdSince : BitVec 64
  deriving DecidableEq, Repr

/-- A peer-suspect report sent and still open (R269, R270). -/
structure OpenReport where
  part : PartIx
  job : BitVec 32
  suspect : BitVec 14
  cause : BitVec 4
  step : BitVec 64
  deriving DecidableEq, Repr

/-- The fault collector (R312 to R322). -/
structure Faults where
  fsw : BitVec 64
  acked : BitVec 64
  /-- causes that persist by the event's own condition -/
  persist : BitVec 64
  counts : Vector (BitVec 32) 50
  level : Vector (BitVec 2) 50
  /-- when a running grace timer expires, ns since PWR_GOOD (R317) -/
  timer : Vector (Option (BitVec 64)) 50
  firstError : BitVec 512
  /-- partitions named by the events of a bit while it is latched -/
  scope : Vector (BitVec 16) 50
  muzzle : Bool
  /-- Shepherd cores stopped by their watchdogs and not yet restarted -/
  coresDown : BitVec 2
  deriving DecidableEq, Repr

/-- A notice kept for a subscriber (R307). -/
structure Notice where
  seq : BitVec 64
  kind : BitVec 16
  body : Bytes
  deriving DecidableEq, Repr

/-- One staged object and its copy (R301). -/
structure StagedObj where
  index : BitVec 16
  sub : BitVec 8
  value : Bytes
  deriving DecidableEq, Repr

/-- A staging session (Table 12-8). `order` is the place of its passing check among all checks (R303). -/
structure Staging where
  state : BitVec 8
  clock : BitVec 8
  objs : List StagedObj
  report : BitVec 256
  effect : BitVec 64
  ht : BitVec 64
  step : BitVec 64
  order : Nat
  /-- the reservation of R303 is held -/
  reserved : Bool
  /-- the core that ran the check (R324) -/
  core : Bool
  /-- clock partition of a pending commit (R304) -/
  on : Option PartIx
  deriving DecidableEq, Repr

/-- A pending commit whose session has closed (R294, R301). -/
structure OrphanCommit where
  step : BitVec 64
  clock : PartIx
  objs : List StagedObj
  role : BitVec 4
  order : Nat
  deriving DecidableEq, Repr

/-- A response kept with the request it answers (R292). -/
structure KeptResponse where
  request : Frame
  response : Frame
  deriving DecidableEq, Repr

/-- Segments of a written value received so far (R291). -/
structure Partial where
  index : BitVec 16
  sub : BitVec 8
  total : BitVec 32
  data : Bytes
  deriving DecidableEq, Repr

/-- An open session (R293, R294). -/
structure Session where
  sid : BitVec 32
  role : BitVec 4
  part : PartIx
  path : Path
  bootstrap : Bool
  kc : BitVec 256
  km : BitVec 256
  seqMax : BitVec 64
  kept : List KeptResponse
  /-- values of which segments have come, by object -/
  writing : List Partial
  snapshot : Option Partial
  staging : Option Staging
  notify : Bool
  noticeSeq : BitVec 64
  notices : List Notice
  report : Bytes
  core : Bool
  seen : BitVec 64
  deriving DecidableEq, Repr

/-- An incomplete handshake (R293, R294). -/
structure Handshake where
  sid : BitVec 32
  role : BitVec 4
  part : PartIx
  path : Path
  h1 : BitVec 512
  /-- draw of the entropy source that made the ephemeral key pair -/
  draw : Nat
  body : Bytes
  /-- TOTAL of the segments of ACCEPT (R291) -/
  total : BitVec 32
  since : BitVec 64
  deriving DecidableEq, Repr

/-- A mailbox (R296): status bits, response frame. -/
structure Mailbox where
  done : Bool
  overrun : Bool
  rspLen : BitVec 16
  rsp : Option Frame
  deriving DecidableEq, Repr

/-- One interface entry of an image (Table 14-4). -/
structure IfEntry where
  ifid : BitVec 16
  needs : Bool
  opt : Bool
  maj : BitVec 8
  min : BitVec 8
  deriving DecidableEq, Repr

/-- An image as the module keeps it: its header fields, its measurement, and whether it verifies (R328, R330). -/
structure Image where
  kind : BitVec 8
  parts : BitVec 3
  vmaj : BitVec 8
  vmin : BitVec 8
  vpatch : BitVec 16
  svn : BitVec 6
  keyId : Fin 4
  ifs : List IfEntry
  digest : BitVec 512
  /-- key and signature verify; false also for an image marked invalid (R337) -/
  good : Bool
  deriving DecidableEq, Repr

/-- A selector record (R327): the selected image's measurement among it. `intact` says that the record's own SHA3-256 digest verifies: it has been
written whole. -/
structure Selector where
  kind : BitVec 8
  bank : Bool
  gen : BitVec 32
  digest : BitVec 512
  intact : Bool
  deriving DecidableEq, Repr

/-- The two banks of a KIND, and the copies of its selector record in FL0 and FL1 (R327); bank B is true. -/
structure Banks where
  a : Option Image
  b : Option Image
  sel0 : Selector
  sel1 : Selector
  deriving DecidableEq, Repr

/-- The copy that ROM uses: the one with the higher GENERATION whose own digest verifies (R327). -/
def Banks.sel (b : Banks) : Selector :=
  if b.sel1.intact && (!b.sel0.intact || decide (b.sel0.gen < b.sel1.gen)) then b.sel1 else b.sel0

/-- The active bank. -/
def Banks.active (b : Banks) : Bool := b.sel.bank

/-- GENERATION. -/
def Banks.gen (b : Banks) : BitVec 32 := b.sel.gen

/-- The crate (R333). -/
structure Crate where
  state : BitVec 4
  kind : BitVec 4
  result : BitVec 8
  detail : BitVec 16
  data : Bytes
  total : BitVec 32
  owner : Option (BitVec 32)
  deriving DecidableEq, Repr

/-- Firmware state: flash and fuses (R326 to R342). -/
structure Firmware where
  /-- KIND k at place k - 1 -/
  banks : Vector Banks 6
  crate : Crate
  actResult : BitVec 64
  bootCount : BitVec 32
  svnFused : Vector (BitVec 6) 6
  revoked : BitVec 4
  /-- KIND of the image on probation (R337) -/
  probation : Option (BitVec 8)
  deriving DecidableEq, Repr

/-- Pup mode (R339): entered with RECOVERY_N low, the last answer's state word, the image being received. -/
structure Pup where
  byPin : Bool
  status : BitVec 64
  data : Bytes
  kind : BitVec 8
  total : BitVec 32
  deriving DecidableEq, Repr

/-- The start sequence (R345 to R347). -/
structure Start where
  stage : BitVec 8
  cause : BitVec 8
  log : Vector (BitVec 64) 6
  /-- the stage has passed its limit -/
  stalled : Bool
  pup : Option Pup
  /-- a start waits for PERST_N to be released -/
  waiting : Bool
  /-- time at which stage ROM began, ns since PWR_GOOD -/
  romAt : BitVec 64
  /-- what flash answers in stage ROM of this start -/
  rom : RomRead
  deriving DecidableEq, Repr

/-- Pins and straps (Table 16-1): levels, true for high. -/
structure Pins where
  pwrEn : Bool
  pwrGood : Bool
  perstN : Bool
  perst1N : Bool
  bifurN : Bool
  recoveryN : Bool
  geo : BitVec 6
  faultN : Bool
  /-- latch of the input stage that holds THERM_N low (R364) -/
  thermLatch : Bool
  deriving DecidableEq, Repr

/-- The input voltage by the rows of Table 16-3: 46 to 56 V, 42 to 58 V, or beyond. -/
inductive InputRange where
  | full | short | out
  deriving DecidableEq, Repr

/-- Power, governor and thermal state (R19, R361 to R364). -/
structure Power where
  now : BitVec 32
  peak : BitVec 32
  inputMv : BitVec 32
  /-- where the input lies, by the last row that gave it (R361) -/
  input : InputRange
  dips : BitVec 32
  /-- start of an excursion of the input in progress, ns since PWR_GOOD -/
  excursion : Option (BitVec 64)
  temps : Vector (BitVec 32) 7
  /-- sensors whose warning persists (R363) -/
  warn : BitVec 7
  /-- consecutive samples with input above GOV_LIMIT although no partition is over its share (R19) -/
  unattributed : Nat
  /-- consecutive samples with input above GOV_LIMIT (bit 46) -/
  highRun : Nat
  pcie : Vector (BitVec 8) 2
  /-- links that have trained since the start -/
  trained : BitVec 2
  /-- links whose functions complete no further requests after an uncorrectable TLP error (Table 13-3) -/
  dead : BitVec 2
  deriving DecidableEq, Repr

/-- Which units failed their first test (R348). -/
structure Post where
  badCols : BitVec 16
  badCrypto : CryptoFail
  badShares : BitVec 16
  deriving DecidableEq, Repr

/-- The part numbers (R1). -/
inductive PartNo where
  | x192 | l192 | s096
  deriving DecidableEq, Repr

/-- What leaves the module: a Basnus frame by its path, a datagram over its next hop; an interrupt of a function; bytes written to host memory,
in the function's IDE stream or in clear; an Unsupported Request; a flit, an item or an
idle flit on a port; an answer on the tray bus; a message to the PCIe link. -/
inductive Out where
  | frame (hop : Option (BitVec 128)) (f : Frame)
  | msix (link : Fin 2) (vf : Option PartIx) (vector : BitVec 2)
  | hostWrite (link : Fin 2) (p : PartIx) (ide : Bool) (addr : BitVec 64) (data : Bytes)
  | unsupported (link : Fin 2) (vf : Option PartIx)
  | data (n : PortIx) (f : Flit) (crc : BitVec 64)
  | short (n : PortIx) (seq : BitVec 20) (f : ShortFlit) (crc : BitVec 64)
  | idle (n : PortIx) (f : Flit) (crc : BitVec 64)
  | downPattern (n : PortIx)
  /-- an answer on the tray bus: its bytes, after the count for a block, and its packet error code -/
  | smbus (data : Bytes) (pec : Byte)
  | readiness (link : Fin 2)
  | icmp (port : Fin 2) (hop : Option (BitVec 128)) (target : BitVec 128) (data : Bytes)
  | peerFrame (i : PeerItem)
  | chunkRequest (p : PartIx) (k : IngestKey) (i : BitVec 32)
  deriving DecidableEq, Repr

/-! Values after a start (Table 15-4) -/

def Heel.cold : Heel := ⟨0, 0, 0, 0, 0xFF, 0, 0, 0, 0, none, false, 0, 0⟩

def Faults.cold : Faults :=
  ⟨0, 0, 0, Vector.replicate 50 0, Vector.replicate 50 0, Vector.replicate 50 none, 0, Vector.replicate 50 0, false, 0⟩

def Staging.opened : Staging := ⟨1, 0xFF, [], 0, BitVec.allOnes 64, 0, 0, 0, false, false, none⟩

def Mailbox.cold : Mailbox := ⟨true, false, 0, none⟩

def Crate.empty : Crate := ⟨0, 0, 0, 0, [], 0, none⟩

def Post.clean : Post := ⟨0, ⟨0, 0, 0⟩, 0⟩

def Power.cold : Power :=
  ⟨0, 0, 0, .full, 0, none, Vector.replicate 7 0, 0, 0, 0, Vector.replicate 2 0, 0, 0⟩

end Sys2Proof.Machine
end

