-- ==== Sys2Proof/Machine/KennelState.lean ====
section
/-!
DEFINITION. The state of the Kennel of one partition, of its model memory and of its Bark work (07, 08). An entry is the 512-bit word
of Table 7-2; its fields are read and written through accessors of Machine/Entry.lean.
-/

namespace Sys2Proof.Machine

/-- A Kennel entry (Table 7-2). -/
abbrev Entry := BitVec 512

/-- A submission entry (Table 7-4). -/
abbrev SqEntry := BitVec 512

/-- A completion record (Table 7-7), without its place in the ring. -/
abbrev CqRecord := BitVec 512

/-- A record that waits for a free place in the completion ring, and whether it may be kept beyond the 256 places (R157). -/
structure KeptRecord where
  record : CqRecord
  beyond : Bool
  deriving DecidableEq, Repr

/-- A command that waits for the boundary (R153, R158): the command and, for MODIFY, whether its entry has stayed live. -/
structure PendingCmd where
  cmd : SqEntry
  live : Bool
  /-- it came while the job was STOPPED or REPLAYING and waits for the first boundary without a record (R261) -/
  wait : Bool
  deriving DecidableEq, Repr

/-- A suspension or resume copy under way (R171, R193): `back` for a resume; done but waiting for the boundary; `failed` if it has met an
error or has been stopped, its pages waiting to be returned. -/
structure CopyJob where
  entry : BitVec 12
  back : Bool
  tag : BitVec 16
  src : List (BitVec 64)
  dst : List (BitVec 64)
  done : Bool
  failed : Bool
  deriving DecidableEq, Repr

/-- A slot of a step record (R161). -/
structure SlotRec where
  used : Bool
  entry : BitVec 12
  len : BitVec 32
  seed : BitVec 12
  keff : BitVec 2
  deriving DecidableEq, Repr

/-- A step record (R161). -/
structure StepRec where
  step : BitVec 64
  variant : BitVec 8
  slots : List SlotRec
  deriving DecidableEq, Repr

/-- One Bark stream's filter state and progress (R175, R176). -/
structure BarkStream where
  entry : BitVec 12
  /-- state of the input resampler, and the last 240 samples at 16 kHz -/
  inSt : Bytes
  past : List (BitVec 16)
  /-- the 240 overlap-added samples that the next frame completes, and the state of the output resampler -/
  tail : List Val
  outSt : Bytes
  /-- IN_WR taken at the last boundary, samples converted, frames written, samples written -/
  inWr : BitVec 64
  inDone : BitVec 64
  featWr : BitVec 64
  outWr : BitVec 64
  dropped : BitVec 64
  /-- the stream ran in the last committed step, so that its output frames are due -/
  outDue : Bool
  deriving DecidableEq, Repr

/-- A swap request (Table 8-8). `copied` counts the bytes that its copy has written so far (R191). -/
structure SwapJob where
  slot : Bool
  step : BitVec 64
  src : BitVec 64
  len : BitVec 64
  copying : Bool
  done : Bool
  copied : Nat
  deriving DecidableEq, Repr

/-- What the Kennel holds of an entry beside its 64 bytes: the START step of its ADMIT, words 6 and 7 of the last committed step, its FINAL
record (0 none, 1 due, 2 given to the ring), a RESUME that waits for its pages, TAGs of the SUSPEND or RESUME to be answered, and whether
its page-list page has been drawn (PAGELIST may be the page at address 0). -/
structure EntryX where
  start : BitVec 64
  word6 : BitVec 64
  word7 : BitVec 64
  final : BitVec 2
  resume : Bool
  tags : List (BitVec 16)
  listed : Bool
  deriving DecidableEq, Repr

/-- The Kennel's state of a partition. -/
structure Kennel where
  entries : List Entry
  extra : List EntryX
  seeds : List (BitVec 128)
  kvFree : List (BitVec 64)
  susFree : List (BitVec 64)
  /-- pages returned at a boundary that a retained step image still holds back (R258) -/
  kvHeld : List (BitVec 64 × BitVec 64)
  sqTail : BitVec 12
  sqHead : BitVec 12
  cqHead : BitVec 12
  cqWrite : BitVec 12
  phase : Bool
  kept : List KeptRecord
  pendingCmds : List PendingCmd
  copies : List CopyJob
  missCount : BitVec 64
  poolShort : BitVec 64
  noReport : BitVec 64
  doorbellBad : BitVec 64
  kenSel : BitVec 16
  stepRec : Option StepRec
  /-- slot map received from the home Kennel for the next step, and whether it is whole (R173) -/
  slotMap : Option StepRec
  mapWhole : Bool
  /-- words of entries as the home Kennel has sent them for the next boundary: entry, word, value (R173) -/
  homeWords : List (BitVec 12 × BitVec 3 × BitVec 64)
  bark : List BarkStream
  /-- Bark units whose work of the step is done (R176) -/
  barkDone : BitVec 2
  deriving DecidableEq, Repr

/-- A Kennel without a range: no entry, empty pools, ring indices 0, PHASE 1 (R151, R351). -/
def Kennel.cold : Kennel where
  entries := []
  extra := []
  seeds := []
  kvFree := []
  susFree := []
  kvHeld := []
  sqTail := 0
  sqHead := 0
  cqHead := 0
  cqWrite := 0
  phase := true
  kept := []
  pendingCmds := []
  copies := []
  missCount := 0
  poolShort := 0
  noReport := 0
  doorbellBad := 0
  kenSel := 0
  stepRec := none
  slotMap := none
  mapWhole := false
  homeWords := []
  bark := []
  barkDone := 0

end Sys2Proof.Machine
end

