-- ==== Sys2Proof/Machine/PartState.lean ====
section
/-!
DEFINITION. The state of one partition (01, 02, 06, 08, 10, 11): plans, job and barrier, holds, memory work, keys.
-/

namespace Sys2Proof.Machine

/-- One CODE record as loaded: where its words stand in region PLAN and the entry PC of each variant (Table 6-6). -/
structure CodeRec where
  vcell : BitVec 8
  eng : BitVec 2
  entries : List (BitVec 32)
  /-- byte offset of the code in the half of region PLAN -/
  offset : Nat
  ninst : Nat
  deriving DecidableEq, Repr

/-- A distribution entry after patching (Table 6-11). -/
structure DistEntry where
  dev : BitVec 14
  parent : BitVec 14
  backup : BitVec 14
  fetch : Bool
  parentAddr : BitVec 32
  backupAddr : BitVec 32
  deriving DecidableEq, Repr

/-- A variant descriptor (Table 6-12). -/
structure VarDesc where
  kw : BitVec 2
  mslot : Bool
  slots : BitVec 16
  vwork : BitVec 32
  deriving DecidableEq, Repr

/-- A slot descriptor (Table 6-12). -/
structure SlotDesc where
  maxCtx : BitVec 16
  barkIo : Bool
  deriving DecidableEq, Repr

/-- A plan as the loader leaves it in the hub die (R145). -/
structure PlanRec where
  scentId : BitVec 20
  vcol0 : Nat
  vcols : Nat
  period : BitVec 32
  work : BitVec 32
  nslot : Nat
  barkStr : BitVec 16
  /-- plan ports of REQ_PORT -/
  reqPort : BitVec 24
  /-- the half of regions PLAN and CONST: true for the upper half -/
  upper : Bool
  code : List CodeRec
  routes : List RouteTable
  dist : List DistEntry
  vars : List VarDesc
  slots : List SlotDesc
  digest : BitVec 512
  deriving DecidableEq, Repr

/-- A load in progress (R145): the handle that names the image. -/
structure LoadJob where
  addr : BitVec 64
  len : BitVec 64
  deriving DecidableEq, Repr

/-- A hold in progress: what raised it and how many cycles with a late item it has lasted (R15, R127). -/
structure HoldRec where
  causes : List HoldCause
  len : Nat
  deriving DecidableEq, Repr

/-- Why a partition's cells stand still. -/
inductive FreezeWhy where
  | schedFault | holdLimit | unit | fence | audit
  deriving DecidableEq, Repr

/-- A freeze: its cause and the CYC it left (R49, R127, R319). -/
structure Freeze where
  why : FreezeWhy
  cyc : BitVec 32
  deriving DecidableEq, Repr

/-- The last kept release of a step: its time and verdict (R253, R254). -/
structure Release where
  step : BitVec 64
  stop : Bool
  status : BitVec 3
  rtime : BitVec 64
  deriving DecidableEq, Repr

/-- A child's arrival as received (R252). -/
structure ChildArrival where
  dev : BitVec 14
  step : BitVec 64
  status : BitVec 3
  first : BitVec 15
  count : BitVec 15
  deriving DecidableEq, Repr

/-- The barrier of the current step (R251 to R254). -/
structure Barrier where
  own : Option (BitVec 3)
  /-- time of the own arrival, ns since PWR_GOOD -/
  ownAt : BitVec 64
  children : List ChildArrival
  sent : Bool
  release : Option Release
  /-- time at which the last arrival reached this device, as root -/
  lastArrival : BitVec 64
  /-- boundary processing of the step is done -/
  processed : Bool
  deriving DecidableEq, Repr

/-- A boundary image K_n (R257): the Kennel range, free lists with their marks, seeds, step record and Bark state as they stood at
the release of step n, with the variant and hooks latched for it and its release time (hook 0x06). -/
structure BoundaryImage where
  step : BitVec 64
  kennel : Kennel
  variant : BitVec 16
  hooks : List SlotHooks
  releaseHt : BitVec 64
  /-- measurement of the plan that the step runs (R268) -/
  plan : BitVec 512
  /-- seed-table entries that draws of the step have named themselves (R264) -/
  seedsUsed : List (BitVec 12)
  deriving DecidableEq, Repr

/-- One entry of the serial log (R257): an item applied by the Kennel between two boundaries. -/
structure LogItem where
  step : BitVec 64
  fast : Bool
  cmd : BitVec 512
  deriving DecidableEq, Repr

/-- An ingest (R198 to R203, R266). -/
structure Ingest where
  manifest : Bytes
  /-- chunks verified -/
  held : List (BitVec 32)
  /-- chunks whose first copy failed its digest -/
  retried : List (BitVec 32)
  /-- the chunks held, as they came -/
  content : List (BitVec 32 × Bytes)
  /-- devices that take the ingest from this one, with the next chunk to send to each -/
  feeds : List (BitVec 14 × Nat)
  backupParent : Bool
  done : Bool
  reported : Bool
  /-- the destination slot has become LOADING, and the chunks held before that have been written -/
  started : Bool
  flushed : Bool
  /-- the slot has become READY by this ingest -/
  landed : Bool
  /-- switches between PARENT and BACKUP made (R266) -/
  switches : Nat
  deriving DecidableEq, Repr

/-- A VC2 request outstanding at its requester (R235 to R237). -/
structure Vc2Req where
  txid : BitVec 12
  entry : BitVec 512
  /-- time of its first sending -/
  sentAt : Option (BitVec 64)
  deriving DecidableEq, Repr

/-- A completion record that a target keeps for an OPID of a requester (R236). -/
structure Vc2Done where
  src : BitVec 14
  opid : BitVec 64
  status : BitVec 8
  result : BitVec 64
  deriving DecidableEq, Repr

/-- The VC2 side of a partition (R235 to R239). -/
structure Vc2 where
  mqTail : BitVec 12
  mqHead : BitVec 12
  mcHead : BitVec 12
  mcWrite : BitVec 12
  phase : Bool
  kept : List (BitVec 512)
  out : List Vc2Req
  nextTxid : BitVec 12
  done : List Vc2Done
  /-- requesters whose record has left the cold state, with the first OPID recorded since the start (R352) -/
  warm : List (BitVec 14 × BitVec 64)
  /-- identifiers of requests that ended as LINK_LOST, and when (R237) -/
  resting : List (BitVec 12 × BitVec 64)
  deriving DecidableEq, Repr

/-- A scrub under way: when its third order began, ns since PWR_GOOD, and the frames of each tier to write (Table 11-7). -/
structure ScrubJob where
  since : BitVec 64
  hbm : Nat
  lpddr : Nat
  deriving DecidableEq, Repr

/-- The keys and key counters of a partition (R278 to R280). -/
structure Keys where
  linkKey : Vector (Option (BitVec 256)) 2
  linkActive : Bool
  /-- phase to which the sender switches at the release of the step for which a boundary has installed its key (R242) -/
  linkNext : Option Bool
  /-- next CTR by key phase and VC, 3 for KENNEL items (R240) -/
  ctr : Vector (Vector (BitVec 64) 4) 2
  /-- phase whose key is erased at the next boundary (R242) -/
  oldPhase : Option Bool
  ideSet : Vector (Option (BitVec 1536)) 2
  ideActive : Bool
  serial : BitVec 32
  /-- draws of the entropy source that made the LPDDR5X keys, by owned channel; none before ACTIVE. `lpOld` holds the former keys of
  channels whose re-encryption is under way (R182) -/
  lpKeys : List (Fin 96 × BitVec 256)
  lpOld : List (Fin 96 × BitVec 256)
  lpGen : BitVec 32
  /-- draw of the entropy source that made the ML-KEM key pair -/
  kem : Option (BitVec 256)
  deriving DecidableEq, Repr

/-- A granule of memory that a DWR has changed: the cell that issued it and its number there, the address, the bytes before and after. -/
structure Written where
  cell : CellRef
  serial : Nat
  addr : Nat
  before : Granule
  data : Granule
  deriving DecidableEq, Repr

/-- One partition. -/
structure Partition where
  -- cells
  cyc : BitVec 32
  front : Bool
  pendFaults : List SchedFault
  /-- DWRs whose completion was applied at the current CYC (R122) -/
  doneWrites : List Race
  /-- granules that DWRs have changed in the step, the oldest first (R122) -/
  written : List Written
  hold : Option HoldRec
  govHold : Bool
  /-- when governor holds have begun (true) and ended since the last release, by Heel time (R16) -/
  govMarks : List (BitVec 64 × Bool)
  frozen : Option Freeze
  running : Bool
  holdStep : BitVec 64
  holdItem : BitVec 64
  holdGov : BitVec 64
  holdLast : BitVec 64
  holdTotal : BitVec 64
  /-- faults of the recorded cycle and phase, the recorded one first (R49) -/
  sf : BitVec 320
  /-- an uncorrectable error or a failed copy keeps the step from committing (Table 8-14) -/
  poisoned : Bool
  /-- a mirror restore of this partition has failed (R265) -/
  restoreFailed : Bool
  /-- the time-stamp unit has failed since the last arrival, which the next one reports as HEEL (Table 13-3, bit 42) -/
  stampBad : Bool
  -- partition
  partState : BitVec 8
  fenced : Bool
  /-- bits whose fence has covered the partition (R321) -/
  fenceBits : BitVec 64
  /-- scrubs under way (R282) -/
  scrubs : List ScrubJob
  /-- columns released and still to be scrubbed -/
  scrubCols : BitVec 16
  keys : Keys
  -- plans
  runPlan : Option PlanRec
  loadedPlan : Option PlanRec
  oldPlan : Option PlanRec
  loadStatus : BitVec 32
  loadWhere : BitVec 64
  load : Option LoadJob
  -- job
  jobState : BitVec 8
  stepNow : BitVec 64
  stepCommitted : BitVec 64
  stopInfo : BitVec 64
  barIgnored : BitVec 64
  barLate : BitVec 64
  startWritten : BitVec 2
  /-- the start barrier or a restart barrier is under way (R265) -/
  starting : Bool
  releaseHt : BitVec 64
  startHt : BitVec 64
  variant : BitVec 16
  hooks : List SlotHooks
  barrier : Barrier
  /-- the barrier of the next step, as far as it is known before that step's release (R319) -/
  early : Barrier
  /-- arrivals for a barrier that this device has not reached yet (R252) -/
  waiting : List ChildArrival
  /-- devices that have switched to this one as their BACKUP (R252, R266) -/
  adopted : List (BitVec 14)
  /-- this device counts as a child of its BACKUP (R252, R266) -/
  upBackup : Bool
  /-- devices reported in the current step (R269) -/
  reported : List (BitVec 14)
  images : List BoundaryImage
  log : List LogItem
  /-- how far a restart has moved the schedule, in ht, until the first boundary without a record has reported it (R262) -/
  stopDelay : BitVec 64
  rampSteps : BitVec 16
  /-- time of the last boundary, ns since PWR_GOOD (R232) -/
  prevBoundary : BitVec 64
  -- Kennel and memory
  kennel : Kennel
  slotState : Vector (BitVec 4) 2
  /-- a READY slot in which an uncorrectable error was found, FAULT at the next boundary -/
  slotBad : Vector Bool 2
  swaps : List SwapJob
  /-- ingests, the latest last; a finished one stays for the children until another takes its place -/
  ingests : List Ingest
  /-- ingests into a slot that have failed, until the slot is FAULT: what they wrote stays (R192) -/
  failedIngests : List Ingest
  /-- devices that have asked this one, as their BACKUP, for an ingest that it has not begun, with their first chunk missing (R266) -/
  waitFeeds : List (IngestKey × BitVec 14 × Nat)
  /-- reports of children that their ingest is done, until this module's own report (R203) -/
  childDone : List (IngestKey × BitVec 14)
  wloadStatus : BitVec 64
  /-- MODEL_ID of the last ingest, which reads of WLOAD_STATUS return (Table 8-11a) -/
  wloadModel : Bytes
  mirrorStep : BitVec 64
  mirrorState : BitVec 8
  /-- KV pages and SUSPEND pages changed in the current step and in the last one -/
  changed : List (BitVec 64)
  lastChanged : List (BitVec 64)
  mirrorWait : Bool
  /-- the committed step whose header has gone to the partner and is not acknowledged (R195) -/
  mirrorDue : Option (BitVec 64)
  /-- K and U have been sent to the partner, and the pools copied once (R194) -/
  mirrorBegun : Bool
  /-- K and U that the source of the MIRROR region has sent (R194) -/
  mirrorK : Nat
  mirrorU : Nat
  vc2 : Vc2
  -- VC0 transfers received and not yet taken by their DRCV: cell, tag, transfer number, granule, data
  vc0In : List (BitVec 8 × BitVec 16 × Nat × BitVec 12 × Granule)
  /-- VC0 transfers received, verified or not, in order: cell, tag and Heel time (R124, R148, R241) -/
  rxKth : List ((BitVec 8 × BitVec 16) × BitVec 64)
  /-- the last ten samples of attributed power, the newest first (R19) -/
  attributed : List (BitVec 32)
  /-- the tenant's diagnostic selection (R285, Table 12-13) -/
  diagSel : BitVec 64
  /-- a self-test has ended the diagnostic view of the frozen cells (Table 10-7) -/
  diagLost : Bool
  deriving DecidableEq, Repr

def Barrier.none : Barrier := ⟨Option.none, 0, [], false, Option.none, 0, false⟩

def Vc2.start : Vc2 := ⟨0, 0, 0, 0, true, [], [], 0, [], [], []⟩

def Keys.none : Keys := ⟨#v[Option.none, Option.none], false, Option.none, Vector.replicate 2 (Vector.replicate 4 0), Option.none, #v[Option.none, Option.none], false, 0, [], [], 0, Option.none⟩

/-- A partition in the cold state (R273, R351): OFF, no plan, job IDLE. -/
def Partition.cold : Partition where
  cyc := 0
  front := false
  pendFaults := []
  doneWrites := []
  written := []
  hold := none
  govHold := false
  govMarks := []
  frozen := none
  running := false
  holdStep := 0
  holdItem := 0
  holdGov := 0
  holdLast := 0
  holdTotal := 0
  sf := 0
  poisoned := false
  restoreFailed := false
  stampBad := false
  partState := 0
  fenced := false
  fenceBits := 0
  scrubs := []
  scrubCols := 0
  keys := Keys.none
  runPlan := none
  loadedPlan := none
  oldPlan := none
  loadStatus := 0xFF
  loadWhere := 0
  load := none
  jobState := 0
  stepNow := BitVec.allOnes 64
  stepCommitted := BitVec.allOnes 64
  stopInfo := 0
  barIgnored := 0
  barLate := 0
  startWritten := 0
  starting := false
  releaseHt := 0
  startHt := 0
  variant := 0
  hooks := []
  barrier := Barrier.none
  early := Barrier.none
  waiting := []
  adopted := []
  upBackup := false
  reported := []
  images := []
  log := []
  stopDelay := 0
  rampSteps := 0
  prevBoundary := 0
  kennel := Kennel.cold
  slotState := #v[0, 0]
  slotBad := #v[false, false]
  swaps := []
  ingests := []
  failedIngests := []
  waitFeeds := []
  childDone := []
  wloadStatus := 0
  wloadModel := []
  mirrorStep := BitVec.allOnes 64
  mirrorState := 0
  changed := []
  lastChanged := []
  mirrorWait := false
  mirrorDue := Option.none
  mirrorBegun := false
  mirrorK := 0
  mirrorU := 0
  vc2 := Vc2.start
  vc0In := []
  rxKth := []
  attributed := []
  diagSel := 0
  diagLost := false

end Sys2Proof.Machine
end

