-- ==== Sys2Proof/Machine/State.lean ====
section
/-!
DEFINITION. The state of one module, as plain data, and `State.reset`: the module at the end of its first start (R351, Table 15-4).
-/

namespace Sys2Proof.Machine

/-- Why a step stops: nothing stops this module. An illegal instruction has an undefined result (R9), which is a free value, and every other
command has its effect or none. -/
inductive Fault where
  deriving DecidableEq, Repr

/-- Why a command is refused. -/
inductive Refusal where
  /-- A command without a meaning yet, by its mnemonic. Raised by Dispatch only. Safe. -/
  | notModelled (mnemonic : String)
  deriving DecidableEq, Repr

/-- The state of the module. -/
structure State where
  /-- commands that wait, first in, first out -/
  pending : List Instr
  partNo : PartNo
  /-- time since the last rise of PWR_GOOD, in 2^-16 ns -/
  up : Nat
  heel : Heel
  start : Start
  pins : Pins
  power : Power
  post : Post
  fw : Firmware
  /-- values of staged objects that a commit has set, by rising key; an absent object holds its default -/
  dict : List (Nat × Bytes)
  faults : Faults
  sessions : List Session
  handshakes : List Handshake
  orphans : List OrphanCommit
  /-- last SID given, number of checks completed -/
  lastSid : BitVec 32
  checks : Nat
  authFail : BitVec 64
  /-- mailboxes: physical function of link 0 and 1, then virtual functions 0 to 15 -/
  mailboxes : Vector Mailbox 18
  /-- notices raised while no subscriber exists (R307) -/
  unheard : List Notice
  /-- NOTICE_LOST (R307) -/
  noticeLost : BitVec 64
  openReports : List OpenReport
  /-- peer reports received (R269) -/
  peerSeen : BitVec 64
  selfVerdict : BitVec 8
  selfTime : BitVec 64
  scentKey : BitVec 128
  scentCtr : BitVec 128
  diagSel : BitVec 64
  corrected : BitVec 64
  uncorrected : BitVec 64
  /-- next frame of patrol scrub of each HBM3E pseudo-channel and LPDDR5X channel -/
  patrolHbm : Vector (BitVec 16) 256
  patrolLp : Vector (BitVec 16) 96
  parts : Vector Partition 16
  cells : Vector Cell 192
  ports : Vector Port 24
  msgs : List RxMsg
  /-- memory of both tiers by physical address -/
  mem : Memory
  /-- granules that hold an uncorrectable error, by physical address -/
  damaged : List Nat
  /-- draws taken from the entropy source -/
  draws : Nat
  /-- MODEL'S OWN (log 5): number of the next free value -/
  free : Nat
  /-- what has left the module, the oldest first -/
  out : List Out
  deriving DecidableEq, Repr

/-- The interfaces of the images at first shipment (Table 14-5). -/
def factoryIfs (kind : Nat) : List IfEntry :=
  let offer (i : BitVec 16) : IfEntry := ⟨i, false, false, 1, 0⟩
  let need (i : BitVec 16) (opt : Bool) : IfEntry := ⟨i, true, opt, 1, 0⟩
  match kind with
  | 1 => [need 1 false, need 2 false, need 3 false, need 4 true, need 5 false, offer 7, offer 8]
  | 2 => [offer 1, offer 6]
  | 3 => [offer 2]
  | 4 => [offer 3]
  | 5 => [offer 4]
  | _ => [offer 5]

/-- DESIGN CHOICE (log 10): release 1.0.0, SVN 0, for every part number. -/
def factoryImage (i : Fin 6) : Image :=
  ⟨BitVec.ofNat 8 (i.val + 1), 7, 1, 0, 0, 0, 0, factoryIfs (i.val + 1), Config.factoryDigest i, true⟩

/-- The selector record of a factory image. -/
def factorySelector (i : Fin 6) : Selector := ⟨BitVec.ofNat 8 (i.val + 1), false, 0, Config.factoryDigest i, true⟩

/-- DESIGN CHOICE (log 10): bank A holds the factory images, bank B is empty, GENERATION 0, nothing fused, one start made. -/
def Firmware.factory : Firmware where
  banks := Vector.ofFn fun i => ⟨some (factoryImage i), none, factorySelector i, factorySelector i⟩
  crate := Crate.empty
  actResult := 0
  bootCount := 1
  svnFused := Vector.replicate 6 0
  revoked := 0
  probation := none

/-- A module in READY after a power-up. DESIGN CHOICE (log 1): log of the start all zero. -/
def Start.ready : Start := ⟨5, 0, Vector.replicate 6 0, false, none, false, 0, RomRead.clean⟩

/-- Pins of a running module; straps open (log 1). -/
def Pins.running : Pins := ⟨true, true, true, true, true, true, 0x3F, true, false⟩

/-- The module after reset: the READY cold state of R351 on a CLR-KRG-192X (log 1). -/
def State.reset : State where
  pending := []
  partNo := .x192
  up := 0
  heel := Heel.cold
  start := Start.ready
  pins := Pins.running
  power := Power.cold
  post := Post.clean
  fw := Firmware.factory
  dict := []
  faults := Faults.cold
  sessions := []
  handshakes := []
  orphans := []
  lastSid := 0
  checks := 0
  authFail := 0
  mailboxes := Vector.replicate 18 Mailbox.cold
  unheard := []
  noticeLost := 0
  openReports := []
  peerSeen := 0
  selfVerdict := 0
  selfTime := 0
  scentKey := 0
  scentCtr := 0
  diagSel := 0
  corrected := 0
  uncorrected := 0
  patrolHbm := Vector.replicate 256 0
  patrolLp := Vector.replicate 96 0
  parts := Vector.replicate 16 Partition.cold
  cells := Vector.replicate 192 Cell.cold
  ports := Vector.replicate 24 Port.cold
  msgs := []
  mem := []
  damaged := []
  draws := 0
  free := 0
  out := []

end Sys2Proof.Machine
end

