-- ==== Sys2Proof/Machine/Ops.lean ====
section
/-!
DEFINITION. Named operations over the state of the module: parts of it by index, objects of the dictionary, time, free values, outputs,
and what the part number fixes (Table 0-1).
-/

namespace Sys2Proof.Machine

/-! Parts of the state -/

def State.part (s : State) (p : PartIx) : Partition := s.parts[p]
def State.setPart (s : State) (p : PartIx) (x : Partition) : State := { s with parts := s.parts.set p x }
def State.modPart (s : State) (p : PartIx) (f : Partition → Partition) : State := s.setPart p (f (s.part p))
def State.cell (s : State) (c : CellRef) : Cell := s.cells[c.ix]
def State.setCell (s : State) (c : CellRef) (x : Cell) : State := { s with cells := s.cells.set c.ix x }
def State.modCell (s : State) (c : CellRef) (f : Cell → Cell) : State := s.setCell c (f (s.cell c))
def State.port (s : State) (n : PortIx) : Port := s.ports[n]
def State.setPort (s : State) (n : PortIx) (x : Port) : State := { s with ports := s.ports.set n x }
def State.modPort (s : State) (n : PortIx) (f : Port → Port) : State := s.setPort n (f (s.port n))

/-- Something leaves the module. -/
def State.emit (s : State) (o : Out) : State := { s with out := s.out ++ [o] }

/-- The next free value of `w` bits (log 5). -/
def State.draw (s : State) (w : Nat) : BitVec w × State := (Config.freeValue w s.free, { s with free := s.free + 1 })

/-- The next draw of the entropy source. -/
def State.entropy (s : State) : Nat × State := (s.draws, { s with draws := s.draws + 1 })

/-- A record from its fields, (width, value), the lowest first. -/
def packFields : List (Nat × Nat) → Nat
  | [] => 0
  | f :: fs => f.2 % 2 ^ f.1 + 2 ^ f.1 * packFields fs

/-! The part number (R1, Tables 0-1 and 0-2) -/

def PartNo.cols : PartNo → Nat
  | .s096 => 8
  | _ => 16

def PartNo.ports : PartNo → Nat
  | .s096 => 12
  | _ => 24

def PartNo.partitions : PartNo → Nat
  | .s096 => 8
  | _ => 16

def PartNo.stacks : PartNo → Nat
  | .s096 => 4
  | _ => 8

/-- LPDDR5X channels per column-share. -/
def PartNo.lpShare : PartNo → Nat
  | .x192 => 6
  | .l192 => 3
  | .s096 => 4

/-- 0x1030.01. -/
def PartNo.features : PartNo → BitVec 64
  | .x192 => 0x00007FFFFFFFFFFF
  | .l192 => 0x00007CFC003FFFFF
  | .s096 => 0x00003C1C0003FC3D

/-- Bark capacity in streams (0x5000.04): 2,048 for each unit fitted. -/
def PartNo.bark : PartNo → Nat
  | .x192 => 4096
  | _ => 0

/-- FSW bits that the part number has (R3); 63 and 36 to 49 always. -/
def PartNo.fswBit (n : PartNo) (b : Nat) : Bool :=
  match n with
  | .x192 => true
  | .l192 => !(decide (27 ≤ b ∧ b ≤ 29) || decide (40 ≤ b ∧ b ≤ 41))
  | .s096 => !(decide (8 ≤ b ∧ b ≤ 15) || decide (20 ≤ b ∧ b ≤ 23) || decide (26 ≤ b ∧ b ≤ 29) || decide (33 ≤ b ∧ b ≤ 35)
      || decide (40 ≤ b ∧ b ≤ 41))

/-- A KIND of image that the part number has (Table 14-1). -/
def PartNo.kind (n : PartNo) (k : Nat) : Bool := decide (1 ≤ k ∧ k ≤ 6) && (k != 5 || n == .x192)

/-- Bit of a part number in PARTS (Table 14-3). -/
def PartNo.bit : PartNo → Nat
  | .x192 => 0
  | .l192 => 1
  | .s096 => 2

/-- Entry of the harvest map: [3:0] x, [7:4] y, [8] the die, which columns 8 to 15 make 1 (R141). -/
def harvestOf (v : Fin 192) : BitVec 9 :=
  BitVec.ofNat 9 (packFields [(4, (Config.harvest v).1.val), (4, (Config.harvest v).2.val), (1, v.val % 16 / 8)])

/-! The dictionary -/

/-- Committed value of an object: the one a commit has set, else its default. -/
def State.obj (s : State) (index sub : Nat) : Bytes :=
  match s.dict.find? fun e => e.1 == objKey index sub with
  | some e => e.2
  | none => objDefault (objKey index sub)

/-- Committed value as a number. -/
def State.num (s : State) (index sub : Nat) : Nat := leNat (s.obj index sub)

/-- Object of a partition. -/
def State.pobj (s : State) (p : PartIx) (sub : Nat) : Bytes := s.obj (0x2000 + p.val) sub
def State.pnum (s : State) (p : PartIx) (sub : Nat) : Nat := s.num (0x2000 + p.val) sub

/-- Insert a value by rising key. -/
def dictSet (k : Nat) (v : Bytes) : List (Nat × Bytes) → List (Nat × Bytes)
  | [] => [(k, v)]
  | e :: es => if k < e.1 then (k, v) :: e :: es else if k = e.1 then (k, v) :: es else e :: dictSet k v es

def State.setObj (s : State) (index sub : Nat) (v : Bytes) : State := { s with dict := dictSet (objKey index sub) v s.dict }

/-! Partitions and their columns (R273) -/

/-- The partition owns virtual column `c`. -/
def State.ownsCol (s : State) (p : PartIx) (c : Nat) : Bool := (s.pnum p 1).testBit c

def State.colsOf (s : State) (p : PartIx) : List (Fin 16) := (List.finRange 16).filter fun c => s.ownsCol p c.val

/-- The partition that a cell belongs to. -/
def State.owner (s : State) (c : Fin 16) : Option PartIx := (List.finRange 16).find? fun p => s.ownsCol p c.val

/-- Cells of a partition in ascending column, row (R49). -/
def State.cellsOf (s : State) (p : PartIx) : List CellRef :=
  (s.colsOf p).flatMap fun c => (List.finRange 12).map fun r => ⟨r, c⟩

/-- Apply a function to every cell of a partition. -/
def State.modCells (s : State) (p : PartIx) (f : CellRef → Cell → Cell) : State :=
  (s.cellsOf p).foldl (fun s c => s.modCell c (f c)) s

/-- Another plan runs in the partition's cells: no line of the former one stays (R43). -/
def State.newCode (s : State) (p : PartIx) : State := s.modCells p fun _ c => c.dropLines

/-- JOB_STATE is STARTING, RUNNING or REPLAYING. -/
def Partition.busy (x : Partition) : Bool := x.jobState == 1 || x.jobState == 2 || x.jobState == 4

/-- Between the commit of a step and the release of the next one (R319). -/
def Partition.between (x : Partition) : Bool := match x.barrier.release with
  | some r => !r.stop
  | none => false

/-- The barrier that is being gathered: the next step's, once the current step has been committed (R319). -/
def Partition.bar (x : Partition) : Barrier := if x.between then x.early else x.barrier

/-- The barrier that is being gathered, changed. -/
def Partition.modBar (x : Partition) (f : Barrier → Barrier) : Partition :=
  if x.between then { x with early := f x.early } else { x with barrier := f x.barrier }

/-- JOB_TAG. -/
def State.jobTag (s : State) (p : PartIx) : BitVec 32 := BitVec.ofNat 32 (s.pnum p 0x70)

/-- The partition whose JOB_TAG is `j`. -/
def State.ofJob (s : State) (j : BitVec 32) : Option PartIx :=
  if j = 0 then none else (List.finRange 16).find? fun p => s.jobTag p == j

/-- NDEV, SELF and VC0 slot base of the pack map (R144). -/
def State.packMap (s : State) (p : PartIx) (lo n : Nat) : Nat := recField (s.pobj p 0x31) lo n
def State.self (s : State) (p : PartIx) : BitVec 14 := BitVec.ofNat 14 (s.packMap p 16 14)

/-! Time (R243, R244, R247; log 2) -/

/-- Nanoseconds since the last rise of PWR_GOOD. -/
def State.ns (s : State) : BitVec 64 := BitVec.ofNat 64 (s.up / 65536)

/-- What rate changes take off the remaining offset in `d` ht: at most 300 ppm of it (R247). -/
def slewOf (slew : BitVec 64) (d : Nat) : BitVec 64 :=
  let most := d * 3 / 10000
  let n := slew.toInt
  if n.natAbs ≤ most then slew else if n < 0 then - BitVec.ofNat 64 most else BitVec.ofNat 64 most

/-- The rate that HOLDOVER keeps over `d` ht, in parts of 300 ppm (R247). -/
def drift (r : Int) (d : Nat) : Int := r * (d * 3 / 10000 : Nat)

/-- Heel time after `d` ht, with the epoch counting its wraps. -/
def Heel.pass (h : Heel) (d : Nat) : Heel :=
  if h.state = 0 then h
  else
    let a := slewOf h.slew d
    let g := a.toInt + drift h.holdRate d
    let t := h.now.toNat + d + g.toNat - (-g).toNat
    { h with now := BitVec.ofNat 64 t, slew := h.slew - a, epoch := h.epoch + BitVec.ofNat 32 (t / 2 ^ 64) }

/-- The shortest time of the module's own clock in which Heel time gains `d` ht: the inverse of what `Heel.pass` adds. -/
def Heel.span (h : Heel) (d : Nat) : Nat :=
  let fast := (10000 * d + 10002) / 10003
  let slow := if d = 0 then 0 else 10000 * (d - 1) / 9997 + 1
  let n := h.slew.toInt
  if 0 < h.holdRate then fast
  else if h.holdRate < 0 then slow
  else if 0 ≤ n then max (d - n.toNat) fast
  else min (d + (-n).toNat) slow

/-- Time passes. -/
def State.pass (s : State) (d : Nat) : State := { s with up := s.up + d, heel := s.heel.pass d }

/-- Time passes until `up` reaches `t`, if it lies ahead. -/
def State.passTo (s : State) (t : Nat) : State := s.pass (t - s.up)

/-- Time passes until Heel time `t`, if it lies ahead modulo 2^64 (R244). -/
def State.passToHeel (s : State) (t : BitVec 64) : State :=
  let d := t - s.heel.now
  if s.heel.state ≠ 0 ∧ d.toNat < 2 ^ 63 then s.pass (s.heel.span d.toNat) else s

/-- HEEL_NOW: 0 while UNSYNCED (R243). -/
def State.heelNow (s : State) : BitVec 64 := if s.heel.state = 0 then 0 else s.heel.now

/-- Heel time `t` is later than `u` (R244). -/
def later (t u : BitVec 64) : Bool := let d := (t - u).toNat; decide (1 ≤ d ∧ d < 2 ^ 63)

/-- On an empty queue one nanosecond passes, unless the module has no power (log 2). -/
def State.idle (s : State) : State := if s.pins.pwrGood then s.pass 65536 else s

/-- Outcome of a command that has its effect. -/
def done (s : State) : Host.Outcome State Fault Refusal := .next s

/-! Counters -/

/-- One more, saturating. -/
def satInc {w : Nat} (x : BitVec w) : BitVec w := if x = BitVec.allOnes w then x else x + 1

/-! CRC of flits (R208): ECMA-182, initial value all ones, most significant bit first, inverted -/

def crcBit (c : BitVec 64) (b : Bool) : BitVec 64 :=
  let t := c.getLsbD 63 != b
  if t then (c <<< 1) ^^^ 0x42F0E1EBA9EA3693 else c <<< 1

def crcByte (c : BitVec 64) (b : Byte) : BitVec 64 :=
  [7, 6, 5, 4, 3, 2, 1, 0].foldl (fun c i => crcBit c (b.getLsbD i)) c

def crc64 (bs : Bytes) : BitVec 64 := ~~~(bs.foldl crcByte (BitVec.allOnes 64))

/-- The 248 bytes of a data flit before its CRC (Table 9-1). -/
def flitBytes (f : Flit) : Bytes :=
  let hd : BitVec 96 :=
    (0 : BitVec 13) ++ BitVec.ofBool f.kph ++ BitVec.ofBool f.last ++ f.dst ++ f.off ++ f.tag ++ f.len ++ f.owner ++ f.sqn ++ f.vc ++ f.ft
  leBytes 12 hd.toNat ++ f.payload.take 236 ++ List.replicate (236 - f.payload.length) 0

/-- The 56 bytes of a short flit before its CRC (Table 9-2). -/
def ShortFlit.bytes (f : ShortFlit) (sqn : BitVec 20) : Bytes :=
  let hd : BitVec 64 := (0 : BitVec 3) ++ f.dst ++ f.src ++ BitVec.ofBool f.module ++ f.owner ++ sqn ++ BitVec.ofBool f.sqd ++ f.item
  leBytes 8 hd.toNat ++ f.body.take 48 ++ List.replicate (48 - f.body.length) 0

/-- Bark units that serve the partition. -/
def State.barkUnits (s : State) (p : PartIx) : List (Fin 2) :=
  if s.pnum p 0x47 = 0 ∨ s.partNo.bark = 0 then [] else [0, 1]

/-- The module runs: PWR_GOOD is high and the start has reached READY (R346, R349). -/
def State.isReady (s : State) : Bool := s.pins.pwrGood && s.start.stage == 5

/-! PCIe (R276, R280, R356) -/

/-- Bool as an index of two. -/
def two (b : Bool) : Fin 2 := if b then 1 else 0

/-- The link of a partition's function: PART_LINK. -/
def State.linkOf (s : State) (p : PartIx) : Fin 2 := two (s.pnum p 3 == 1)

/-- A PCIe link is trained. -/
def State.pcieUp (s : State) (l : Fin 2) : Bool := s.power.pcie[l] != 0

/-- A link is trained, and no uncorrectable TLP error has stopped its functions (Table 13-3). -/
def State.serves (s : State) (l : Fin 2) : Bool := s.pcieUp l && !s.power.dead.getLsbD l.val

/-- The function's IDE stream has its active key set. -/
def State.ideKeyed (s : State) (p : PartIx) : Bool := let k := (s.part p).keys; k.ideSet[two k.ideActive].isSome

/-- A request of the host to function `p` is one that the function takes: the module runs, the function exists and is carried by that link, and
the request comes in its keyed IDE stream, or in clear with IDE_REQ = 0. -/
def State.takes (s : State) (p : PartIx) (via : Tlp) : Bool :=
  s.isReady && decide (p.val < s.partNo.partitions) && via.link == s.linkOf p && s.serves via.link
    && (if via.ide then s.ideKeyed p else s.pnum p 4 == 0)

/-- Something goes to the host over a link; it is lost while the link is down (R357). -/
def State.toLink (s : State) (l : Fin 2) (o : Out) : State := if s.pcieUp l then s.emit o else s

/-- A write request of the host: its effect `t`, or Unsupported Request, which leaves the module as it is (R280, R349, R356); over a link that
does not serve, neither. -/
def State.hostTakes (s : State) (p : PartIx) (via : Tlp) (t : State) : State :=
  if s.takes p via then t else if s.serves via.link then s.emit (.unsupported via.link (some p)) else s

/-- Some request of the host reaches function `p`. -/
def State.hasFunction (s : State) (p : PartIx) : Bool := [false, true].any fun ide => s.takes p ⟨s.linkOf p, ide⟩

/-- The physical function of a link answers: in READY, and in Pup mode by its mailbox (R339, R349, R356). -/
def State.hasPhysical (s : State) (l : Fin 2) : Bool :=
  s.pins.pwrGood && (s.start.stage == 5 || s.start.stage == 7) && (l.val == 0 || !s.pins.bifurN) && s.serves l

/-- Bytes written to host memory by function `p`, in its IDE stream once that is keyed. -/
def State.writeHost (s : State) (p : PartIx) (addr : BitVec 64) (data : Bytes) : State :=
  s.toLink (s.linkOf p) (.hostWrite (s.linkOf p) p (s.ideKeyed p) addr data)

/-- An interrupt of function `p`. -/
def State.interrupt (s : State) (p : PartIx) (vector : BitVec 2) : State :=
  s.toLink (s.linkOf p) (.msix (s.linkOf p) (some p) vector)

/-- An interrupt of the physical function of each link. -/
def State.pfInterrupt (s : State) (vector : BitVec 2) : State :=
  let s := s.toLink 0 (.msix 0 none vector)
  if s.pins.bifurN then s else s.toLink 1 (.msix 1 none vector)

end Sys2Proof.Machine
end

