-- ==== Sys2Proof/Machine/Frames.lean ====
section
/-!
DEFINITION. Basnus frames as they leave the module (R290, R293, R308): header, tag, addresses and next hop of the management ports; notices to
subscribers (R307).
-/

namespace Sys2Proof.Machine

/-! Frames (R290) -/

abbrev Status := BitVec 8

/-- The 32-byte header (Table 12-3). -/
def frameHeader (f : Frame) : Bytes :=
  leBytes 32 (packFields [(16, f.magic.toNat), (8, f.ver.toNat), (8, f.kind.toNat), (32, f.sid.toNat), (64, f.seq.toNat),
    (8, f.op.toNat), (8, f.status.toNat), (16, f.index.toNat), (8, f.sub.toNat), (1, f.more.toNat), (1, f.staged.toNat),
    (6, f.rsvd.toNat), (32, f.offset.toNat), (16, f.len.toNat), (32, f.total.toNat)])

/-- Tag of a frame under a direction key (R293). -/
def frameTag (key : BitVec 256) (f : Frame) : Bytes :=
  leBytes 32 (Config.kmac256 (leBytes 32 key.toNat) (frameHeader f ++ f.data) 256 "CLR BASNUS FRAME").toNat

/-- LEN's limit by path (Table 12-3). -/
def pathCap : Path → Nat
  | .mgmt _ => 1376
  | _ => 4032

/-- A frame of the module. -/
def moduleFrame (path : Path) (kind : BitVec 8) (sid : BitVec 32) (sqn : BitVec 64) (op : BitVec 8) (status : Status)
    (index : BitVec 16) (sub : BitVec 8) (more : Bool) (offset : Nat) (total : Nat) (data : Bytes) : Frame :=
  ⟨path, 0x4253, 1, kind, sid, sqn, op, status, index, sub, more, false, 0, BitVec.ofNat 32 offset, BitVec.ofNat 16 data.length,
    BitVec.ofNat 32 total, data, List.replicate 32 0, []⟩

/-! Addresses of the management ports (R308) -/

/-- Link-local address of a port: modified EUI-64 of its MAC; byte 0 is the first on the wire. -/
def linkLocal (port : Fin 2) : Bytes :=
  let m := leBytes 6 (Config.mac port).toNat
  [0xFE, 0x80, 0, 0, 0, 0, 0, 0] ++ (m.take 1).map (· ^^^ 2) ++ (m.drop 1).take 2 ++ [0xFF, 0xFE] ++ m.drop 3

/-- A port's global address, where it has one. -/
def State.globalAddr (s : State) (port : Fin 2) : Option Bytes :=
  let own := s.obj 0x1060 (3 + port.val)
  if own.any (· != 0) then some own else none

/-- The port answers on an address, its 16 bytes with the first on the wire lowest: in READY the global and the link-local one, in Pup mode the
link-local one (R308, R339). -/
def State.answersOn (s : State) (port : Fin 2) (a : BitVec 128) : Bool :=
  let b := leBytes 16 a.toNat
  s.pins.pwrGood && ((s.start.stage == 5 && s.globalAddr port == some b) || ((s.start.stage == 5 || s.start.stage == 7) && b == linkLocal port))

/-- A frame reaches the dictionary: a datagram is for an address of its port, and for the Basnus port; a mailbox's function is there and
requests of the host reach it (R276, R280, R356). -/
def State.hears (s : State) : Path → Bool
  | .mgmt u => s.answersOn u.port u.dst && u.udp == 46174
  | .pf l => s.hasPhysical l
  | .vf p => s.hasFunction p

/-- The first `n` bits of an address, the first byte on the wire the most significant. -/
def addrBits (b : Bytes) (n : Nat) : Nat := leNat b.reverse / 2 ^ (128 - n)

/-- An address on the link of a port: link-local, or under the prefix of the port's global address. -/
def State.onLink (s : State) (port : Fin 2) (a : BitVec 128) : Bool :=
  let b := leBytes 16 a.toNat
  addrBits b 10 == 0x3FA || (match s.globalAddr port with
    | some own => addrBits b (s.num 0x1060 5) == addrBits own (s.num 0x1060 5)
    | none => false)

/-- Where a packet for an address goes next: there, or to MGMT_ROUTER, if one is set. -/
def State.nextHop (s : State) (port : Fin 2) (a : BitVec 128) : Option (BitVec 128) :=
  if s.onLink port a then some a
  else
    let r := s.obj 0x1060 6
    if r.any (· != 0) then some (BitVec.ofNat 128 (leNat r)) else none

/-- A frame leaves: by a mailbox's buffer, or as a datagram over the next hop, if there is one. -/
def State.emitFrame (s : State) (f : Frame) : State :=
  match f.path with
  | .mgmt u => match s.nextHop u.port u.peer with
    | some h => s.emit (.frame (some h) f)
    | none => s
  | _ => s.emit (.frame none f)

/-! Notices (R307) -/

/-- The NOTICE frame of a notice: KIND 0x12, its 8-byte head, the body. -/
def Session.noticeFrame (x : Session) (path : Path) (n : Notice) : Frame :=
  let body := leBytes 8 n.kind.toNat ++ n.body
  let f := moduleFrame path 0x12 x.sid n.seq 0 0 0 0 false 0 body.length body
  { f with tag := frameTag x.km f }

/-- A notice goes to a subscriber: over UDP on both management ports. -/
def State.sendNotice (s : State) (x : Session) (n : Notice) : State :=
  match x.path with
  | .mgmt u => (s.emitFrame (x.noticeFrame (.mgmt { u with port := 0 }) n)).emitFrame (x.noticeFrame (.mgmt { u with port := 1 }) n)
  | p => s.emitFrame (x.noticeFrame p n)

/-- Keep at most 256, dropping the oldest. -/
def keepNotices (l : List Notice) : List Notice := l.drop (l.length - 256)

/-- A notice reaches every subscriber, or waits for the first one; every one dropped counts. DEDUCED (log 79): NOTICE_LOST is one count of the
module. -/
def State.notify (s : State) (kind : BitVec 16) (body : Bytes) : State :=
  if s.sessions.any (·.notify) then
    let s := s.sessions.foldl (fun s x => if x.notify then s.sendNotice x ⟨x.noticeSeq + 1, kind, body⟩ else s) s
    let lost := s.sessions.foldl (fun a x => if x.notify then a + (x.notices.length - 255) else a) 0
    { s with
      noticeLost := s.noticeLost + BitVec.ofNat 64 lost
      sessions := s.sessions.map fun x =>
        if x.notify then
          { x with noticeSeq := x.noticeSeq + 1, notices := keepNotices (x.notices ++ [⟨x.noticeSeq + 1, kind, body⟩]) }
        else x }
  else { s with
    noticeLost := s.noticeLost + BitVec.ofNat 64 (s.unheard.length - 255), unheard := keepNotices (s.unheard ++ [⟨0, kind, body⟩]) }

end Sys2Proof.Machine
end

