-- ==== Sys2Proof/Machine/Faults.lean ====
section
/-!
DEFINITION. The fault collector's shared operations (13): latching (R314, R315), causes (Table 13-3), views (R299),
schedule-fault records (R49, R316), freezes.
-/

namespace Sys2Proof.Machine

/-! Resources of a partition (R180, R213) -/

/-- `p` holds a pseudo-channel of stack `k`. -/
def State.onStack (s : State) (p : PartIx) (k : Nat) : Bool := (s.colsOf p).any fun c => c.val / 8 == k / 4

/-- `p` holds an LPDDR5X channel of group `k`. -/
def State.onGroup (s : State) (p : PartIx) (k : Nat) : Bool :=
  let n := s.partNo.lpShare
  (s.colsOf p).any fun c => decide (n * c.val / 16 = k) || decide ((n * c.val + n - 1) / 16 = k)

/-- Owner entry `i` of a port (Table 9-4): KIND, PART, BASE, COUNT with 0 as 65,536, JOB. -/
structure Owner where
  kind : Nat
  part : Nat
  base : Nat
  count : Nat
  job : BitVec 32
  deriving DecidableEq, Repr

/-- The range of an entry holds a position; COUNT 0 is the whole wheel, whatever BASE (R213). -/
def Owner.holds (o : Owner) (pos : Nat) : Bool := o.count == 65536 || decide (o.base ≤ pos ∧ pos < o.base + o.count)

/-- One entry of a PORT_OWNERS value. -/
def ownerOf (v : Bytes) (i : Nat) : Owner :=
  let e := (v.drop (16 * i)).take 16
  let c := recField e 32 16
  ⟨recField e 0 2, recField e 2 4, recField e 16 16, if c = 0 then 65536 else c, BitVec.ofNat 32 (recField e 48 32)⟩

def State.owners (s : State) (n : PortIx) : List Owner := (List.range 8).map (ownerOf (s.obj (0x3000 + n.val) 0x10))

/-- `p` holds an owner entry on port `n`. -/
def State.onPort (s : State) (p : PartIx) (n : PortIx) : Bool :=
  (s.owners n).any fun o => o.kind == 1 && o.part == p.val

/-- `p` holds an owner entry on a port of optical engine `e`. -/
def State.onOe (s : State) (p : PartIx) (e : Nat) : Bool :=
  (List.finRange 24).any fun n => n.val / 4 == e && s.onPort p n

/-- The bit is shown to partition `p` in FSW_VIEW (R299). -/
def State.shows (s : State) (p : PartIx) (b : Nat) : Bool :=
  if b < 16 then s.ownsCol p b
  else if b < 24 then s.onStack p (b - 16)
  else if b < 30 then s.onGroup p (b - 24)
  else if b < 36 then s.onOe p (b - 30)
  else if b = 48 then (s.part p).sf.getLsbD 0
  else decide (b ≤ 49) || b == 63

/-- A word through the mask of R299. -/
def State.view (s : State) (p : PartIx) (w : BitVec 64) : BitVec 64 :=
  BitVec.ofNat 64 ((List.range 64).foldl (fun a b => if w.getLsbD b && s.shows p b then a + 2 ^ b else a) 0)

/-! Causes (Table 13-3) -/

/-- The cause of a bit is present now. -/
def State.causeOf (s : State) (b : Nat) : Bool :=
  s.faults.persist.getLsbD b ||
    (if b < 16 then (List.finRange 16).any fun p => s.ownsCol p b && (match (s.part p).frozen with
        | some f => f.why == .holdLimit
        | none => false)
     else if decide (30 ≤ b ∧ b < 36) then (List.finRange 24).any fun n => n.val / 4 == b - 30 && (s.port n).state == 5
     else if b = 36 then (List.finRange 2).any fun l => s.power.trained.getLsbD l.val && s.power.pcie[l] == 0
     else if b = 42 then s.heel.state == 4
     else if b = 44 then s.faults.coresDown != 0
     else if b = 46 then s.power.excursion.isSome
     else if b = 47 then s.power.warn != 0
     else if b = 48 then s.parts.toList.any fun x => x.sf.getLsbD 0
     else if b = 49 then !s.openReports.isEmpty || s.parts.toList.any fun x => x.mirrorState == 4
     else false)

/-- FSW_CAUSE. -/
def State.causes (s : State) : BitVec 64 :=
  BitVec.ofNat 64 ((List.range 50).foldl (fun a b => if s.causeOf b then a + 2 ^ b else a) 0)

/-- ESC_MAX entry of a bit. -/
def State.escMax (s : State) (b : Nat) : Nat := s.num 0x6011 1 / 4 ^ b % 4

/-- GRACE in ns. -/
def State.grace (s : State) : Nat := 1000000 * s.num 0x6010 1

/-- The fault collector latches and counts: from the beginning of stage ROM (R350). -/
def State.collects (s : State) : Bool := s.pins.pwrGood && s.start.stage != 0

/-- The grace timer of a bit runs now: bits 46 and 47 from PWR_GOOD, others from READY (R350). -/
def State.timersRun (s : State) (b : Nat) : Bool := b == 46 || b == 47 || s.start.stage == 5

/-- The timer of a newly latched bit: running for GRACE as it stands now, unless its level equals ESC_MAX (R317, R320). -/
def State.armTimer (s : State) (b : Fin 50) : State :=
  if s.faults.level[b].toNat < s.escMax b.val ∧ s.timersRun b.val then
    { s with faults := { s.faults with timer := s.faults.timer.set b (some (s.ns + BitVec.ofNat 64 s.grace)) } }
  else { s with faults := { s.faults with timer := s.faults.timer.set b none } }

/-- MSI-X vector 2 of the physical function and of the part number's virtual functions that see the bit (R322). -/
def State.faultIrq (s : State) (b : Nat) : State :=
  (List.finRange 16).foldl (fun s p => if p.val < s.partNo.partitions ∧ s.shows p b then s.interrupt p 2 else s)
    (s.pfInterrupt 2)

/-- Body of a FAULT notice (R322). -/
def State.faultBody (s : State) (b : Nat) (first : Bool) : Bytes :=
  leBytes 16 (packFields [(64, s.faults.fsw.toNat), (8, b), (1, first.toNat), (55, 0)])
    ++ (if first then leBytes 64 s.faults.firstError.toNat else [])

/-- FIRST_ERROR of an event (Table 13-4). -/
def State.firstErrorOf (s : State) (e : ErrEvent) : BitVec 512 :=
  let st : Nat := match e.part with
    | some p => (s.part p).stepNow.toNat
    | none => 2 ^ 64 - 1
  let cyc : Nat := match e.part with
    | some p => if e.master = 0 then (s.part p).cyc.toNat else 0
    | none => 0
  BitVec.ofNat 512 (packFields [(1, 1), (7, 0), (8, e.bit.val), (8, e.master.toNat), (4, e.access.toNat),
    (4, match e.part with | some p => p.val | none => 15), (8, e.inst.toNat), (24, 0), (64, e.addr.toNat),
    (64, s.heelNow.toNat), (64, s.ns.toNat), (64, st), (32, cyc), (32, e.detail.toNat), (32, e.detail2.toNat)])

/-- A latch of a bit, with its notice and interrupts. -/
def State.latchBit (s : State) (b : Fin 50) (first : Bool) : State :=
  let f := s.faults
  let s := { s with faults := { f with fsw := f.fsw ||| BitVec.twoPow 64 b.val, acked := f.acked &&& ~~~BitVec.twoPow 64 b.val } }
  let s := s.armTimer b
  (s.notify 1 (s.faultBody b.val first)).faultIrq b.val

/-- An error-line event (R314, R315, R317): counted; the first after rearming writes FIRST_ERROR; a bit not yet latched latches. -/
def State.event (s : State) (e : ErrEvent) : State :=
  if !s.partNo.fswBit e.bit.val then s
  else
    let f := s.faults
    let first := !f.firstError.getLsbD 0
    let add : BitVec 16 := match e.part with
      | some p => BitVec.twoPow 16 p.val
      | none =>
        if e.bit.val = 36 then BitVec.ofNat 16 ((List.range 16).foldl (fun a p =>
          if s.num (0x2000 + p) 3 = e.inst.toNat then a + 2 ^ p else a) 0)
        else if e.whole then BitVec.allOnes 16 else 0
    let old := f.scope[e.bit]
    let latched := f.fsw.getLsbD e.bit.val
    let s := { s with faults := { f with
      counts := f.counts.set e.bit (satInc f.counts[e.bit])
      firstError := if first then s.firstErrorOf e else f.firstError
      persist := if e.persists then f.persist ||| BitVec.twoPow 64 e.bit.val else f.persist
      scope := f.scope.set e.bit ((if latched then old else 0) ||| add) } }
    if latched then s else s.latchBit e.bit first

/-- A partition has columns on both tensor dies, and so pages on both. -/
def State.bothDies (s : State) (p : PartIx) : Bool :=
  (s.colsOf p).any (fun c => decide (c.val < 8)) && (s.colsOf p).any fun c => decide (8 ≤ c.val)

/-- An event with the fields that most sources leave at 0. -/
def ErrEvent.of (bit : Fin 50) (master : BitVec 8) (access : BitVec 4) (part : Option PartIx) (inst : BitVec 8) : ErrEvent :=
  ⟨bit, false, master, access, part, inst, 0, 0, 0, false, 0⟩

/-- FSW bit of a virtual column. -/
def colBit (c : Fin 16) : Fin 50 := ⟨c.val, by omega⟩

/-- FSW bit of a port's optical engine. -/
def portBit (n : PortIx) : Fin 50 := ⟨30 + n.val / 4, by omega⟩

/-! Freezes and schedule-fault records -/

/-- Every cell of a partition stands still from here on (R49, R127, R319). -/
def Partition.freeze (x : Partition) (why : FreezeWhy) : Partition :=
  if x.frozen.isSome then x else { x with frozen := some ⟨why, x.cyc⟩, hold := none }

/-- Register file code and number of an operand (Table 13-5). -/
def RegName.code : RegName → Nat × Nat
  | .v i => (0, i.toNat)
  | .s i => (1, i.toNat)
  | .p i => (2, i.toNat)
  | .m i => (3, i.toNat)
  | .a i => (4, i.toNat)
  | .wb i => (5, i.toNat)
  | .pal i => (6, i.toNat)

/-- OPTYPE and OPERAND. -/
def Operand.code : Operand → Nat × Nat
  | .reg r => (0, 4096 * r.code.1 + r.code.2)
  | .queue q => (1, match q with | .n => 0 | .e => 1 | .s => 2 | .w => 3)
  | .granule g => (2, g.toNat)
  | .tally t => (3, t.toNat)
  | .bank b => (4, b.toNat)
  | .port k => (5, match k with | .weight => 0 | .drain => 1 | .dmeRead => 2 | .dmeWrite => 3 | .d2d => 4)

def SfKind.code : SfKind → Nat
  | .earlyRead => 1
  | .lateOverwrite => 2
  | .queueOverrun => 3
  | .staticMiss => 4
  | .bankClash => 5

/-- A fault comes first in the order of R49: lowest column, then row, then engine. -/
def SchedFault.before (a b : SchedFault) : Bool :=
  decide (a.cell.col.val < b.cell.col.val) || (a.cell.col == b.cell.col &&
    (decide (a.cell.row.val < b.cell.row.val) || (a.cell.row == b.cell.row && decide (a.eng.code ≤ b.eng.code))))

/-- The fault that the record describes, the first in the order of R49. DESIGN CHOICE (log 89): of several of one cell and engine in a phase,
which R49 does not order, the first in the order in which the phase's checks meet them. -/
def recorded : List SchedFault → Option SchedFault
  | [] => none
  | f :: fs =>
    match recorded fs with
    | some g => some (if f.before g then f else g)
    | none => some f

/-- SF_RECORD of a fault (Table 13-5). -/
def State.sfRecord (s : State) (p : PartIx) (f : SchedFault) (more : Nat) : BitVec 320 :=
  let h := harvestOf f.cell.ix
  BitVec.ofNat 320 (packFields [(1, 1), (3, f.kind.code), (2, f.eng.code.val), (2, 0), (8, f.cell.ix.val),
    (4, (h.extractLsb' 0 4).toNat), (4, (h.extractLsb' 4 4).toNat), (1, (h.extractLsb' 8 1).toNat), (7, 0), (32, f.pc.toNat),
    (4, f.operand.code.1), (12, 0), (16, f.operand.code.2), (32, f.first.toNat), (32, f.second.toNat),
    (64, (s.part p).stepNow.toNat), (32, more), (64, s.heelNow.toNat)])

/-- The fault of the lowest instance, which is the number of its cell (R315). -/
def lowestCell : List SchedFault → Option SchedFault
  | [] => none
  | f :: fs =>
    match lowestCell fs with
    | some g => some (if f.cell.ix.val ≤ g.cell.ix.val then f else g)
    | none => some f

/-- The event of one schedule fault on bit 48. -/
def State.faultEvent (s : State) (p : PartIx) (f : SchedFault) : State :=
  s.event { ErrEvent.of 48 0 0 (some p) (BitVec.ofNat 8 f.cell.ix.val) with detail := f.pc }

/-- The schedule faults of one phase: the partition freezes, the record is written or counts, FSW bit 48 latches (R49, R316). Each is an
event; FIRST_ERROR describes the one of the lowest instance (R315). -/
def State.schedule (s : State) (p : PartIx) (fs : List SchedFault) : State :=
  match recorded fs with
  | none => s
  | some f =>
    let x := s.part p
    let sf : BitVec 320 :=
      if x.sf.getLsbD 0 then
        let n := (x.sf.extractLsb' 224 32).toNat + fs.length
        (x.sf &&& ~~~(BitVec.ofNat 320 (0xFFFFFFFF * 2 ^ 224))) ||| BitVec.ofNat 320 (min n 0xFFFFFFFF * 2 ^ 224)
      else s.sfRecord p f (fs.length - 1)
    let s := s.setPart p { (x.freeze .schedFault) with sf := sf }
    (fs.drop 1).foldl (fun s _ => s.faultEvent p f) (s.faultEvent p ((lowestCell fs).getD f))

end Sys2Proof.Machine
end

