-- ==== Sys2Proof/Machine/Links.lean ====
section
/-!
DEFINITION. Shared operations of the Jaldar links (09): pool and credits (R217, R218), messages (R210, R240), queueing and sending (R214, R223,
R225), port states (R227 to R231), peer-suspect reports (R269).
-/

namespace Sys2Proof.Machine

/-! Owners, reserves and windows (R213, R217) -/

/-- Entry of a local partition on a port. -/
def State.ownerIx (s : State) (n : PortIx) (p : PartIx) : Option (BitVec 3) :=
  ((List.range 8).find? fun i => let o := ownerOf (s.obj (0x3000 + n.val) 0x10) i; o.kind == 1 && o.part == p.val).map (BitVec.ofNat 3)

/-- Entry of a job on a port. -/
def State.jobIx (s : State) (n : PortIx) (j : BitVec 32) : Option (BitVec 3) :=
  ((List.range 8).find? fun i => let o := ownerOf (s.obj (0x3000 + n.val) 0x10) i; o.kind != 0 && o.job == j).map (BitVec.ofNat 3)

/-- Owner entry of a port by its number. -/
def State.ownerAt (s : State) (n : PortIx) (o : BitVec 3) : Owner := ownerOf (s.obj (0x3000 + n.val) 0x10) o.toNat

/-- Local partition of an owner entry. -/
def State.localOf (s : State) (n : PortIx) (o : BitVec 3) : Option PartIx :=
  let e := s.ownerAt n o
  if h : e.kind = 1 ∧ e.part < 16 then some ⟨e.part, h.2⟩ else none

/-- The partition of this module that a flit of an owner entry is for: its own, or that of its job, if the flit names this module (R216). -/
def State.forSelf (s : State) (n : PortIx) (o : BitVec 3) (dst : BitVec 14) : Option PartIx :=
  ((s.localOf n o).or (s.ofJob (s.ownerAt n o).job)).filter fun p => s.self p == dst

/-- Sum of the positions of all owners. -/
def State.ownedPositions (s : State) (n : PortIx) : Nat :=
  (s.owners n).foldl (fun a o => if o.kind = 0 then a else a + o.count) 0

/-- The owner's fraction of `whole`, rounded down. -/
def State.fraction (s : State) (n : PortIx) (o : BitVec 3) (whole : Nat) : Nat :=
  let e := s.ownerAt n o
  if e.kind = 0 then 0 else whole * e.count / s.ownedPositions n

/-- Place of an owner entry in the credit table. -/
def ownIx (o : BitVec 3) : Fin 9 := ⟨o.toNat, by have := o.isLt; omega⟩

/-- The owner of a port that has only one. -/
def State.soleOwner (s : State) (n : PortIx) : Option (BitVec 3) :=
  match (List.range 8).filter fun i => (ownerOf (s.obj (0x3000 + n.val) 0x10) i).kind != 0 with
  | [i] => some (BitVec.ofNat 3 i)
  | _ => none

/-- Place in the credit table that a flit counts in: its owner's; for a module item the module share, 8. DEDUCED (log 22): on a port with a
single owner, whose BYP reserve is whole, module items count as that owner's. -/
def State.creditIx (s : State) (n : PortIx) (module : Bool) (o : BitVec 3) : Fin 9 :=
  if module then (match s.soleOwner n with | some w => ownIx w | none => 8) else ownIx o

/-- Reserve R_c of an owner (R217). -/
def State.reserve (s : State) (n : PortIx) (i : Fin 9) (c : Chan) : Nat :=
  let k := ((s.owners n).filter fun o => o.kind != 0).length
  if c.val = 3 then (if k = 1 then (if i.val = 8 then 0 else 512) else 512 / (k + 1))
  else if i.val = 8 then 0
  else s.fraction n (BitVec.ofNat 3 i.val) (if c.val = 0 then 6144 else 2048)

/-- Shared part SH of an owner. -/
def State.shared (s : State) (n : PortIx) (i : Fin 9) : Nat :=
  if i.val = 8 then 0 else s.fraction n (BitVec.ofNat 3 i.val) 13824

/-- R218 for counts `occ` of the channels: `u` more units on `c` are within the reserves and the shared part. -/
def State.fits (s : State) (n : PortIx) (i : Fin 9) (occ : Chan → Nat) (c : Chan) (u : Nat) : Bool :=
  let r := s.reserve n i
  let used := (List.finRange 4).foldl (fun a c => a + (occ c - r c)) 0
  decide ((occ c + u - r c) - (occ c - r c) + used ≤ s.shared n i)

/-- A flit of `u` units may be sent on `c` (R218). -/
def State.credit (s : State) (n : PortIx) (i : Fin 9) (c : Chan) (u : Nat) : Bool :=
  let ch := (s.port n).chans[i]
  s.fits n i (fun c => ch[c].occ) c u && decide (ch[c].occ + u ≤ ch[c].w)

/-- Change one channel of one owner. -/
def Port.modChan (x : Port) (i : Fin 9) (c : Chan) (f : ChanState → ChanState) : Port :=
  { x with chans := x.chans.set i (x.chans[i].set c (f x.chans[i][c])) }

/-- The receiver frees units of a channel (R218, R219). -/
def State.freeUnits (s : State) (n : PortIx) (i : Fin 9) (c : Chan) (u : Nat) : State :=
  s.modPort n fun x => x.modChan i c fun k => { k with rocc := k.rocc - u, freed := k.freed + BitVec.ofNat 32 u }

/-! Flits -/

def FlitBody.units : FlitBody → Nat
  | .data _ => 4
  | .short _ => 1

/-- Share of the replay slots that a flit takes: its owner's, or the module's, 8 (R225). -/
def OutFlit.ix (o : OutFlit) : Fin 9 :=
  match o.body with
  | .short f => if f.module then 8 else ownIx o.owner
  | .data _ => ownIx o.owner

/-- Place in the credit table of a flit that waits or has been sent. -/
def State.outIx (s : State) (n : PortIx) (o : OutFlit) : Fin 9 :=
  match o.body with
  | .short f => s.creditIx n f.module o.owner
  | .data _ => ownIx o.owner

/-- A data flit of VC0 or VC1, which a detour carries on (R231). -/
def OutFlit.detours (o : OutFlit) : Bool := match o.body with
  | .data _ => decide (o.chan.val ≤ 1)
  | .short _ => false

/-- A flit that order 1 of R214 counts: VC0, or in transit (R216). -/
def OutFlit.first (o : OutFlit) : Bool := o.chan.val == 0 || (match o.from_ with | .transit _ _ _ _ => true | _ => false)

/-- The other of a flit's two ports. -/
def OutFlit.other (o : OutFlit) (n : PortIx) : PortIx := if o.primary = n then o.detour else o.primary

/-- Replay slots of an owner on die and in the spill region (R225). -/
def State.replayRoom (s : State) (n : PortIx) (i : Fin 9) : Nat × Nat :=
  if i.val = 8 then (64, 0)
  else (s.fraction n (BitVec.ofNat 3 i.val) 1984, s.fraction n (BitVec.ofNat 3 i.val) 262144)

/-- Replay entries of an owner, on die or spilled. -/
def Port.replayOf (x : Port) (i : Fin 9) (spilled : Bool) : Nat :=
  (x.replay.filter fun r => r.out.ix == i && r.spilled.isSome == spilled).length

/-- The owner has a replay slot for a new sequenced flit. -/
def State.replayFree (s : State) (n : PortIx) (i : Fin 9) : Bool :=
  let r := s.replayRoom n i
  decide ((s.port n).replayOf i false + (s.port n).replayOf i true < r.1 + r.2)

/-! Spill (R225, R226) -/

/-- First frame number of the reserved frames of both tiers, above the usable ones (log 61). -/
def reservedBase : Nat := 16 * 9168 + 16 * 34560

/-- Number of a reserved HBM3E frame: the `k`-th of the three of a pseudo-channel of a stack. -/
def spillFrame (stack pc k : Nat) : Nat := reservedBase + 3 * (32 * stack + pc) + k

/-- Physical address of slot `i` of port `n`'s spill region: in frame n div S of pseudo-channel i mod 32 of stack n mod S. DESIGN CHOICE
(log 61): successive slots lie in successive pseudo-channels. -/
def State.spillAddr (s : State) (n : PortIx) (i : Nat) : Nat :=
  let st := s.partNo.stacks
  2097152 * spillFrame (n.val % st) (i % 32) (n.val / st) + 256 * (i / 32)

/-- The port whose spill region holds a reserved HBM3E frame. -/
def State.spillPort (s : State) (frame : Nat) : Option PortIx :=
  let r := frame - reservedBase
  let n := s.partNo.stacks * (r % 3) + r / 3 / 32
  if h : reservedBase ≤ frame ∧ r < 768 ∧ n < 24 then some ⟨n, h.2.2⟩ else none

/-- First slot of an owner's part of the spill region. -/
def State.spillFirst (s : State) (n : PortIx) (i : Fin 9) : Nat :=
  (List.range i.val).foldl (fun a k => a + s.fraction n (BitVec.ofNat 3 k) 262144) 0

/-- Lowest free slot of an owner's part. -/
def State.spillSlot (s : State) (n : PortIx) (i : Fin 9) : Nat :=
  let a := s.spillFirst n i
  let used := (s.port n).replay.filterMap (·.spilled)
  ((List.range (used.length + 1)).find? fun k => !used.contains (a + k)).getD 0 + a

/-- The oldest on-die entry of an owner. -/
def oldestOnDie (i : Fin 9) (l : List ReplayEntry) : Option ReplayEntry := l.find? fun r => r.out.ix == i && r.spilled.isNone

/-- The bytes of a sequenced flit with its CRC, as a slot of 256 bytes. -/
def FlitBody.slot (sqn : BitVec 20) : FlitBody → Bytes
  | .data f => let b := flitBytes { f with sqn := sqn }; b ++ leBytes 8 (crc64 b).toNat
  | .short f => let b := f.bytes sqn; b ++ leBytes 8 (crc64 b).toNat ++ List.replicate 192 0

/-- The oldest on-die entry of an owner moves to its part of the spill region. -/
def State.spill (s : State) (n : PortIx) (i : Fin 9) : State :=
  match oldestOnDie i (s.port n).replay with
  | none => s
  | some r =>
    let k := s.spillSlot n i
    let s := { s with mem := Memory.write s.mem (s.spillAddr n k) (r.out.body.slot r.seq) }
    s.modPort n fun x => { x with
      spilledN := x.spilledN + 1
      replay := x.replay.map fun e => if e.seq = r.seq then { e with spilled := some k } else e }

/-- A new sequenced flit may be sent now (R218, R225). -/
def State.maySend (s : State) (n : PortIx) (o : OutFlit) : Bool :=
  s.credit n (s.outIx n o) o.chan o.body.units && s.replayFree n o.ix

/-- What leaves the port for a flit. -/
def FlitBody.out (n : PortIx) (sqn : BitVec 20) : FlitBody → Out
  | .data f => let f := { f with sqn := sqn }; .data n f (crc64 (flitBytes f))
  | .short f => .short n sqn f (crc64 (f.bytes sqn))

/-- An idle flit of a position (Table 9-1): no payload, no sequence number. DESIGN CHOICE (log 21): OWNER is 0 outside every range. -/
def idleOut (n : PortIx) (w : BitVec 3) : Out :=
  let f : Flit := ⟨1, 0, 0, w, 0, 0, 0, 0, false, false, []⟩
  .idle n f (crc64 (flitBytes f))

/-! Keys of the links (R240) -/

/-- The IV of R240. -/
def linkIv (ctr : BitVec 64) (src : BitVec 14) (vc : Nat) : BitVec 96 :=
  BitVec.ofNat 96 (packFields [(64, ctr.toNat), (14, src.toNat), (2, vc)])

/-- The link key of a phase; a free value where none is installed (log 5). -/
def State.linkKey (s : State) (p : PartIx) (ph : Bool) : BitVec 256 × State :=
  match (s.part p).keys.linkKey[two ph] with
  | some k => (k, s)
  | none => s.draw 256

/-- The next CTR of the active phase and a VC. -/
def State.nextCtr (s : State) (p : PartIx) (vc : Fin 4) : BitVec 64 × State :=
  let k := (s.part p).keys
  let ph := two k.linkActive
  (k.ctr[ph][vc], s.modPart p fun x => { x with keys := { x.keys with ctr := x.keys.ctr.set ph (x.keys.ctr[ph].set vc (k.ctr[ph][vc] + 1)) } })

/-- A KENNEL item that starts here waits as its 24 bytes of plaintext and is sealed as it leaves, its additional data being bytes 0 to 15
of the flit with the SEQ it leaves under (R240). -/
def State.sealItem (s : State) (n : PortIx) (sqn : BitVec 20) (f : ShortFlit) : ShortFlit × State :=
  if f.item = 6 ∧ f.body.length = 24 then
    let o := ownerOf (s.obj (0x3000 + n.val) 0x10) f.owner.toNat
    let p : PartIx := ⟨o.part % 16, Nat.mod_lt _ (by decide)⟩
    let k := s.linkKey p (s.part p).keys.linkActive
    let c := k.2.nextCtr p 3
    let aad := (ShortFlit.bytes { f with body := leBytes 8 c.1.toNat } sqn).take 16
    let e := Config.gcmSeal k.1 (linkIv c.1 f.src 3) aad f.body
    ({ f with body := leBytes 8 c.1.toNat ++ e.1 ++ leBytes 16 e.2.toNat }, c.2)
  else (f, s)

/-- The body of a flit as it leaves. -/
def State.sealBody (s : State) (n : PortIx) (sqn : BitVec 20) : FlitBody → FlitBody × State
  | .short f => let r := s.sealItem n sqn f; (.short r.1, r.2)
  | b => (b, s)

/-- A new sequenced flit leaves (R223 to R225). A transit flit frees its units at the port it came from now, and holds none as a replay entry
(R218). -/
def State.sendNew (s : State) (n : PortIx) (o : OutFlit) : State :=
  let b := s.sealBody n (s.port n).txSeq o.body
  let kept : OutFlit := { o with body := b.1, from_ := match o.from_ with | .transit m w c _ => .transit m w c 0 | f => f }
  let o := { o with body := b.1 }
  let s := b.2
  let s := if (s.replayRoom n o.ix).1 ≤ (s.port n).replayOf o.ix false then s.spill n o.ix else s
  let x := s.port n
  let u := o.body.units
  let x := x.modChan (s.outIx n o) o.chan fun k => { k with occ := k.occ + u, sent := k.sent + BitVec.ofNat 32 u }
  let x := { x with
    txSeq := x.txSeq + 1
    replay := x.replay ++ [⟨x.txSeq, kept, s.ns, 0, none, false⟩]
    sentLog := (⟨x.txSeq, s.outIx n o, o.chan, u⟩ :: x.sentLog).take (2 ^ 19) }
  let s := (s.setPort n x).emit (o.body.out n (x.txSeq - 1))
  match o.from_ with
  | .transit m w c u => s.freeUnits m (ownIx w) c u
  | .vc2 p t => s.modPart p fun x => { x with vc2 := { x.vc2 with
      out := x.vc2.out.map fun r => if r.txid = t ∧ r.sentAt = none then { r with sentAt := some s.ns } else r } }
  | _ => s

/-- An error in a spill frame of a port: its optical engine reports it (Table 8-14). -/
def State.spillError (s : State) (n : PortIx) : State := s.event (ErrEvent.of (portBit n) 0x03 0 none (BitVec.ofNat 8 n.val))

/-- A replay entry is sent again; one whose slot of the spill region is in error cannot be read, and is reported instead (R204). -/
def State.sendAgain (s : State) (n : PortIx) (r : ReplayEntry) : State :=
  let lost : Bool := match r.spilled with
    | some k => s.damaged.contains (s.spillAddr n k)
    | none => false
  if lost then
    let s := State.spillError { s with uncorrected := s.uncorrected + 1 } n
    s.modPort n fun x => { x with
      replay := x.replay.map fun e => if e.seq = r.seq then { e with resend := e.resend - 1 } else e }
  else
  let s := s.modPort n fun x => { x with
    replayed := x.replayed + 1
    replay := x.replay.map fun e => if e.seq = r.seq then { e with resend := e.resend - 1, sentAt := s.ns } else e }
  s.emit (r.out.body.out n r.seq)

/-- Port and owner entry that a flit takes of an owner entry `o` of its primary port: for VC0 and VC1 the detour's entry of the same job,
while the owner's traffic is away (R231). -/
def State.portFor (s : State) (primary detour : PortIx) (o : BitVec 3) (vc : Nat) : PortIx × BitVec 3 :=
  if decide (vc ≤ 1) && (s.port primary).away.getLsbD o.toNat then
    match s.jobIx detour (s.ownerAt primary o).job with
    | some w => (detour, w)
    | none => (primary, o)
  else (primary, o)

/-- A flit joins the queue of its order (R214). -/
def State.enqueue (s : State) (n : PortIx) (o : OutFlit) : State :=
  s.modPort n fun x =>
    match o.body with
    | .short _ => { x with qByp := x.qByp ++ [o] }
    | .data _ =>
      if n ≠ o.primary then { x with qDetour := x.qDetour ++ [o] }
      else if o.first then { x with q0 := x.q0 ++ [o] }
      else { x with qBulk := x.qBulk ++ [o] }

/-- A short flit waits on a port. -/
def State.sendShort (s : State) (n : PortIx) (f : ShortFlit) : State :=
  s.enqueue n ⟨.short f, 3, f.owner, none, n, n, .item⟩

/-! Flits given up (R233, R282) -/

/-- Flits that wait on a port, the items put aside among them. -/
def Port.waiting (x : Port) : List OutFlit := x.q0 ++ x.qDetour ++ x.qBulk ++ x.qByp ++ x.graceHeld.map (·.2)

/-- The flits that wait on a port, without some. -/
def Port.without (x : Port) (gone : OutFlit → Bool) : Port :=
  let keep (l : List OutFlit) : List OutFlit := l.filter fun o => !gone o
  { x with q0 := keep x.q0, qDetour := keep x.qDetour, qBulk := keep x.qBulk, qByp := keep x.qByp, graceHeld := x.graceHeld.filter fun h => !gone h.2 }

/-- The pool units that a transit flit holds at the port it came from go back. -/
def State.freeTransit (s : State) (o : OutFlit) : State :=
  match o.from_ with
  | .transit m w c u => s.freeUnits m (ownIx w) c u
  | _ => s

/-- Flits that wait on a port are given up. -/
def State.dropWaiting (s : State) (n : PortIx) (gone : OutFlit → Bool) : State :=
  let x := s.port n
  (x.waiting.filter gone).foldl State.freeTransit (s.setPort n (x.without gone))

/-- A flit of an owner entry; an item of the module is none. -/
def OutFlit.ofEntry (o : OutFlit) (w : BitVec 3) : Bool :=
  o.owner == w && (match o.body with
    | .short f => !f.module
    | .data _ => true)

/-- A flit in transit. -/
def OutFlit.transit (o : OutFlit) : Bool := match o.from_ with
  | .transit _ _ _ _ => true
  | _ => false

/-! Messages (R210, R240) -/

/-- The first 16 bytes of a message. -/
def msgPrefixBytes (ctr : BitVec 64) (src : BitVec 14) (dcell : BitVec 8) (vc : Nat) (tag : BitVec 16) (len : Nat) : Bytes :=
  leBytes 16 (packFields [(64, ctr.toNat), (14, src.toNat), (8, dcell.toNat), (2, vc), (16, tag.toNat), (24, len)])

/-- A message on its way out: its partition and channel, primary and detour port, allocation, destination, transfer tag, length of its data
and where its flits come from. -/
structure Message where
  part : PartIx
  vc : Fin 3
  port : PortIx
  detour : PortIx
  alloc : Option (BitVec 16 × BitVec 16)
  dst : BitVec 14
  dcell : BitVec 8
  tag : BitVec 16
  len : Nat
  from_ : FlitFrom
  deriving DecidableEq, Repr

/-- Key and CTR of a partition's next message on a channel (R240). -/
def State.sealNext (s : State) (p : PartIx) (vc : Fin 4) : SealRec × State :=
  let ph := (s.part p).keys.linkActive
  let k := s.linkKey p ph
  let c := k.2.nextCtr p vc
  (⟨k.1, ph, c.1, 0⟩, c.2)

/-- The bytes of a message as far as its data has come; the tag follows the last of them (R210, R240). -/
def Message.bytes (m : Message) (r : SealRec) (src : BitVec 14) (data : Bytes) : Bytes :=
  let hd := msgPrefixBytes r.ctr src m.dcell m.vc.val m.tag m.len
  let iv := linkIv r.ctr src m.vc.val
  let ct := Config.gcmCrypt r.key iv data
  hd ++ ct ++ (if data.length = m.len then leBytes 16 (Config.gcmTag r.key iv hd ct).toNat else [])

/-- Flit `i` of a message of `total` bytes; the owner entry is that of the port it leaves by. -/
def Message.flit (m : Message) (r : SealRec) (owner : BitVec 3) (bs : Bytes) (total i : Nat) : Flit :=
  let b := (bs.drop (236 * i)).take 236
  ⟨0, BitVec.ofNat 2 m.vc.val, 0, owner, BitVec.ofNat 8 b.length, m.tag, BitVec.ofNat 16 i, m.dst, decide (total ≤ 236 * (i + 1)), r.phase, b⟩

/-- The flits of a message that are whole and not yet queued join the queue (R214, R215). -/
def State.sendPart (s : State) (m : Message) (r : SealRec) (data : Bytes) : SealRec × State :=
  match s.ownerIx m.port m.part with
  | none => (r, s)
  | some o =>
    let bs := m.bytes r (s.self m.part) data
    let total := m.len + 32
    let whole := if data.length = m.len then (total + 235) / 236 else bs.length / 236
    let w := s.portFor m.port m.detour o m.vc.val
    let s := (List.range (whole - r.queued)).foldl (fun s k =>
      s.enqueue w.1 ⟨.data (m.flit r w.2 bs total (r.queued + k)), ⟨m.vc.val, by omega⟩, w.2, m.alloc, m.port, m.detour, m.from_⟩) s
    ({ r with queued := max r.queued whole }, s)

/-- A message sealed and queued on a port for an owner entry (R210, R240). -/
def State.sendMessage (s : State) (p : PartIx) (vc : Fin 3) (n det : PortIx) (alloc : Option (BitVec 16 × BitVec 16))
    (dst : BitVec 14) (dcell : BitVec 8) (tag : BitVec 16) (data : Bytes) (from_ : FlitFrom) : State :=
  match s.ownerIx n p with
  | none => s
  | some _ =>
    let r := s.sealNext p ⟨vc.val, by omega⟩
    (r.2.sendPart ⟨p, vc, n, det, alloc, dst, dcell, tag, data.length, from_⟩ r.1 data).2

/-! Where another device lies -/

/-- Entry of the transit map for a job and a device (Table 9-5): OUT and DOUT. -/
def State.transitOf (s : State) (j : BitVec 32) (dst : BitVec 14) : Option (PortIx × PortIx) :=
  let m := s.obj 0x3400 0x20
  let e := (List.range (m.length / 8)).find? fun i =>
    let r := (m.drop (8 * i)).take 8
    recField r 0 32 == j.toNat && recField r 32 14 == dst.toNat
  e.bind fun i =>
    let r := (m.drop (8 * i)).take 8
    let a := recField r 46 5
    let b := recField r 51 5
    if h : a < 24 ∧ b < 24 then some (⟨a, h.1⟩, ⟨b, h.2⟩) else none

/-- DEDUCED (log 23): the port towards a device of a partition's job is the transit map's, else that of a route entry to it. -/
def State.portTo (s : State) (p : PartIx) (dev : BitVec 14) : Option PortIx :=
  match s.transitOf (s.jobTag p) dev with
  | some r => some r.1
  | none =>
    match (s.part p).runPlan.or (s.part p).loadedPlan with
    | none => none
    | some pl =>
      (pl.routes.flatMap (·.entries)).findSome? fun e =>
        if e.farDev = dev then (if h : e.pport.toNat < 24 then some ⟨e.pport.toNat, h⟩ else none) else none

/-- The plan that a start barrier releases: the loaded one, unless it waits for a plan switch after START_STEP (R265, R268). -/
def State.startPlan (s : State) (p : PartIx) : Option PlanRec :=
  let x := s.part p
  let sw := s.pnum p 0x35
  if x.runPlan.isSome ∧ sw ≠ 2 ^ 64 - 1 ∧ s.pnum p 0x71 < sw then x.runPlan else x.loadedPlan.or x.runPlan

/-- The plan of the step that a partition runs or that its start barrier releases. -/
def State.stepPlan (s : State) (p : PartIx) : Option PlanRec :=
  let x := s.part p
  if x.starting then s.startPlan p else x.runPlan.or x.loadedPlan

/-- The plan whose distribution table gathers a partition's barriers: that of the next step once the current one has been committed. -/
def State.treePlan (s : State) (p : PartIx) : Option PlanRec :=
  let x := s.part p
  let switched : Bool := match x.barrier.release with
    | some r => x.between && s.pnum p 0x35 != 2 ^ 64 - 1 && BitVec.ofNat 64 (s.pnum p 0x35) == r.step + 1
    | none => false
  if switched && !x.starting then x.loadedPlan.or x.runPlan else s.stepPlan p

/-- Distribution entry of this module. -/
def State.distSelf (s : State) (p : PartIx) : Option DistEntry :=
  (s.treePlan p).bind fun pl => pl.dist.find? fun d => d.dev == s.self p

/-- The root of the partition's barriers: the device that is its own parent (Table 6-11). -/
def State.barRoot (s : State) (p : PartIx) : BitVec 14 :=
  ((s.treePlan p).bind fun pl => (pl.dist.find? fun d => d.parent == d.dev).map (·.dev)).getD (s.self p)

/-- A short flit towards a device. -/
def State.sendTo (s : State) (p : PartIx) (dev : BitVec 14) (f : ShortFlit) : State :=
  match s.portTo p dev with
  | some n => s.sendShort n f
  | none => s

/-- A short flit towards the barrier root: by a port to it, else by the parent's. -/
def State.sendUp (s : State) (p : PartIx) (root : BitVec 14) (f : ShortFlit) : State :=
  match (s.portTo p root).or ((s.distSelf p).bind fun d => s.portTo p d.parent) with
  | some n => s.sendShort n f
  | none => s

/-! Peer-suspect reports (R269, Table 10-6) -/

/-- Body of a PEER item. -/
def peerBody (i : PeerItem) : Bytes :=
  leBytes 48 (packFields [(32, i.job.toNat), (14, i.reporter.toNat), (14, i.suspect.toNat), (4, i.cause.toNat), (64, i.step.toNat),
    (32, i.evidence.toNat)])

/-- A report: at most one per suspect and step, none about the module itself; it latches FSW bit 49. -/
def State.report (s : State) (p : PartIx) (suspect : BitVec 14) (cause : BitVec 4) (evidence : BitVec 32) : State :=
  let x := s.part p
  let me := s.self p
  if suspect = me ∨ s.jobTag p = 0 ∨ x.reported.contains suspect then s
  else
    let root := s.barRoot p
    let i : PeerItem := ⟨s.jobTag p, me, suspect, cause, x.stepNow, evidence, root⟩
    let s := s.setPart p { x with reported := x.reported ++ [suspect] }
    let s := { s with openReports := s.openReports ++ [(⟨p, s.jobTag p, suspect, cause, x.stepNow⟩ : OpenReport)] }
    let s := if root = me then s else s.sendUp p root ⟨7, true, 7, true, 0, 0, (peerBody i)⟩
    let s := (s.emit (.peerFrame i)).notify 2 (peerBody i)
    s.event (ErrEvent.of 49 0x03 0 (some p) 0)

/-- Devices that routes of a partition's plan, the one being started among them, reach directly over a port. -/
def State.farOf (s : State) (p : PartIx) (n : PortIx) : List (BitVec 14) :=
  match s.stepPlan p with
  | none => []
  | some pl => ((pl.routes.flatMap (·.entries)).filter fun e => e.pport.toNat == n.val).map (·.farDev)

/-- Reports of a cause about the far devices of a port, by every partition that holds an entry on it. -/
def State.reportPort (s : State) (n : PortIx) (cause : BitVec 4) : State :=
  (List.finRange 16).foldl (fun s p =>
    if s.onPort p n then (s.farOf p n).foldl (fun s d => s.report p d cause 1) s else s) s

/-! Port states (R227 to R231) -/

/-- The optical engine of a port is present. -/
def State.hasPort (s : State) (n : PortIx) : Bool := decide (n.val < s.partNo.ports)

/-- Undelivered VC0 and VC1 flits of port `n` whose other port is `m` go to `m`, in sequence order, as new flits of the same job's entry there
(R231, R232). Without such an entry they wait. -/
def State.detourTo (s : State) (n m : PortIx) : State :=
  let x := s.port n
  let entry (o : OutFlit) : Option (BitVec 3) := s.jobIx m (s.ownerAt n o.owner).job
  let mv (o : OutFlit) : Bool := o.detours && o.other n == m && (entry o).isSome
  let moved := ((x.replay.filter fun r => !r.moved && mv r.out).map (·.out)) ++ (x.qDetour ++ x.q0 ++ x.qBulk).filter mv
  let s := s.setPort n { x with
    replay := x.replay.map fun r => if !r.moved && mv r.out then { r with moved := true } else r
    qDetour := x.qDetour.filter fun o => !mv o
    q0 := x.q0.filter fun o => !mv o
    qBulk := x.qBulk.filter fun o => !mv o }
  moved.foldl (fun s o =>
    match entry o with
    | some w => s.enqueue m { o with owner := w, body := match o.body with | .data f => .data { f with owner := w } | b => b }
    | none => s) s

/-- An UP port goes down for a cause: its traffic goes to the detour ports that are UP (R228, R231, R233). -/
def State.portDown (s : State) (n : PortIx) (cause : BitVec 8) : State :=
  let s := s.modPort n fun x => { x with
    state := 4, cause := cause, downCount := x.downCount + 1, downSince := s.ns, grace := true, attempts := 1, away := BitVec.allOnes 8 }
  let s := s.emit (.downPattern n)
  let s := (List.finRange 24).foldl (fun s m => if m ≠ n ∧ (s.port m).state = 3 then s.detourTo n m else s) s
  if cause = 2 ∨ cause = 4 then s.reportPort n 1 else s

/-- The PRBS count spread over the 16 buckets, the remainder in the oldest (R229). -/
def seedWindow (count : Nat) : List Nat :=
  (List.range 16).map fun i => count / 16 + (if 16 - count % 16 ≤ i then 1 else 0)

/-- Flits that go back to the front of their queues on port `n`. -/
def Port.requeue (x : Port) (n : PortIx) (l : List OutFlit) : Port :=
  let away (o : OutFlit) : Bool := o.primary != n
  { x with
    qDetour := l.filter away ++ x.qDetour
    q0 := (l.filter fun o => !away o && o.first) ++ x.q0
    qBulk := (l.filter fun o => !away o && !o.first) ++ x.qBulk }

/-- A full training discards the replay entries (R227). VC0 and VC1 flits that no detour has taken are sent anew (R232); within the grace
period VC2 and BYP items, sent or not, are put aside to be flushed at its end (R233). -/
def Port.cutOff (x : Port) (n : PortIx) : Port :=
  let again := (x.replay.filter fun r => !r.moved && r.out.detours).map (·.out)
  let y : Port :=
    if x.grace then
      let keep (l : List OutFlit) : List OutFlit := l.filter (·.detours)
      { x with
        graceHeld := x.graceHeld ++ ((((x.replay.map (·.out)) ++ x.q0 ++ x.qDetour ++ x.qBulk ++ x.qByp).filter fun o => !o.detours).map
          fun o => (x.downSince, o))
        q0 := keep x.q0, qDetour := keep x.qDetour, qBulk := keep x.qBulk, qByp := [] }
    else x
  { y with replay := [], sentLog := [], txSeq := 0, rxNext := 0, rxHeld := [] }.requeue n again

/-- Units of port `n` that messages or transit flits hold no longer count, once its counts have started at 0 again (R230). DEDUCED
(log 22). -/
def State.forgetUnits (s : State) (n : PortIx) : State :=
  let forget (o : OutFlit) : OutFlit := match o.from_ with
    | .transit m w c _ => if m = n then { o with from_ := .transit m w c 0 } else o
    | _ => o
  let ports : Vector Port 24 := s.ports.map fun (x : Port) => { x with
    q0 := x.q0.map forget, qDetour := x.qDetour.map forget, qBulk := x.qBulk.map forget }
  let msgs : List RxMsg := s.msgs.map fun (m : RxMsg) => { m with
    flits := m.flits.map fun (f : MsgFlit) => if f.port = n then { f with units := 0 } else f }
  { s with ports := ports, msgs := msgs }

/-- Entry to UP (R230): after a full training sequence numbers, credits and replay start at 0. Traffic that waits on a port that is down,
and has this one as its other port, goes out here (R232). -/
def State.portUp (s : State) (n : PortIx) (full : Bool) : State :=
  let x := s.port n
  let fix (i : Fin 9) (c : Chan) (k : ChanState) : ChanState :=
    let w := s.reserve n i c + s.shared n i
    if full then { ChanState.cold with w := w } else { k with w := w, off := 0 }
  let ch := Vector.ofFn fun i => Vector.ofFn fun c => fix i c x.chans[i][c]
  let y := if full then x.cutOff n else { x with
    replay := x.replay.map fun r => { r with resend := max 1 r.resend }, grace := false }
  let s := s.setPort n { y with
    state := 3, upSince := s.ns, creditAt := s.ns, chans := ch, win := seedWindow x.prbs.toNat, winTick := 0, attempts := 0, inserted := 0 }
  let s := if full then s.forgetUnits n else s
  (List.finRange 24).foldl (fun s m => if m ≠ n ∧ (s.port m).state ≠ 3 ∧ (s.port m).away ≠ 0 then s.detourTo m n else s) s

/-- A training attempt has failed: another one, or FAILED with its FSW bit (R227). -/
def State.attemptFailed (s : State) (n : PortIx) : State :=
  let x := s.port n
  if x.attempts < s.num 0x3400 9 then
    s.setPort n { x with state := 1, attempts := x.attempts + 1 }
  else
    (s.setPort n { x with state := 5 }).event (ErrEvent.of (portBit n) 0x03 0 none (BitVec.ofNat 8 n.val))

/-- Fabric address of a virtual device. -/
def State.addrOf (s : State) (p : PartIx) (d : BitVec 14) : BitVec 32 :=
  BitVec.ofNat 32 (leNat (((s.pobj p 0x31).drop (32 + 4 * d.toNat)).take 4))

/-- Number of devices that the pack map names. -/
def State.ndev (s : State) (p : PartIx) : Nat := s.packMap p 0 16

/-- The device of a partition's job whose fabric address an object names (R194). -/
def State.deviceAt (s : State) (p : PartIx) (sub : Nat) : Option (BitVec 14) :=
  if s.pnum p sub = 0 then none
  else ((List.range (s.ndev p)).find? fun d => (s.addrOf p (BitVec.ofNat 14 d)).toNat == s.pnum p sub).map (BitVec.ofNat 14)

/-- The sender of a message is the device that an object names. -/
def State.comesFrom (s : State) (p : PartIx) (src : BitVec 14) (sub : Nat) : Bool :=
  s.pnum p sub != 0 && (s.addrOf p src).toNat == s.pnum p sub

/-- A VC1 message to a device (log 31): 4 bytes that say what it is, then its content. -/
def State.sendVc1 (s : State) (p : PartIx) (dev : BitVec 14) (what : Nat) (body : Bytes) : State :=
  match s.portTo p dev with
  | none => s
  | some n =>
    let det := match s.transitOf (s.jobTag p) dev with
      | some r => r.2
      | none => n
    s.sendMessage p 1 n det none dev 0 0 (leBytes 4 what ++ body) (.vc1 p)

/-! Messages of a mirror and of an ingest (log 31, log 33) -/

def mirrorStart : Nat := 0xFFFFFFF0
def mirrorPage : Nat := 0xFFFFFFF1
def mirrorHead : Nat := 0xFFFFFFF2
def mirrorOk : Nat := 0xFFFFFFF3
def mirrorRefuse : Nat := 0xFFFFFFF4
def restorePage : Nat := 0xFFFFFFF5
def restoreHead : Nat := 0xFFFFFFF6
/-- a write of the mirror at its holder has met an error (Table 8-14) -/
def mirrorFail : Nat := 0xFFFFFFF7
/-- a device has gone back from BACKUP to its PARENT (R266) -/
def leaveIndex : Nat := 0xFFFFFFFC

/-- A device takes PARENT or BACKUP as the one above it in the tree; going back to PARENT, it says so to BACKUP, which no longer counts it as
its child (R252, R266). DESIGN CHOICE (log 85). -/
def State.goUp (s : State) (p : PartIx) (d : DistEntry) (backup : Bool) : State :=
  if (s.part p).upBackup = backup then s
  else
    let s := s.modPart p fun x => { x with upBackup := backup }
    if backup ∨ d.backup = d.parent then s else s.sendVc1 p d.backup leaveIndex []

/-- OWNER_DIGEST (0x3000+n.11): SHA3-256 of the entries with KIND taken as 1 and PART as 0 (R213). -/
def State.ownerDigest (s : State) (n : PortIx) : Bytes :=
  let v := s.obj (0x3000 + n.val) 0x10
  let e (i : Nat) : Bytes :=
    let r := (v.drop (16 * i)).take 16
    let k := recField r 0 2
    leBytes 2 ((leNat (r.take 2) / 64) * 64 + (if k = 0 then 0 else 1)) ++ r.drop 2
  leBytes 32 (Config.sha3_256 ((List.range 8).flatMap e)).toNat

/-- An ENABLE that a commit has changed, or new owners (R227, R283): the port leaves for the state of Table 9-6. -/
def State.portCommit (s : State) (n : PortIx) (owners : Bool) : State :=
  let x := s.port n
  let en := s.num (0x3000 + n.val) 1 % 2 = 1
  if x.postFailed ∨ !s.hasPort n then s
  else if !en then s.setPort n { x with state := 0 }
  else if x.state = 0 then s.setPort n { x with state := 1, attempts := 1 }
  else if owners ∧ x.state ≠ 5 then s.setPort n { x with state := 1, attempts := 1 }
  else s

end Sys2Proof.Machine
end

