-- ==== Sys2Proof/Machine/Vc2Ops.lean ====
section
/-!
DEFINITION. Shared operations of VC2 (R235 to R239) and of partition-virtual memory (R183, R186): regions, frames, reads and writes.
-/

namespace Sys2Proof.Machine

/-! Memory layout (R184, R186) -/

/-- Region `r` of a layout value (Table 8-3): tier, first page as the page number of an address (Table 8-2), pages. -/
def regionOf (v : Bytes) (r : Nat) : MapRow :=
  let e := (v.drop (16 * r)).take 16
  ⟨recField e 20 1 == 1, recField e 0 21, recField e 32 20⟩

/-- Region of a partition; no pages where absent. -/
def State.region (s : State) (p : PartIx) (r : Nat) : MapRow := regionOf (s.pobj p 0x50) r

/-- Mapped regions of a partition. -/
def State.regions (s : State) (p : PartIx) : List MapRow :=
  ((List.range 16).map (s.region p)).filter fun r => r.pages != 0

/-- Partition-virtual address of a region's first byte. -/
def MapRow.addr (r : MapRow) : Nat := 2097152 * r.first

/-- Rank of a page among the mapped pages of its tier in ascending VPAGE order (R186). -/
def pageRank (rs : List MapRow) (lp : Bool) (pg : Nat) : Nat :=
  rs.foldl (fun a r => if r.lpddr == lp then a + min r.pages (pg - r.first) else a) 0

/-- The physical address of a mapped partition-virtual byte (R183, R186); the numbering of frames is the model's (log 61). -/
def State.phys (s : State) (p : PartIx) (a : Nat) : Option Nat :=
  let lp := a / 2 ^ 41 % 2 == 1
  let pg := a / 2097152
  let rs := s.regions p
  let cols := s.colsOf p
  if !(rs.any fun r => r.lpddr == lp && decide (r.first ≤ pg ∧ pg < r.first + r.pages)) then none
  else
    let k := pageRank rs lp pg
    match cols with
    | [] => none
    | c :: _ =>
      let share := c.val + k % cols.length
      let frame := k / cols.length
      let id := if lp then 16 * 9168 + 34560 * share + frame else 9168 * share + frame
      some (2097152 * id + a % 2097152)

/-- Every byte of a range is mapped; ranges here never leave one tier. -/
def State.mapped (s : State) (p : PartIx) (a n : Nat) : Bool :=
  (List.range ((a % 2097152 + n + 2097151) / 2097152)).all fun i => (s.phys p (a + 2097152 * i - a % 2097152)).isSome

/-- Read `n` bytes of partition-virtual memory, page by page; unmapped bytes read 0. -/
def State.readV (s : State) (p : PartIx) (a n : Nat) : Bytes :=
  let pages := (a % 2097152 + n + 2097151) / 2097152
  (List.range pages).flatMap fun i =>
    let lo := max a (2097152 * (a / 2097152 + i))
    let hi := min (a + n) (2097152 * (a / 2097152 + i + 1))
    match s.phys p lo with
    | some x => Memory.read s.mem x (hi - lo)
    | none => List.replicate (hi - lo) 0

/-- Granules of a physical range lose their damage when they are written whole. -/
def mendDamage (d : List Nat) (x n : Nat) : List Nat := d.filter fun g => !(decide (x ≤ g ∧ g + 256 ≤ x + n))

/-- Write bytes to partition-virtual memory, page by page; unmapped bytes are dropped. -/
def State.writeV (s : State) (p : PartIx) (a : Nat) (bs : Bytes) : State :=
  let pages := (a % 2097152 + bs.length + 2097151) / 2097152
  (List.range pages).foldl (fun s i =>
    let lo := max a (2097152 * (a / 2097152 + i))
    let hi := min (a + bs.length) (2097152 * (a / 2097152 + i + 1))
    match s.phys p lo with
    | some x => { s with
        mem := Memory.write s.mem x ((bs.drop (lo - a)).take (hi - lo))
        damaged := mendDamage s.damaged x (hi - lo) }
    | none => s) s

/-- A granule of a range holds an uncorrectable error. -/
def State.damagedIn (s : State) (p : PartIx) (a n : Nat) : Bool :=
  s.damaged.any fun g => (List.range (n / 256 + 2)).any fun i =>
    match s.phys p (a - a % 256 + 256 * i) with
    | some x => decide (256 * i < n + a % 256) && x == g
    | none => false

/-! Completion ring of VC2 (R235; rules of R153 and R157) -/

/-- A VC2 completion (Table 9-8), without PHASE. -/
def vc2Record (status : Nat) (tag opid result rstatus : Nat) : BitVec 512 :=
  BitVec.ofNat 512 (packFields [(8, 0x10), (8, status), (16, tag), (32, 0), (64, opid), (64, result), (8, rstatus)])

/-- Records leave for the ring while it has a free entry and the device Muzzle is not in force (R157, R319). -/
def State.flushVc2 (fuel : Nat) (s : State) (p : PartIx) : State :=
  match fuel with
  | 0 => s
  | fuel + 1 =>
    let x := s.part p
    let size := s.pnum p 0x63
    let v := x.vc2
    match v.kept with
    | [] => s
    | r :: rs =>
      if s.faults.muzzle ∨ (v.mcWrite.toNat + 1) % size = v.mcHead.toNat % size then s
      else
        let w := v.mcWrite.toNat
        let r' := r ||| (if v.phase then BitVec.twoPow 512 63 else 0)
        let last := decide (w + 1 = size)
        let s := s.setPart p { x with vc2 := { v with
          kept := rs, mcWrite := BitVec.ofNat 12 (if last then 0 else w + 1), phase := if last then !v.phase else v.phase } }
        let s := (s.writeHost p (BitVec.ofNat 64 (s.pnum p 0x62 + 64 * w)) (leBytes 64 r'.toNat)).interrupt p 0
        s.flushVc2 fuel p

/-- A VC2 completion record. -/
def State.completeVc2 (s : State) (p : PartIx) (r : BitVec 512) : State :=
  (s.modPart p fun x => { x with vc2 := { x.vc2 with kept := x.vc2.kept ++ [r] } }).flushVc2 4096 p

/-- TAG and OPID of a request. -/
def vc2Tag (e : BitVec 512) : Nat := (e.extractLsb' 16 16).toNat
def vc2Opid (e : BitVec 512) : Nat := (e.extractLsb' 256 64).toNat

/-- An outstanding request completes with a status. -/
def State.endVc2 (s : State) (p : PartIx) (txid : BitVec 12) (status result rstatus : Nat) : State :=
  match (s.part p).vc2.out.find? fun r => r.txid == txid with
  | none => s
  | some r =>
    let s := s.modPart p fun x => { x with vc2 := { x.vc2 with
      out := x.vc2.out.filter fun q => q.txid != txid
      resting := if status = 1 then (txid, s.ns) :: x.vc2.resting.filter (fun q => q.1 != txid) else x.vc2.resting } }
    s.completeVc2 p (vc2Record status (vc2Tag r.entry) (vc2Opid r.entry) result rstatus)

/-- Every outstanding request of a partition ends as LINK_LOST (R319). -/
def State.loseVc2 (s : State) (p : PartIx) : State :=
  (s.part p).vc2.out.foldl (fun s r => s.endVc2 p r.txid 1 0 0) s

/-- VC2_LIMIT (R239). -/
def State.vc2Limit (s : State) (p : PartIx) : Nat := 4096 * (s.colsOf p).length / s.partNo.cols

/-! The target's completion records (R236, R352) -/

/-- Records of one requester, the oldest first. -/
def Vc2.records (v : Vc2) (src : BitVec 14) : List Vc2Done := v.done.filter fun d => d.src == src

/-- First OPID recorded since the start, once the record has left the cold state (R352). -/
def Vc2.first (v : Vc2) (src : BitVec 14) : Option (BitVec 64) :=
  match v.warm.find? fun w => w.1 == src with
  | some w => some w.2
  | none => none

/-- An unrecorded OPID is answered STALE (R236, R352). -/
def Vc2.stale (v : Vc2) (src : BitVec 14) (opid : BitVec 64) : Bool :=
  let r := v.records src
  (match v.first src with
    | some f => decide (opid < f)
    | none => false) || (decide (1024 ≤ r.length) && r.all fun d => decide (opid < d.opid))

/-- A recorded outcome; beyond 1,024 the oldest goes. -/
def Vc2.keep (v : Vc2) (d : Vc2Done) : Vc2 :=
  let mine := v.records d.src ++ [d]
  { v with
    done := v.done.filter (fun e => e.src != d.src) ++ mine.drop (mine.length - 1024)
    warm := if (v.first d.src).isSome then v.warm else v.warm ++ [(d.src, d.opid)] }

end Sys2Proof.Machine
end

