-- ==== Sys2Proof/Machine/Entry.lean ====
section
/-!
DEFINITION. Fields of Kennel entries (Table 7-2), submission entries (Table 7-4) and completion records (Table 7-7), and the operations that
read and change a partition's Kennel.
-/

namespace Sys2Proof.Machine

/-! Fields of a 512-bit word -/

/-- Field of `n` bits from bit `lo`. -/
def getF (w : BitVec 512) (lo n : Nat) : Nat := w.toNat / 2 ^ lo % 2 ^ n

/-- The word with that field set. -/
def setF (w : BitVec 512) (lo n v : Nat) : BitVec 512 :=
  (w &&& ~~~BitVec.ofNat 512 ((2 ^ n - 1) * 2 ^ lo)) ||| BitVec.ofNat 512 (2 ^ lo * (v % 2 ^ n))

/-! Entry fields (Table 7-2) -/

def eState (e : Entry) : Nat := getF e 0 4
def ePrio (e : Entry) : Nat := getF e 8 3
def eMslot (e : Entry) : Nat := getF e 11 1
def eKw (e : Entry) : Nat := getF e 12 2
def eKwMax (e : Entry) : Nat := getF e 14 2
def eBark (e : Entry) : Bool := getF e 16 1 == 1
def eMuz (e : Entry) : Bool := getF e 17 1 == 1
def eSusReq (e : Entry) : Bool := getF e 18 1 == 1
def eCloseReq (e : Entry) : Bool := getF e 19 1 == 1
def eSlot (e : Entry) : Nat := getF e 20 12
def eAge (e : Entry) : Nat := getF e 40 8
def eReason (e : Entry) : Nat := getF e 48 4
def eMissed (e : Entry) : Bool := getF e 52 1 == 1
def eSid (e : Entry) : Nat := getF e 64 64
def eDeadline (e : Entry) : BitVec 64 := BitVec.ofNat 64 (getF e 128 64)
def eDlInc (e : Entry) : Nat := getF e 192 32
def eLen (e : Entry) : Nat := getF e 224 32
def eMaxLen (e : Entry) : Nat := getF e 256 32
def eSeed (e : Entry) : Nat := getF e 288 12
def ePageList (e : Entry) : Nat := getF e 320 64
def eRate (e : Entry) : Nat := getF e 384 17
def eNPages (e : Entry) : Nat := getF e 416 16
def eBarkCfg (e : Entry) : BitVec 16 := BitVec.ofNat 16 (getF e 448 16)
def eDraftTot (e : Entry) : Nat := getF e 464 24
def eAccTot (e : Entry) : Nat := getF e 488 24

def withState (e : Entry) (v : Nat) : Entry := setF e 0 4 v
def withKw (e : Entry) (v : Nat) : Entry := setF e 12 2 v
def withMuz (e : Entry) (v : Bool) : Entry := setF e 17 1 v.toNat
def withSusReq (e : Entry) (v : Bool) : Entry := setF e 18 1 v.toNat
def withCloseReq (e : Entry) (v : Bool) : Entry := setF e 19 1 v.toNat
def withSlot (e : Entry) (v : Nat) : Entry := setF e 20 12 v
def withAge (e : Entry) (v : Nat) : Entry := setF e 40 8 v
def withReason (e : Entry) (v : Nat) : Entry := setF e 48 4 v
def withMissed (e : Entry) (v : Bool) : Entry := setF e 52 1 v.toNat
def withDeadline (e : Entry) (v : BitVec 64) : Entry := setF e 128 64 v.toNat
def withLen (e : Entry) (v : Nat) : Entry := setF e 224 32 v
def withPageList (e : Entry) (v : Nat) : Entry := setF e 320 64 v
def withNPages (e : Entry) (v : Nat) : Entry := setF e 416 16 v
def withRate (e : Entry) (v : Nat) : Entry := setF e 384 17 v

/-- States (Table 7-3). -/
def stFree : Nat := 0
def stAdmitted : Nat := 1
def stQueued : Nat := 2
def stRunning : Nat := 3
def stSuspended : Nat := 4
def stEnded : Nat := 5
def stCancelled : Nat := 6
def stFaulted : Nat := 7

/-- ADMITTED, QUEUED, RUNNING or SUSPENDED. -/
def eLive (e : Entry) : Bool := decide (1 ≤ eState e ∧ eState e ≤ 4)

/-- Word `i` of an entry. -/
def eWord (e : Entry) (i : Nat) : BitVec 64 := BitVec.ofNat 64 (getF e (64 * i) 64)

/-- Fields of a member's entry that follow the home's: all but SLOT and MUZ of word 0, the page list, and the pages held (R173). -/
def mirrorWord (own : Entry) (i : Nat) (v : BitVec 64) : Entry :=
  let w := setF own (64 * i) 64 v.toNat
  match i with
  | 0 => setF (setF (setF w 4 4 (getF own 4 4)) 17 1 (getF own 17 1)) 20 12 (getF own 20 12)
  | 5 => own
  | 6 => setF w 416 16 (eNPages own)
  | _ => w

/-- A FREE entry of partition `p` with the reset values of Table 7-2. -/
def freeEntry (p : PartIx) : Entry := setF (setF 0 4 4 p.val) 20 12 0xFFF

/-- What goes with a FREE entry. -/
def EntryX.free : EntryX := ⟨0, 0, 0, 0, false, [], false⟩

/-- The width that a KW code stands for (Table 6-12): 0, 2, 4 or 8. -/
def kOf (code : Nat) : Nat := if code = 0 then 0 else 2 ^ code

/-! Submission entries (Table 7-4) -/

def scCmd (c : SqEntry) : Nat := getF c 0 8
def scTag (c : SqEntry) : Nat := getF c 16 16
def scEntry (c : SqEntry) : Nat := getF c 32 12
def scSid (c : SqEntry) : Nat := getF c 64 64
def scArg (c : SqEntry) (lo n : Nat) : Nat := getF c (128 + lo) n

/-! The Kennel of a partition -/

def State.ken (s : State) (p : PartIx) : Kennel := (s.part p).kennel
def State.modKen (s : State) (p : PartIx) (f : Kennel → Kennel) : State := s.modPart p fun x => { x with kennel := f x.kennel }

/-- Entry of a relative index. -/
def Kennel.entry (k : Kennel) (e : Nat) : Entry := (k.entries[e]?).getD 0
def Kennel.xtra (k : Kennel) (e : Nat) : EntryX := (k.extra[e]?).getD EntryX.free
def State.entry (s : State) (p : PartIx) (e : Nat) : Entry := (s.ken p).entry e
def State.setEntry (s : State) (p : PartIx) (e : Nat) (w : Entry) : State :=
  s.modKen p fun k => { k with entries := k.entries.set e w }
def State.modX (s : State) (p : PartIx) (e : Nat) (f : EntryX → EntryX) : State :=
  s.modKen p fun k => { k with extra := k.extra.set e (f (k.xtra e)) }

/-- A Kennel with `n` FREE entries, zero seeds and the KV and SUSPEND pages of the layout on its free lists (R151, R172, R187). DESIGN CHOICE (log 96): its rings
begin anew, with PHASE 1 and its counters 0. -/
def State.freshKennel (s : State) (p : PartIx) : Kennel :=
  if (s.colsOf p).isEmpty then Kennel.cold else
  let n := s.pnum p 0x41
  let pagesOf (r : MapRow) : List (BitVec 64) := (List.range (32 * r.pages)).map fun i => BitVec.ofNat 64 (r.addr + 65536 * i)
  { Kennel.cold with
    entries := List.replicate n (freeEntry p)
    extra := List.replicate n EntryX.free
    seeds := List.replicate n 0
    kvFree := pagesOf (s.region p 3)
    susFree := pagesOf (s.region p 6) }

/-! Completion ring (R155, R157) -/

/-- A record (Table 7-7) without PHASE. -/
def kenRecord (type code tag entry sid step len late hold w6 w7 : Nat) : CqRecord :=
  BitVec.ofNat 512 (packFields [(8, type), (8, code), (16, tag), (12, entry), (20, 0), (64, sid), (64, step), (32, len), (32, 0),
    (64, late), (64, hold), (64, w6), (64, w7)])

/-- Records leave for the ring while it has a free record and the device Muzzle is not in force (R157, R319). DESIGN CHOICE (log 67): the
ring has no free record once CQ_SIZE - 1 are unread, since equal indices mean an empty ring. -/
def State.flushCq (fuel : Nat) (s : State) (p : PartIx) : State :=
  match fuel with
  | 0 => s
  | fuel + 1 =>
    let size := s.pnum p 0x45
    let k := s.ken p
    match k.kept with
    | [] => s
    | r :: rs =>
      if s.faults.muzzle ∨ (k.cqWrite.toNat + 1) % size = k.cqHead.toNat % size then s
      else
        let w := k.cqWrite.toNat
        let r' := r.record ||| (if k.phase then BitVec.twoPow 512 63 else 0)
        let last := decide (w + 1 = size)
        let s := s.modKen p fun k => { k with
          kept := rs, cqWrite := BitVec.ofNat 12 (if last then 0 else w + 1), phase := if last then !k.phase else k.phase }
        let s := (s.writeHost p (BitVec.ofNat 64 (s.pnum p 0x44 + 64 * w)) (leBytes 64 r'.toNat)).interrupt p 0
        s.flushCq fuel p

/-- The 256 places of R157 are full. -/
def Kennel.full (k : Kennel) : Bool := decide (256 ≤ (k.kept.filter fun r => !r.beyond).length)

/-- A record in serial order; `drop` if it is lost when it finds the places full. DESIGN CHOICE (log 67): a reply that the spec does not let
be lost, such as one to SUSPEND or RESUME at a boundary, is kept beyond the 256 places. -/
def State.pushRecord (s : State) (p : PartIx) (r : CqRecord) (drop : Bool) : State :=
  let k := s.ken p
  if k.full ∧ drop then s
  else
    let s := s.modKen p fun k => { k with kept := k.kept ++ [⟨r, k.full⟩] }
    s.flushCq (k.kept.length + 1) p

/-- A record of a type for an entry still waits for the ring. -/
def Kennel.awaits (k : Kennel) (type code e : Nat) : Bool :=
  k.kept.any fun r => getF r.record 0 8 == type && getF r.record 8 8 == code && getF r.record 32 12 == e

/-- A REPLY (R153 to R156). -/
def State.reply (s : State) (p : PartIx) (code tag e sid len : Nat) (drop : Bool) : State :=
  s.pushRecord p (kenRecord 1 code tag e sid (s.part p).stepNow.toNat len 0 0 0 0) drop

/-! KENNEL items (R173, R240) -/

/-- This module is the job's home Kennel. -/
def State.isHome (s : State) (p : PartIx) : Bool := s.pnum p 0x4E == 0xFFFF || s.pnum p 0x4E == (s.self p).toNat

/-- Other devices of the job, as the plan's distribution table lists them. -/
def State.members (s : State) (p : PartIx) : List (BitVec 14) :=
  match s.treePlan p with
  | none => []
  | some pl => (pl.dist.map (·.dev)).filter fun d => d != s.self p

/-- What a KENNEL item says. DESIGN CHOICE (log 30): the 24 bytes of plaintext, which the spec does not lay out. -/
inductive KenMsg where
  /-- a slot of the step record of a step -/
  | slot (step : BitVec 64) (slot : BitVec 12) (r : SlotRec)
  /-- the step record of a step is whole: its variant -/
  | map (step : BitVec 64) (variant : BitVec 8)
  | cancel (e : BitVec 12)
  | seed (i : BitVec 12) (key : BitVec 128)
  /-- a word of an entry as the home holds it -/
  | word (e : BitVec 12) (i : BitVec 3) (v : BitVec 64)
  /-- the home copies a suspended stream back -/
  | resume (e : BitVec 12)
  /-- the home's entry has become FREE -/
  | freed (e : BitVec 12)
  deriving DecidableEq, Repr

def KenMsg.bytes : KenMsg → Bytes
  | .slot st i r => leBytes 24 (packFields [(8, 1), (64, st.toNat), (12, i.toNat), (1, r.used.toNat), (12, r.entry.toNat), (32, r.len.toNat),
      (12, r.seed.toNat), (2, r.keff.toNat)])
  | .map st v => leBytes 24 (packFields [(8, 2), (64, st.toNat), (8, v.toNat)])
  | .cancel e => leBytes 24 (packFields [(8, 3), (12, e.toNat)])
  | .seed i k => leBytes 24 (packFields [(8, 4), (12, i.toNat), (128, k.toNat)])
  | .freed e => leBytes 24 (packFields [(8, 5), (12, e.toNat)])
  | .word e i v => leBytes 24 (packFields [(8, 6), (12, e.toNat), (3, i.toNat), (64, v.toNat)])
  | .resume e => leBytes 24 (packFields [(8, 7), (12, e.toNat)])

def kenMsgOf (b : Bytes) : Option KenMsg :=
  let f (lo n : Nat) : Nat := recField b lo n
  match f 0 8 with
  | 1 => some (.slot (BitVec.ofNat 64 (f 8 64)) (BitVec.ofNat 12 (f 72 12))
      ⟨f 84 1 == 1, BitVec.ofNat 12 (f 85 12), BitVec.ofNat 32 (f 97 32), BitVec.ofNat 12 (f 129 12), BitVec.ofNat 2 (f 141 2)⟩)
  | 2 => some (.map (BitVec.ofNat 64 (f 8 64)) (BitVec.ofNat 8 (f 72 8)))
  | 3 => some (.cancel (BitVec.ofNat 12 (f 8 12)))
  | 4 => some (.seed (BitVec.ofNat 12 (f 8 12)) (BitVec.ofNat 128 (f 20 128)))
  | 5 => some (.freed (BitVec.ofNat 12 (f 8 12)))
  | 6 => some (.word (BitVec.ofNat 12 (f 8 12)) (BitVec.ofNat 3 (f 20 3)) (BitVec.ofNat 64 (f 23 64)))
  | 7 => some (.resume (BitVec.ofNat 12 (f 8 12)))
  | _ => none

/-- A KENNEL item to every other member, unless this is not the home. -/
def State.tellMembers (s : State) (p : PartIx) (m : KenMsg) : State :=
  if s.isHome p then
    (s.members p).foldl (fun s d =>
      match s.portTo p d with
      | none => s
      | some n =>
        match s.ownerIx n p with
        | none => s
        | some o => s.sendShort n ⟨6, true, o, false, s.self p, d, m.bytes⟩) s
  else s

/-! Pages of a stream (R150, R187) -/

/-- KV pages that a page-list page names. -/
def State.listed (s : State) (p : PartIx) (list n : Nat) : List (BitVec 64) :=
  let b := s.readV p list (8 * n)
  (List.range n).map fun i => BitVec.ofNat 64 (leNat ((b.drop (8 * i)).take 8))

/-- The page-list page and KV pages of an entry, in that order; none before a page-list page is drawn. -/
def State.pagesOf (s : State) (p : PartIx) (e : Nat) : List (BitVec 64) :=
  let w := s.entry p e
  if ((s.ken p).xtra e).listed then BitVec.ofNat 64 (ePageList w) :: s.listed p (ePageList w) (eNPages w) else []

/-- Address of the stream block of entry `e` (R174). -/
def State.block (s : State) (p : PartIx) (e : Nat) : Nat := (s.region p 8).addr + 65536 * e

/-- A write to the address is discarded for a muzzled stream (R170). -/
def State.muzzledAt (s : State) (p : PartIx) (a : Nat) : Bool :=
  let k := s.ken p
  (List.range k.entries.length).any fun e =>
    let w := k.entry e
    eMuz w && (a / 65536 == s.block p e / 65536 || (s.pagesOf p e).any fun g => g.toNat / 65536 == a / 65536)

/-- The entry of a live stream that an address belongs to: its KV pages, page-list page or stream block (Tables 7-3 and 8-14). -/
def State.streamAt (s : State) (p : PartIx) (a : Nat) : Option Nat :=
  let k := s.ken p
  (List.range k.entries.length).find? fun e =>
    let w := k.entry e
    eLive w && (a / 65536 == s.block p e / 65536 || (s.pagesOf p e).any fun g => g.toNat / 65536 == a / 65536)

/-- Copies of an entry stop; their pages are returned with the entry's. -/
def Kennel.stopCopies (k : Kennel) (e : Nat) : Kennel :=
  { k with copies := k.copies.map fun c => if c.entry.toNat = e then { c with failed := true } else c }

/-- The stream becomes FAULTED with REASON FAULT; its FINAL record follows at the next boundary (Table 7-3). -/
def State.faultStream (s : State) (p : PartIx) (e : Nat) : State :=
  let w := s.entry p e
  if eLive w then
    let s := s.setEntry p e (withReason (withState w stFaulted) 4)
    let s := s.modX p e fun x => { x with final := 1, resume := false }
    s.modKen p fun k => { (k.stopCopies e) with
      pendingCmds := k.pendingCmds.map fun c => if scEntry c.cmd = e then { c with live := false } else c }
  else s

end Sys2Proof.Machine
end

