-- ==== Sys2Proof/Machine/Memory.lean ====
section
/-!
DEFINITION. Memory of a partition (08): uncorrectable errors (R204, Table 8-14), partial writes, swaps and model slots (R190 to R192),
patrol scrub and re-encryption (R182).
-/

namespace Sys2Proof.Machine

/-! Regions by entry number (R184) -/

def rgConst : Nat := 0
def rgModel (i : Fin 2) : Nat := 1 + i.val
def rgKv : Nat := 3
def rgSuspend : Nat := 6
def rgMirror : Nat := 7
def rgStreamIo : Nat := 8
def rgPlan : Nat := 9
def rgLibrary : Nat := 10

/-- Bytes of a region. -/
def MapRow.size (r : MapRow) : Nat := 2097152 * r.pages

/-- An address lies in a region. -/
def State.inRegion (s : State) (p : PartIx) (r a : Nat) : Bool :=
  let m := s.region p r
  decide (m.addr ≤ a ∧ a < m.addr + m.size)

/-! Uncorrectable errors (R204) -/

/-- FSW bit and stack number of an HBM3E stack, and FSW bit and device number of an LPDDR5X channel. -/
def stackUnit (st : Nat) : Fin 50 × Nat := (⟨16 + st % 8, by omega⟩, st % 8)
def channelUnit (ch : Nat) : Fin 50 × Nat := (⟨24 + ch % 96 / 16, by omega⟩, ch % 96 / 4)

/-- Where a physical address lies: its FSW bit and the stack or device number (R179 to R181); reserved frames follow the usable ones
(log 61). -/
def physUnit (n x : Nat) : Fin 50 × Nat :=
  let id := x / 2097152
  let g := x % 2097152 / 256
  if id < 16 * 9168 then stackUnit (4 * (id / 9168 / 8) + g % 16 % 4)
  else if id < reservedBase then channelUnit (n * ((id - 16 * 9168) / 34560) + g % n)
  else if id < reservedBase + 768 then stackUnit ((id - reservedBase) / 96)
  else channelUnit ((id - reservedBase - 768) / 384)

/-- MASTER of Table 13-4 for a reader. -/
def readerMaster (r : MemReader) (b : Fin 50) : BitVec 8 :=
  match r with
  | .patrol => 0x10
  | .swapCopy _ | .suspendCopy _ | .resumeCopy _ | .mirrorCopy | .ingestCopy _ => 0x11
  | _ => if b.val < 24 then 1 else 2

/-- ACCESS of Table 13-4 for a reader. -/
def readerAccess : MemReader → BitVec 4
  | .refill _ _ => 3
  | .swapCopy _ | .suspendCopy _ | .resumeCopy _ | .mirrorCopy | .ingestCopy _ => 6
  | _ => 1

/-- The event of an access that meets an uncorrectable error: counted, and latched for its stack or group (R204). -/
def State.memEvent (s : State) (p : PartIx) (a : Nat) (r : MemReader) : State :=
  let x := (s.phys p a).getD 0
  let u := physUnit s.partNo.lpShare x
  { s with uncorrected := s.uncorrected + 1 }.event
    { ErrEvent.of u.1 (readerMaster r u.1) (readerAccess r) (some p) (BitVec.ofNat 8 u.2) with addr := BitVec.ofNat 64 a }

/-- A model slot in which an error is found becomes FAULT at the next boundary (R190). -/
def State.badSlot (s : State) (p : PartIx) (i : Fin 2) : State :=
  s.modPart p fun x => { x with slotBad := x.slotBad.set i true }

/-- The model slot of a READY slot's address, if it lies in one. -/
def State.slotAt (s : State) (p : PartIx) (a : Nat) : Option (Fin 2) :=
  (List.finRange 2).find? fun i => s.inRegion p (rgModel i) a && (s.part p).slotState[i] == 2

/-- WLOAD_STATUS of an ingest: STATE, ERROR, VERIFIED (Table 8-11). -/
def wloadWord (state err verified : Nat) : BitVec 64 :=
  BitVec.ofNat 64 (packFields [(4, state), (8, err), (4, 0), (32, verified)])

/-- VERIFIED of a status word. -/
def wloadVerified (w : BitVec 64) : Nat := (w.extractLsb' 16 32).toNat

/-- Destination of an ingest: 0 MODEL0, 1 MODEL1, 2 LIBRARY; and its first page. -/
def Ingest.dest (g : Ingest) : Nat := recField g.manifest 49 2
def Ingest.page (g : Ingest) : Nat := recField g.manifest 64 32
def Ingest.key (g : Ingest) : IngestKey := ⟨BitVec.ofNat 2 g.dest, BitVec.ofNat 32 g.page⟩

/-- The ingest of a destination. -/
def Partition.ingestOf (x : Partition) (k : IngestKey) : Option Ingest := x.ingests.find? fun g => g.key == k

/-- An ingest changed in place. -/
def Partition.setIngest (x : Partition) (g : Ingest) : Partition :=
  { x with ingests := x.ingests.map fun h => if h.key = g.key then g else h }

/-- The ingest fails with an ERROR (Table 8-11): its slot, if it has become LOADING, becomes FAULT. -/
def State.failIngest (s : State) (p : PartIx) (k : IngestKey) (err : Nat) : State :=
  let x := s.part p
  let loading : Bool := match x.ingestOf k with
    | some g => g.started
    | none => false
  let s := s.setPart p { x with
    wloadStatus := wloadWord 3 err (wloadVerified x.wloadStatus), ingests := x.ingests.filter fun g => g.key != k
    failedIngests := x.failedIngests ++ x.ingests.filter fun g => g.key == k && g.started && g.dest != 2 }
  if loading && k.dest == 0 then s.badSlot p 0 else if loading && k.dest == 1 then s.badSlot p 1 else s

/-- The mirror is lost (R196): MIRROR_STATE 4, FSW bit 49, and a report about the partner, if a route names it (R269 cause 4). -/
def State.loseMirror (s : State) (p : PartIx) : State :=
  let x := s.part p
  if x.mirrorState = 1 ∨ x.mirrorState = 2 then
    let s := s.setPart p { x with mirrorState := 4, mirrorWait := false, mirrorDue := none }
    let s := s.event (ErrEvent.of 49 3 0 (some p) 0)
    let routes : List RouteEntry := match x.runPlan.or x.loadedPlan with
      | some pl => pl.routes.flatMap fun (t : RouteTable) => t.entries
      | none => []
    match routes.find? fun e => e.farAddr.toNat == s.pnum p 0x57 with
    | some e => s.report p e.farDev 4 1
    | none => s
  else s

/-- A copy of a stream meets an error: the stream is FAULTED (R171). -/
def State.failCopy (s : State) (p : PartIx) (e : BitVec 12) : State :=
  let s := s.modKen p fun k => { k with copies := k.copies.map fun c => if c.entry = e then { c with failed := true } else c }
  s.faultStream p e.toNat

/-- The event of an access that meets an uncorrectable error, and the end of the model slot in which it lies. -/
def State.metSlot (s : State) (p : PartIx) (a : Nat) (r : MemReader) : State :=
  let s := s.memEvent p a r
  match s.slotAt p a with
  | some i => s.badSlot p i
  | none => s

/-- The stream to which an address belongs, in any live state, is FAULTED (Table 7-3). -/
def State.faultAt (s : State) (p : PartIx) (a : Nat) : State :=
  match s.streamAt p a with
  | some e => s.faultStream p e
  | none => s

/-- An address belongs to a RUNNING stream. -/
def State.runningAt (s : State) (p : PartIx) (a : Nat) : Bool :=
  match s.streamAt p a with
  | some e => eState (s.entry p e) == stRunning
  | none => false

/-- What an access of a partition that meets an uncorrectable error at address `a` leads to (Table 8-14). A swap's copy stops there, and its slot
becomes FAULT at the next boundary; a mirror write at its holder is told to the source, which loses the mirror. -/
def State.metError (s : State) (p : PartIx) (a : Nat) (r : MemReader) : State :=
  let s := s.metSlot p a r
  match r with
  | .drd _ _ => if s.runningAt p a then s.faultAt p a else (s.faultAt p a).modPart p fun x => { x with poisoned := true }
  | .refill _ _ => s.modPart p fun x => x.freeze .unit
  | .swapCopy i => (s.badSlot p i).modPart p fun x => { x with
      swaps := x.swaps.map fun q => if two q.slot = i ∧ q.copying then { q with done := true } else q }
  | .suspendCopy e | .resumeCopy e => s.failCopy p e
  | .mirrorCopy =>
    if s.inRegion p rgMirror a then
      match s.deviceAt p 0x58 with
      | some dev => s.sendVc1 p dev mirrorFail []
      | none => s
    else (s.faultAt p a).loseMirror p
  | .ingestCopy k => s.failIngest p k 7
  | .loader => s
  | .patrol | .vc2 => s.faultAt p a

/-- The first damaged granule of a range, as an address of the partition. -/
def State.firstDamage (s : State) (p : PartIx) (a n : Nat) : Option Nat :=
  if s.damaged.isEmpty then none
  else (List.range (n / 256 + 2)).findSome? fun i =>
    let g := a - a % 256 + 256 * i
    if g < a + n then
      match s.phys p g with
      | some x => if s.damaged.contains x then some g else none
      | none => none
    else none

/-- A write by the hub of bytes that need not be whole granules: where it covers part of a damaged granule it is not applied there, and
counts as a read that met the error (R204). -/
def State.writeP (s : State) (p : PartIx) (a : Nat) (bs : Bytes) (r : MemReader) : State :=
  let e := a + bs.length
  let bad (g : Nat) : Bool := (s.firstDamage p g 256).isSome
  let lo := if a % 256 ≠ 0 ∧ bad (a / 256 * 256) then min e ((a / 256 + 1) * 256) else a
  let hi := if e % 256 ≠ 0 ∧ bad (e / 256 * 256) then max lo (e / 256 * 256) else e
  let s := if lo ≠ a then s.metError p a r else s
  let s := if hi ≠ e then s.metError p hi r else s
  s.writeV p lo ((bs.drop (lo - a)).take (hi - lo))

/-- A granule is damaged from here on. -/
def State.damage (s : State) (x : Nat) : State :=
  let g := x / 256 * 256
  if s.damaged.contains g then s else { s with damaged := g :: s.damaged }

/-! DRD granules -/

/-- A granule of a DRD or DRCV enters the crossing towards the fill buffer, once (R40). -/
def Cell.arrive (c : Cell) (tx : Fin 64) (j : BitVec 12) (d : Granule) : Cell :=
  match c.txs[tx] with
  | none => c
  | some t =>
    if t.arrived.getLsbD j.toNat ∨ t.g ≤ j.toNat then c
    else
      let c := { c with txs := c.txs.set tx (some { t with arrived := t.arrived ||| BitVec.twoPow 4096 j.toNat }) }
      let f : FillItem := ⟨tx, j, t.first + j.setWidth 14, d⟩
      if c.fill.length < fillDepth ∧ c.crossing.isEmpty then { c with fill := c.fill ++ [f] }
      else { c with crossing := c.crossing ++ [f] }

/-! Model slots and swaps (R190, R191) -/

/-- Steps of the partition follow one another; slot changes then wait for its boundaries. DEDUCED (log 32): at other times they take
effect at once, since no boundary comes before the start barrier that needs them. -/
def Partition.stepping (x : Partition) : Bool := x.jobState == 2 || x.jobState == 4

/-- An ingest into slot `i` of which `f` holds. -/
def Partition.slotIngest (x : Partition) (i : Fin 2) (f : Ingest → Bool) : Bool := x.ingests.any fun g => g.dest == i.val && f g

/-- Change the ingests into slot `i` of which `f` holds. -/
def Partition.modIngests (x : Partition) (i : Fin 2) (f : Ingest → Bool) (g : Ingest → Ingest) : Partition :=
  { x with ingests := x.ingests.map fun h => if h.dest == i.val && f h then g h else h }

def Ingest.lands (g : Ingest) : Bool := g.done && g.started && !g.landed
def Ingest.waits (g : Ingest) : Bool := !g.started

/-- Slot changes of a boundary, before variant choice (R190): FAULT, READY, then LOADING. DESIGN CHOICE (log 98): a slot in which an error was
found becomes FAULT first, and LOADING for a request accepted before that boundary only at the next. -/
def slotChange (x : Partition) (i : Fin 2) : Partition :=
  if x.slotBad[i] then
    { x with
      slotBad := x.slotBad.set i false
      slotState := x.slotState.set i 3
      swaps := x.swaps.filter fun j => two j.slot != i || !j.copying
      failedIngests := x.failedIngests.filter fun g => g.dest != i.val }
  else if x.swaps.any (fun j => two j.slot == i && j.done) || x.slotIngest i Ingest.lands then
    { x.modIngests i Ingest.lands fun g => { g with landed := true } with
      slotState := x.slotState.set i 2
      swaps := x.swaps.filter fun j => two j.slot != i || !j.done }
  else if x.swaps.any (fun j => two j.slot == i && !j.copying) || x.slotIngest i Ingest.waits then
    { x.modIngests i Ingest.waits fun g => { g with started := true } with
      slotState := x.slotState.set i 1
      swaps := x.swaps.map fun j => if two j.slot = i then { j with copying := true } else j }
  else x

/-- Bytes of a chunk. -/
def chunkBytes : Nat := 4194304

/-- Destination of an ingest as an address of the partition. -/
def State.ingestAddr (s : State) (p : PartIx) (g : Ingest) : Nat :=
  if g.dest = 2 then (s.region p rgLibrary).addr + 2097152 * g.page else (s.region p (1 + g.dest)).addr

/-- The first chunk not held whole. -/
def Ingest.first (g : Ingest) : Nat :=
  let n := recField g.manifest 96 32
  ((List.range n).find? fun i => !g.held.contains (BitVec.ofNat 32 i)).getD n

/-- Chunks verified and written, counted from the first one not held whole (Table 8-11); the tensors of portable form are written as the ingest
ends. -/
def Ingest.verified (g : Ingest) : Nat := if g.flushed && (recField g.manifest 48 1 == 0 || g.done) then g.first else 0

/-- VERIFIED as an ingest under way has it. -/
def State.showVerified (s : State) (p : PartIx) (k : IngestKey) : State :=
  match (s.part p).ingestOf k with
  | some g => if g.done then s else s.modPart p fun x => { x with wloadStatus := wloadWord 1 0 g.verified }
  | none => s

/-- Placed chunks verified before their slot became LOADING are written now (R198). -/
def State.writeStarted (s : State) (p : PartIx) : State :=
  (s.part p).ingests.foldl (fun s g =>
    if !g.started ∨ g.flushed then s
    else
      let s := s.modPart p fun x => x.setIngest { g with flushed := true }
      if recField g.manifest 48 1 = 1 then s
      else (g.content.foldl (fun s c => s.writeP p (s.ingestAddr p g + chunkBytes * c.1.toNat) c.2 (.ingestCopy g.key)) s).showVerified p g.key) s

def State.slotsAtBoundary (s : State) (p : PartIx) : State :=
  (s.modPart p fun x => slotChange (slotChange x 0) 1).writeStarted p

/-- Slot changes outside the steps of a job (log 32). -/
def State.slotsNow (s : State) (p : PartIx) : State := if (s.part p).stepping then s else s.slotsAtBoundary p

/-- Bytes of LIBRARY that a swap or an ingest under way holds (R190). -/
def State.libraryBusy (s : State) (p : PartIx) (lo n : Nat) : Bool :=
  let x := s.part p
  let meets (a b : Nat) : Bool := decide (lo < a + b ∧ a < lo + n)
  x.swaps.any (fun j => !j.done && meets (2097152 * j.src.toNat) j.len.toNat)
    || x.ingests.any fun g => g.dest == 2 && !g.done && meets (2097152 * g.page) (recField g.manifest 256 64)

/-- A slot is LOADING, or a request for it has been accepted (R190). -/
def State.slotBusy (s : State) (p : PartIx) (i : Fin 2) : Bool :=
  let x := s.part p
  x.slotState[i] == 1 || x.swaps.any (fun j => two j.slot == i) || x.slotIngest i fun g => !g.landed

/-- The swap under way into a slot. -/
def Partition.copying (x : Partition) (i : Fin 2) : Option SwapJob := x.swaps.find? fun j => two j.slot == i && j.copying && !j.done

/-- The copy under way into slot `i` has written `n` bytes. -/
def State.copiedTo (s : State) (p : PartIx) (i : Fin 2) (n : Nat) : State :=
  s.modPart p fun x => { x with
    swaps := x.swaps.map fun q => if two q.slot = i ∧ q.copying ∧ !q.done then { q with copied := n } else q }

/-- The copy of a swap reaches byte `n` of its slot, or stops at a damaged granule, with which the slot becomes FAULT (R190, R191). -/
def State.copySwap (s : State) (p : PartIx) (i : Fin 2) (n : Nat) : State :=
  match (s.part p).copying i with
  | none => s
  | some j =>
    let src := (s.region p rgLibrary).addr + 2097152 * j.src.toNat
    let dst := (s.region p (rgModel i)).addr
    let n := min n j.len.toNat
    if n ≤ j.copied then s
    else
      match s.firstDamage p (src + j.copied) (n - j.copied) with
      | some g =>
        let s := s.writeP p (dst + j.copied) (s.readV p (src + j.copied) (g - src - j.copied)) (.swapCopy i)
        (s.copiedTo p i (g - src)).metError p g (.swapCopy i)
      | none =>
        (s.writeP p (dst + j.copied) (s.readV p (src + j.copied) (n - j.copied)) (.swapCopy i)).copiedTo p i n

/-- The copy into slot `i` has read what stands before address `a` of LIBRARY. -/
def State.copyUpTo (s : State) (p : PartIx) (i : Fin 2) (a : Nat) : State :=
  match (s.part p).copying i with
  | none => s
  | some j => s.copySwap p i (a / 256 * 256 - ((s.region p rgLibrary).addr + 2097152 * j.src.toNat))

/-- Swaps go on, each by an amount that is a free value in whole granules, before an access that could see how far they are: one to
LIBRARY or to a LOADING slot (R191). -/
def State.swapsProgress (s : State) (p : PartIx) (a : Nat) : State :=
  let loading (i : Fin 2) : Bool := (s.part p).slotState[i] == 1 && s.inRegion p (rgModel i) a
  if s.inRegion p rgLibrary a || loading 0 || loading 1 then
    (List.finRange 2).foldl (fun s i =>
      match (s.part p).copying i with
      | none => s
      | some _ => let d := s.draw 64; d.2.copySwap p i (256 * d.1.toNat)) s
  else s

/-- The model slot in LOADING state that an address lies in (R192). -/
def State.loadingAt (s : State) (p : PartIx) (a : Nat) : Option (Fin 2) :=
  (List.finRange 2).find? fun i => (s.part p).slotState[i] == 1 && s.inRegion p (rgModel i) a

/-- An ingest has written the chunk in which byte `o` of its slot lies. -/
def Ingest.wrote (g : Ingest) (o : Nat) : Bool :=
  g.flushed && (g.done || (recField g.manifest 48 1 == 0 && g.held.contains (BitVec.ofNat 32 (o / chunkBytes))))

/-- The copy into a LOADING slot has written the granule at address `a`; what a copy that has ended wrote counts until the slot leaves
LOADING. -/
def State.copyWrote (s : State) (p : PartIx) (i : Fin 2) (a : Nat) : Bool :=
  let o := a - (s.region p (rgModel i)).addr
  let x := s.part p
  x.swaps.any (fun j => two j.slot == i && j.copying && decide (o < j.copied)) || x.slotIngest i (·.wrote o)
    || x.failedIngests.any fun g => g.dest == i.val && g.wrote o

/-- The copy of a swap ends (R190, R191). -/
def execSwapCopyDone (p : PartIx) (slot : Fin 2) (s : State) : Host.Outcome State Fault Refusal :=
  match (s.part p).copying slot with
  | none => done s
  | some j =>
    let s := s.copySwap p slot j.len.toNat
    let s := s.modPart p fun x => { x with
      swaps := x.swaps.map fun q => if two q.slot = slot ∧ q.copying then { q with done := true } else q }
    done (s.slotsNow p)

/-- An access meets an uncorrectable error in memory: the granule is damaged from here on; a DRD takes it as zeros; a swap has written
what stands before it (R191, Table 8-14). -/
def execMemoryError (p : PartIx) (addr : BitVec 64) (r : MemReader) (s : State) : Host.Outcome State Fault Refusal :=
  match s.phys p addr.toNat with
  | none => done s
  | some x =>
    let s : State := match r with
      | .swapCopy i => s.copyUpTo p i addr.toNat
      | _ => s
    let s := ((s.damage x).metError p addr.toNat r).slotsNow p
    match r with
    | .drd c tx =>
      let j := match (s.cell c).txs[tx] with
        | some t => (addr.toNat - t.mem.toNat) / 256
        | none => 4096
      done (if j < 4096 ∧ s.ownsCol p c.col.val then s.modCell c fun k => k.arrive tx (BitVec.ofNat 12 j) 0 else s)
    | _ => done s

/-! Patrol scrub (R204) -/

/-- Address of the granule in which a patrol read of a channel meets an error; which granule of the frame it is, is a free value. An
LPDDR5X channel holds every granule g of a frame with g mod n equal to its place in the share (R181); frame `unit` of a channel is its
`unit`-th run of 8,192 granules. -/
def patrolAddr (n : Nat) (lp : Bool) (ch unit v : Nat) : Nat :=
  if lp then
    if 5760 ≤ unit then 2097152 * (reservedBase + 768 + 384 * ch + (unit - 5760)) + v % 8192 * 256
    else
      let j := ch % n
      let per := (8192 - j + n - 1) / n
      let l := unit * 8192 + v % 8192
      2097152 * (16 * 9168 + 34560 * (ch / n) + l / per % (5760 * n)) + (j + n * (l % per)) * 256
  else if 573 ≤ unit then 2097152 * spillFrame (ch / 32) (ch % 32) (unit - 573) + v % 8192 * 256
  else
    let c := 8 * (ch / 32 / 4) + ch % 32 / 4
    let q := 4 * (ch % 32 % 4) + ch / 32 % 4
    2097152 * (9168 * c + (16 * unit + v % 8192 / 512) % 9168) + (16 * (v % 512) + q) * 256

/-- The partition and the address of a physical byte, if one maps it. -/
def State.mapperOf (s : State) (x : Nat) : Option (PartIx × Nat) :=
  (List.finRange 16).findSome? fun p =>
    (s.regions p).findSome? fun r =>
      (List.range r.pages).findSome? fun i =>
        let a := 2097152 * (r.first + i)
        match s.phys p a with
        | some y => if y = 2097152 * (x / 2097152) then some (p, a + x % 2097152) else none
        | none => none

/-- A patrol read meets the damaged granule at physical address `x`: a model slot that it lies in becomes FAULT at the next boundary. In a
reserved frame it latches the bit of its stack or group, and for link replay spill also that of the port's optical engine (Table 8-14). -/
def State.patrolMeets (s : State) (x : Nat) : State :=
  match s.mapperOf x with
  | some (p, a) => (s.metError p a .patrol).slotsNow p
  | none =>
    let u := physUnit s.partNo.lpShare x
    let s := { s with uncorrected := s.uncorrected + 1 }.event
      { ErrEvent.of u.1 0x10 1 none (BitVec.ofNat 8 u.2) with addr := BitVec.ofNat 64 x }
    match s.spillPort (x / 2097152) with
    | some m => s.spillError m
    | none => s

/-- Patrol scrub, which begins in READY (Table 15-4), reads the next frame of a channel: a corrected error counts; an uncorrectable one damages a granule of the frame; the read
meets every granule of the frame that is damaged, by it or before it, since the scrub leaves those as they are (R204). -/
def execPatrolScrubRead (lpddr : Bool) (channel : Fin 256) (r : ScrubResult) (s : State) : Host.Outcome State Fault Refusal :=
  let n := s.partNo.lpShare
  if !s.isReady || (lpddr && decide (n * s.partNo.cols ≤ channel.val)) || (!lpddr && decide (s.partNo.stacks * 32 ≤ channel.val)) then done s
  else
    let unit : Nat := if lpddr then ((s.patrolLp.toList[channel.val]?).getD 0).toNat else (s.patrolHbm[channel]).toNat
    let s : State :=
      if h : lpddr = true ∧ channel.val < 96 then
        { s with patrolLp := s.patrolLp.set channel.val (BitVec.ofNat 16 ((unit + 1) % 6144)) h.2 }
      else if lpddr then s
      else { s with patrolHbm := s.patrolHbm.set channel (BitVec.ofNat 16 ((unit + 1) % 576)) }
    let at_ (v : Nat) : Nat := patrolAddr n lpddr channel.val unit v
    let s : State := match r with
      | .clean => s
      | .corrected => { s with corrected := s.corrected + 1 }
      | .uncorrectable => let d := s.draw 16; d.2.damage (at_ d.1.toNat)
    done ((s.damaged.filter fun g => (List.range 8192).any fun v => at_ v == g).foldl State.patrolMeets s)

/-! Re-encryption (R182, Table 11-5) -/

/-- A write counter near its limit: a new LPDDR5X key for the channel, beside the old one until its part is written under it. -/
def execReencryption (p : PartIx) (channel : Fin 96) (s : State) : Host.Outcome State Fault Refusal :=
  let x := s.part p
  match x.keys.lpKeys.find? fun k => k.1 == channel with
  | none => done s
  | some k =>
    if x.keys.lpOld.any (fun o => o.1 == channel) ∨ !s.ownsCol p (channel.val / s.partNo.lpShare) then done s
    else
      let d := s.entropy
      done (d.2.setPart p { x with keys := { x.keys with
        lpOld := k :: x.keys.lpOld
        lpKeys := x.keys.lpKeys.map fun o => if o.1 = channel then (channel, Config.entropy d.1) else o
        lpGen := x.keys.lpGen + 1 } })

/-- The channel's part stands under the new key: its old one is erased. -/
def execReencryptionDone (p : PartIx) (channel : Fin 96) (s : State) : Host.Outcome State Fault Refusal :=
  if s.ownsCol p (channel.val / s.partNo.lpShare) then
    done (s.modPart p fun x => { x with keys := { x.keys with lpOld := x.keys.lpOld.filter fun o => o.1 != channel } })
  else done s

end Sys2Proof.Machine
end

