-- ==== Sys2Proof/Machine/Commands.lean ====
section
/-!
DEFINITION. Kennel commands (R153, R154, R168), doorbells (R156) and the rows ADMIT to CQ_HEAD.
-/

namespace Sys2Proof.Machine

/-! Reply status (Table 7-6) -/

def rpOk : Nat := 0
def rpCancelled : Nat := 1
def rpDone : Nat := 2
def rpNoEntry : Nat := 3
def rpBusy : Nat := 4
def rpBadField : Nat := 5
def rpNoBark : Nat := 6
def rpBarkFull : Nat := 7
def rpTooLong : Nat := 8
def rpBadState : Nat := 9
def rpAlready : Nat := 10
def rpFaulted : Nat := 11
def rpNotHome : Nat := 12

/-! Checks (R154) -/

/-- A reserved field is nonzero, by the ARGS of Table 7-5; MASK bits 5 to 7 are reserved. DESIGN CHOICE (log 66): the STREAM_ID of a SEED,
which Table 7-4 exempts from comparison, is not taken as reserved, and any value is accepted. -/
def scReserved (c : SqEntry) : Bool :=
  let z (lo n : Nat) : Bool := scArg c lo n == 0
  let head := getF c 8 8 == 0 && getF c 44 20 == 0
  let args : Bool := match scCmd c with
    | 1 => z 135 9 && z 156 36 && z 272 112
    | 6 => z 101 3 && z 109 275
    | 7 => z 128 256
    | _ => z 0 384
  !(head && args)

/-- Two Heel times lie more than 2^62 ht apart (R154, R244). -/
def tooFar (a b : BitVec 64) : Bool := decide (2 ^ 62 < (a - b).toInt.natAbs)

/-- A BARKCFG of Table 7-11. -/
def barkCfgOk (c : Nat) : Bool :=
  decide (c % 16 ≤ 3) && decide (c / 16 % 16 ≤ 2) && decide (c / 256 % 16 ≤ 3) && decide (c / 4096 ≤ 2)

/-- A field is outside its range. -/
def State.badField (s : State) (p : PartIx) (c : SqEntry) : Bool :=
  let far := tooFar (BitVec.ofNat 64 (scArg c 0 64)) s.heelNow
  match scCmd c with
  | 1 => far || scArg c 96 32 == 0 || !barkCfgOk (scArg c 256 16) || decide (s.pnum p 0x41 ≤ scArg c 144 12)
  | 6 => (scArg c 97 1 == 1 && far)
  | _ => false

/-- Live Bark streams of a partition (R177). -/
def Kennel.barkLive (k : Kennel) : Nat := (k.entries.filter fun w => eLive w && eBark w).length

/-- Bark streams that the partition may have (R177). DESIGN CHOICE (log 95): none while no plan is running. -/
def State.barkLimit (s : State) (p : PartIx) : Nat :=
  let plan := match (s.part p).runPlan with
    | some pl => pl.barkStr.toNat
    | none => 0
  min (s.pnum p 0x47) plan

/-- The refusal of a command, by the order of R154; CANCEL's outcomes are its own. -/
def State.refusal (s : State) (p : PartIx) (c : SqEntry) : Option Nat :=
  let n := s.pnum p 0x41
  let cmd := scCmd c
  let w := s.entry p (scEntry c)
  let st := eState w
  if !s.isHome p then some rpNotHome
  else if cmd = 0 ∨ 7 < cmd ∨ scReserved c then some rpBadField
  else if n ≤ scEntry c then some rpNoEntry
  else if cmd = 1 ∧ st ≠ stFree then some rpBusy
  else if cmd ≠ 1 ∧ cmd ≠ 7 ∧ (st = stFree ∨ eSid w ≠ scSid c) then some rpNoEntry
  else if s.badField p c then some rpBadField
  else match cmd with
    | 1 =>
      if 536870912 < (scArg c 96 32 + 8) * s.pnum p 0x46 then some rpTooLong
      else if scArg c 134 1 = 1 ∧ s.partNo.bark = 0 then some rpNoBark
      else if scArg c 134 1 = 1 ∧ s.barkLimit p ≤ (s.ken p).barkLive then some rpBarkFull
      else none
    | 2 =>
      if st = stEnded then some rpDone else if st = stCancelled then some rpAlready
      else if st = stFaulted then some rpFaulted else none
    | 3 => if eLive w then none else some rpBadState
    | 4 => if st = stQueued ∨ st = stRunning then none else some rpBadState
    | 5 => if st = stSuspended then none else some rpBadState
    | 6 => if eLive w then none else some rpBadState
    | _ => none

/-! Effects -/

/-- ADMIT fills a FREE entry (R151, Table 7-3). -/
def State.admitStream (s : State) (p : PartIx) (c : SqEntry) : State :=
  let e := scEntry c
  let w : Entry := BitVec.ofNat 512 (packFields [(4, stAdmitted), (4, p.val), (3, scArg c 128 3), (1, scArg c 131 1), (2, scArg c 132 2),
    (2, scArg c 132 2), (1, scArg c 134 1), (1, 0), (1, 0), (1, 0), (12, 0xFFF), (8, 0), (8, 0), (4, 0), (1, 0), (11, 0), (64, scSid c),
    (64, scArg c 0 64), (32, scArg c 64 32), (32, 0), (32, scArg c 96 32), (12, scArg c 144 12), (20, 0), (64, 0), (17, s.num 0x5000 1),
    (15, 0), (16, 0), (16, 0), (16, scArg c 256 16)])
  let s := s.setEntry p e w
  let s := s.modX p e fun _ => { EntryX.free with start := BitVec.ofNat 64 (scArg c 192 64) }
  if eBark w then
    s.modKen p fun k => { k with bark := k.bark.filter (fun b => b.entry.toNat != e)
      ++ [⟨BitVec.ofNat 12 e, [], List.replicate 240 0, [], [], 0, 0, 0, 0, 0, false⟩] }
  else s

/-- CANCEL of a live entry (R168): its pending commands no longer reach it, and its copies stop (R193). -/
def State.cancel (s : State) (p : PartIx) (e : Nat) : State :=
  let w := s.entry p e
  let w' := withState w stCancelled
  let s := s.setEntry p e (if eState w = stRunning then withMuz w' true else w')
  let s := s.modX p e fun x => { x with resume := false, tags := [] }
  let s := s.modKen p fun k => { (k.stopCopies e) with
    pendingCmds := k.pendingCmds.map fun c => if scEntry c.cmd = e then { c with live := false } else c }
  s.tellMembers p (.cancel (BitVec.ofNat 12 e))

/-- MODIFY at a boundary (Table 7-5). -/
def State.modify (s : State) (p : PartIx) (c : SqEntry) : State :=
  let w := s.entry p (scEntry c)
  let on (i : Nat) : Bool := scArg c (96 + i) 1 == 1
  let w := if on 0 then setF w 8 3 (scArg c 104 3) else w
  let w := if on 1 then withMissed (withDeadline w (BitVec.ofNat 64 (scArg c 0 64))) false else w
  let w := if on 2 then setF w 192 32 (scArg c 64 32) else w
  let w := if on 3 then (let w := setF w 14 2 (scArg c 107 2); withKw w (min (eKw w) (eKwMax w))) else w
  let w := if on 4 then withRate (withKw w (eKwMax w)) (s.num 0x5000 1) else w
  s.setEntry p (scEntry c) w

/-- SEED writes one key, and tells the members (R172, R173). -/
def State.seed (s : State) (p : PartIx) (c : SqEntry) : State :=
  let k : BitVec 128 := BitVec.ofNat 128 (scArg c 0 128)
  let s := s.modKen p fun x => { x with seeds := x.seeds.set (scEntry c) k }
  s.tellMembers p (.seed (BitVec.ofNat 12 (scEntry c)) k)

/-- No step runs and none has been prepared: STOPPED, IDLE, or waiting for a start barrier. -/
def Partition.seedsAtOnce (x : Partition) : Bool := x.jobState == 3 || x.jobState == 0 || x.starting

/-- A key takes effect at once, in the retained images too, from which the job runs again (R261). -/
def State.putSeed (s : State) (p : PartIx) (i : Nat) (k : BitVec 128) : State :=
  s.modPart p fun x => { x with
    kennel := { x.kennel with seeds := x.kennel.seeds.set i k }
    images := x.images.map fun m => { m with kennel := { m.kennel with seeds := m.kennel.seeds.set i k } } }

/-- A SEED of a partition that runs no step takes effect at once: STOPPED (R261); IDLE, where a spare takes the seeds of the job that it will
run again (R271 row 6). DEDUCED (log 68): IDLE too, since no step can have begun with the old key. -/
def State.seedNow (s : State) (p : PartIx) (c : SqEntry) : State :=
  let k : BitVec 128 := BitVec.ofNat 128 (scArg c 0 128)
  (s.putSeed p (scEntry c) k).tellMembers p (.seed (BitVec.ofNat 12 (scEntry c)) k)

/-- The effect of a command that is not refused; a command that takes effect at a boundary waits, behind `wait` until one without a record
(R261). -/
def State.command (s : State) (p : PartIx) (c : SqEntry) (wait : Bool) : State :=
  let e := scEntry c
  let later (s : State) : State := s.modKen p fun k => { k with pendingCmds := k.pendingCmds ++ [⟨c, true, wait⟩] }
  match scCmd c with
  | 1 => s.admitStream p c
  | 2 => s.cancel p e
  | 3 => if wait then later s else s.setEntry p e (withCloseReq (s.entry p e) true)
  | 4 =>
    let s := s.modX p e fun x => { x with tags := x.tags ++ [BitVec.ofNat 16 (scTag c)] }
    if wait then later s else s.setEntry p e (withSusReq (s.entry p e) true)
  | 5 =>
    let s := s.modX p e fun x => { x with tags := x.tags ++ [BitVec.ofNat 16 (scTag c)] }
    if wait then later s else s.modX p e fun x => { x with resume := true }
  | 6 => later s
  | 7 => if (s.part p).jobState = 3 ∨ (s.part p).jobState = 0 then s.seedNow p c else later s
  | _ => s

/-- The step under which the serial log keeps an item (R257, R260): while steps are run again, the last one that has a record. -/
def State.logStep (s : State) (p : PartIx) : BitVec 64 :=
  let x := s.part p
  if x.jobState = 4 then x.images.foldl (fun a i => if x.stepNow < i.step ∧ a < i.step then i.step else a) x.stepNow else x.stepNow

/-- A command enters the serial log while the partition has a job. -/
def State.logItem (s : State) (p : PartIx) (fast : Bool) (c : BitVec 512) : State :=
  if (s.part p).jobState = 0 then s
  else s.modPart p fun x => { x with log := x.log ++ [⟨s.logStep p, fast, c⟩] }

/-- REPLY status of a command that is not refused; SUSPEND and RESUME are answered later. -/
def lateReply (cmd : Nat) : Bool := cmd == 4 || cmd == 5

/-- OUT_WR and FEAT_WR of the block of a stream that a Bark unit serves start at 0 as it is admitted. DESIGN CHOICE (log 17). -/
def State.barkFresh (s : State) (p : PartIx) (e : Nat) : State :=
  (s.writeP p (s.block p e + 0x1010) (leBytes 8 0) .vc2).writeP p (s.block p e + 0x1020) (leBytes 8 0) .vc2

/-- Apply a ring command: refusal or effect, log, reply (R152 to R154). DESIGN CHOICE (log 41): the LEN of a refusal is the addressed
stream's, and 0 where the command names no stream that the entry holds. -/
def State.ring (s : State) (p : PartIx) (c : SqEntry) : State :=
  let e := scEntry c
  match s.refusal p c with
  | some code =>
    let w := s.entry p e
    let len := if scCmd c != 1 && scCmd c != 7 && decide (e < s.pnum p 0x41) && eState w != stFree && eSid w == scSid c then eLen w else 0
    s.reply p code (scTag c) e (scSid c) len false
  | none =>
    let x := s.part p
    let s := s.logItem p false c
    let s := s.command p c (x.jobState == 3 || x.jobState == 4)
    let s := if scCmd c = 1 ∧ scArg c 134 1 = 1 then s.barkFresh p e else s
    if lateReply (scCmd c) then s
    else s.reply p (if scCmd c = 2 then rpCancelled else rpOk) (scTag c) e (scSid c)
      (if scCmd c = 7 then 0 else eLen (s.entry p e)) false

/-- The Kennel reads the next entry of the submission ring, `c`, unless the partition owns no columns (R273), its link is down, the ring is
empty, the completion ring has no free record, or the device Muzzle is in force (R157, R319). -/
def State.readRing (s : State) (p : PartIx) (c : SqEntry) : State :=
  let k := s.ken p
  let full := decide ((k.cqWrite.toNat + 1) % s.pnum p 0x45 = k.cqHead.toNat % s.pnum p 0x45) || !k.kept.isEmpty
  if (s.colsOf p).isEmpty ∨ !s.pcieUp (s.linkOf p) ∨ k.sqHead = k.sqTail ∨ full ∨ s.faults.muzzle then s
  else
    let size := s.pnum p 0x43
    let h := (k.sqHead.toNat + 1) % size
    (s.modKen p fun k => { k with sqHead := BitVec.ofNat 12 h }).ring p c

/-! Rows 71 to 77. A ring entry whose CMD is another row's is applied as what it says. -/

def execAdmitStream (p : PartIx) (c : BitVec 512) (s : State) : Host.Outcome State Fault Refusal := done (s.readRing p c)

def execCancelStream (p : PartIx) (c : BitVec 512) (s : State) : Host.Outcome State Fault Refusal := done (s.readRing p c)

def execCloseStream (p : PartIx) (c : BitVec 512) (s : State) : Host.Outcome State Fault Refusal := done (s.readRing p c)

def execSuspendStream (p : PartIx) (c : BitVec 512) (s : State) : Host.Outcome State Fault Refusal := done (s.readRing p c)

def execResumeStream (p : PartIx) (c : BitVec 512) (s : State) : Host.Outcome State Fault Refusal := done (s.readRing p c)

def execModifyStream (p : PartIx) (c : BitVec 512) (s : State) : Host.Outcome State Fault Refusal := done (s.readRing p c)

def execSeedKey (p : PartIx) (c : BitVec 512) (s : State) : Host.Outcome State Fault Refusal := done (s.readRing p c)

/-! Doorbells (R156) -/

/-- An ignored doorbell write. -/
def State.badDoorbell (s : State) (p : PartIx) : State := s.modKen p fun k => { k with doorbellBad := k.doorbellBad + 1 }

/-- The status that a fast cancel finds, and whether it changes the entry (R156, R168). -/
def State.fastStatus (s : State) (p : PartIx) (e sid : Nat) : Nat :=
  let w := s.entry p e
  let st := eState w
  if !s.isHome p then rpNotHome
  else if s.pnum p 0x41 ≤ e ∨ st = stFree ∨ eSid w % 2 ^ 32 ≠ sid then rpNoEntry
  else if st = stEnded then rpDone else if st = stCancelled then rpAlready
  else if st = stFaulted then rpFaulted else rpCancelled

/-- A fast cancel: the reply carries the entry's full STREAM_ID, and is lost when it had no effect and finds the places full (R157). -/
def State.fastCancel (s : State) (p : PartIx) (w : BitVec 64) : State :=
  let e := (w.extractLsb' 0 12).toNat
  let tag := (w.extractLsb' 16 16).toNat
  let sid := (w.extractLsb' 32 32).toNat
  if w.extractLsb' 12 4 ≠ 0 then s.badDoorbell p
  else
    let st := s.fastStatus p e sid
    let x := s.entry p e
    let known := decide (e < s.pnum p 0x41) && eState x != stFree
    let rsid := if known then eSid x else sid
    let len := if st = rpNoEntry ∨ st = rpNotHome then 0 else eLen x
    if st = rpCancelled then
      let s := (s.logItem p true (w.setWidth 512)).cancel p e
      s.reply p st tag e rsid len false
    else s.reply p st tag e rsid len true

/-- FAST_CANCEL. A partition that owns no columns has no entry (R273). -/
def execFastCancel (p : PartIx) (w : HostWrite (BitVec 64)) (s : State) : Host.Outcome State Fault Refusal :=
  done (s.hostTakes p w.via (s.fastCancel p w.value))

/-- SQ_TAIL. -/
def execSqTail (p : PartIx) (d : HostWrite (BitVec 32)) (s : State) : Host.Outcome State Fault Refusal :=
  let w := d.value
  done (s.hostTakes p d.via (
    if w.toNat / 4096 ≠ 0 ∨ s.pnum p 0x43 ≤ w.toNat then s.badDoorbell p
    else s.modKen p fun k => { k with sqTail := w.setWidth 12 }))

/-- CQ_HEAD: never past the last record written; records that waited are written. -/
def execCqHead (p : PartIx) (d : HostWrite (BitVec 32)) (s : State) : Host.Outcome State Fault Refusal :=
  let w := d.value
  let size := s.pnum p 0x45
  let k := s.ken p
  let dist (a : Nat) : Nat := (a + size - k.cqHead.toNat) % size
  done (s.hostTakes p d.via (
    if w.toNat / 4096 ≠ 0 ∨ size ≤ w.toNat ∨ dist k.cqWrite.toNat < dist w.toNat then s.badDoorbell p
    else (s.modKen p fun k => { k with cqHead := w.setWidth 12 }).flushCq (k.kept.length + 1) p))

end Sys2Proof.Machine
end

