-- ==== Sys2Proof/Machine/LinkRows.lean ====
section
/-!
DEFINITION. Commands of the Jaldar ports: training and failure (R227 to R233), the position wheel (R211 to R216), the unsequenced items
received (R219 to R224), items sent. A command to a port that the part number lacks has no effect (R3).
-/

namespace Sys2Proof.Machine

/-! Port states -/

def execTrainingDone (n : PortIx) (prbs : BitVec 16) (rtt : BitVec 32) (digest : Bytes) (s : State) :
    Host.Outcome State Fault Refusal :=
  let x := s.port n
  if !s.hasPort n ∨ x.state ≠ 1 then done s
  else
    let s := s.setPort n { x with prbs := prbs, rtt := rtt }
    if digest ≠ s.ownerDigest n then done (s.modPort n fun x => { x with state := 2 })
    else if s.num 0x3400 1 < prbs.toNat then done (s.attemptFailed n)
    else done (s.portUp n true)

def execTrainingFail (n : PortIx) (s : State) : Host.Outcome State Fault Refusal :=
  if !s.hasPort n ∨ (s.port n).state ≠ 1 then done s else done (s.attemptFailed n)

def execLaneLockLoss (n : PortIx) (ns : BitVec 32) (s : State) : Host.Outcome State Fault Refusal :=
  if s.hasPort n ∧ (s.port n).state = 3 ∧ s.num 0x3400 3 < ns.toNat then done (s.portDown n 2) else done s

def execDownPattern (n : PortIx) (s : State) : Host.Outcome State Fault Refusal :=
  if s.hasPort n ∧ (s.port n).state = 3 then done (s.portDown n 4) else done s

/-- A flit waits for credit on the port; items that are not sequenced need none. -/
def State.waitsCredit (s : State) (n : PortIx) : Bool :=
  let x := s.port n
  let counts (o : OutFlit) : Bool := match o.body with
    | .short f => f.sqd
    | .data _ => true
  (x.q0 ++ x.qDetour ++ x.qBulk ++ x.qByp).any fun o => counts o && !s.credit n (s.outIx n o) o.chan o.body.units

/-- The credit timeout fires: no CREDIT or BEACON for 0x3400.04 while a flit waits for credit (R222). -/
def execCreditTimeout (n : PortIx) (s : State) : Host.Outcome State Fault Refusal :=
  if s.hasPort n ∧ (s.port n).state = 3 ∧ s.waitsCredit n then
    let s := s.passTo (65536 * ((s.port n).creditAt.toNat + 1000 * s.num 0x3400 4))
    done (s.portDown n 3)
  else done s

def execFastRetrainDone (n : PortIx) (s : State) : Host.Outcome State Fault Refusal :=
  if s.hasPort n ∧ (s.port n).state = 4 then done (s.portUp n false) else done s

def execFastRetrainFail (n : PortIx) (s : State) : Host.Outcome State Fault Refusal :=
  if s.hasPort n ∧ (s.port n).state = 4 then done (s.attemptFailed n) else done s

/-- When the down whose grace period ends next began: that of the oldest items put aside, else the last one. -/
def Port.graceFrom (x : Port) : BitVec 64 :=
  match x.graceHeld with
  | h :: _ => h.1
  | [] => x.downSince

/-- The grace period of a down ends without recovery by a fast retrain: VC2 and BYP items that it cut off are flushed, with those that wait on
the port if it is still down from then, and requests end as LINK_LOST (R233). -/
def execLinkGraceExpiry (n : PortIx) (s : State) : Host.Outcome State Fault Refusal :=
  let x := s.port n
  if !s.hasPort n ∨ (!x.grace ∧ x.graceHeld = []) then done s
  else
    let t := x.graceFrom
    let s := s.passTo (65536 * (t.toNat + 1000 * s.num 0x3400 7))
    let current : Bool := x.grace && x.downSince == t
    let flush (o : OutFlit) : Bool := current && x.state != 3 && decide (2 ≤ o.chan.val)
    let gone := (x.graceHeld.filter fun h => h.1 == t).map (·.2)
      ++ ((x.replay.map (·.out)) ++ x.q0 ++ x.qDetour ++ x.qBulk ++ x.qByp).filter flush
    let keep (l : List OutFlit) : List OutFlit := l.filter fun o => !flush o
    let s := s.modPort n fun x => { x with
      grace := x.grace && !current
      graceHeld := x.graceHeld.filter fun h => h.1 != t
      replay := x.replay.filter fun r => !flush r.out
      q0 := keep x.q0
      qDetour := keep x.qDetour
      qBulk := keep x.qBulk
      qByp := keep x.qByp }
    done (gone.foldl (fun s o =>
      match o.from_ with
      | .vc2 p t => s.endVc2 p t 1 0 0
      | .transit m w c u => s.freeUnits m (ownIx w) c u
      | _ => s) s)

/-! The wheel (R211 to R215) -/

/-- A position belongs to the owner whose range holds it. -/
def State.positionOwner (s : State) (n : PortIx) (pos : Nat) : Option (BitVec 3) :=
  ((List.range 8).find? fun i =>
    let o := s.ownerAt n (BitVec.ofNat 3 i)
    o.kind != 0 && o.holds pos).map (BitVec.ofNat 3)

/-- Positions in [a, b) that are not reserve positions. -/
def openPositions (a b : Nat) : Nat := (b - a) - (b / 64 - a / 64)

/-- An allocation holds a position (R215). -/
def holdsPosition (al : Option (BitVec 16 × BitVec 16)) (pos : Nat) : Bool :=
  match al with
  | none => true
  | some (slot0, cnt) => decide (slot0.toNat ≤ pos ∧ openPositions slot0.toNat pos < cnt.toNat)

/-- Move the first flit of a list that satisfies `f` out of it. -/
def takeFirst (f : OutFlit → Bool) : List OutFlit → Option (OutFlit × List OutFlit)
  | [] => none
  | o :: os => if f o then some (o, os) else (takeFirst f os).map fun r => (r.1, o :: r.2)

/-- A replay entry that is to be sent again at a position of its owner: order 1 for VC0 in its allocation, which is one of its primary port,
else order 3 (R224). -/
def State.resendAt (s : State) (n : PortIx) (w : BitVec 3) (first : Bool) (pos : Nat) : Option ReplayEntry :=
  (s.port n).replay.find? fun r => r.resend != 0 && r.out.owner == w &&
    (match r.out.body with
      | .data _ => (r.out.primary == n && r.out.first && holdsPosition r.out.alloc pos) == first
      | .short _ => false)

/-- The owner's positions carry only idle flits: its partition is not ACTIVE (R275), it is fenced, or the device Muzzle is in force (R319). -/
def State.silenced (s : State) (n : PortIx) (w : BitVec 3) : Bool :=
  s.faults.muzzle || (match s.localOf n w with
    | some p => (s.part p).fenced || (s.part p).partState != 1
    | none => false)

/-- Bytes of an item body replaced from byte `i` on. -/
def overwrite (b : Bytes) (i : Nat) (v : Bytes) : Bytes := b.take i ++ v ++ b.drop (i + v.length)

/-- A HEEL item is stamped as its first bit leaves, the port's transmit delay added: T1 of a REQ, T3 of a RESP (R246). -/
def State.stampHeel (s : State) (n : PortIx) (f : ShortFlit) : ShortFlit × State :=
  if f.item ≠ 4 then (f, s)
  else
    let t := s.heel.now + Config.txDelay n (s.port n).upSince
    if recField f.body 0 2 = 0 then
      ({ f with body := overwrite f.body 8 (leBytes 8 t.toNat) }, { s with heel := { s.heel with t1 := some t } })
    else ({ f with body := overwrite f.body 24 (leBytes 8 t.toNat) }, s)

/-- One short flit: replays first, then module items, then owners in rotation (R212). -/
def State.sendOneShort (s : State) (n : PortIx) : Option State :=
  let x := s.port n
  match x.replay.find? fun r => r.resend != 0 && (match r.out.body with | .short _ => true | .data _ => false) with
  | some r => some (s.sendAgain n r)
  | none =>
    let ready (o : OutFlit) : Bool := (match o.body with
      | .short f => !f.sqd || s.maySend n o
      | .data _ => false)
    let isModule (o : OutFlit) : Bool := (match o.body with | .short f => f.module | .data _ => false)
    let order : List (OutFlit → Bool) :=
      (fun o => ready o && isModule o) ::
        (List.range 8).map fun k => fun o => ready o && !isModule o && o.owner == x.rot + BitVec.ofNat 3 k
    match order.findSome? fun f => takeFirst f x.qByp with
    | none => none
    | some (o, rest) =>
      let s := s.setPort n { x with qByp := rest, rot := if isModule o then x.rot else o.owner + 1 }
      match o.body with
      | .short f => some (if f.sqd then s.sendNew n o else
          let h := s.stampHeel n f
          h.2.emit (.short n 0 h.1 (crc64 (h.1.bytes 0))))
      | .data _ => some s

/-- Up to `k` short flits; also how many were sent. -/
def State.sendShorts (s : State) (n : PortIx) : Nat → State × Nat
  | 0 => (s, 0)
  | k + 1 =>
    match s.sendOneShort n with
    | none => (s, 0)
    | some s' => let r := s'.sendShorts n k; (r.1, r.2 + 1)

/-- The data flit of a position (R214), or an idle flit. -/
def State.fillPosition (s : State) (n : PortIx) (w : BitVec 3) (pos : Nat) : State :=
  let x := s.port n
  let may (o : OutFlit) : Bool := o.owner == w && s.maySend n o
  match s.resendAt n w true pos with
  | some r => s.sendAgain n r
  | none =>
  match takeFirst (fun o => may o && holdsPosition o.alloc pos) x.q0 with
  | some (o, r) => (s.setPort n { x with q0 := r }).sendNew n o
  | none =>
  match takeFirst may x.qDetour with
  | some (o, r) => (s.setPort n { x with qDetour := r }).sendNew n o
  | none =>
  match s.resendAt n w false pos with
  | some r => s.sendAgain n r
  | none =>
  let want : Nat := if x.vc2Next then 2 else 1
  let pick := (takeFirst (fun o => may o && o.chan.val == want) x.qBulk).orElse fun _ => takeFirst may x.qBulk
  match pick with
  | some (o, r) => (s.setPort n { x with qBulk := r, vc2Next := o.chan.val == 1 }).sendNew n o
  | none => s.emit (idleOut n w)

/-- One position of the wheel: short flits at a reserve position or inserted, then one data flit or an idle flit. A group of 64
positions has room for five short flits beside its 63 data flits (R207, R211). -/
def execWheelPosition (n : PortIx) (pos : BitVec 16) (s : State) : Host.Outcome State Fault Refusal :=
  if !s.hasPort n ∨ (s.port n).state ≠ 3 then done s
  else if pos.toNat % 64 = 63 then
    let r := s.sendShorts n (5 - (s.port n).inserted)
    done (r.1.modPort n fun x => { x with inserted := 0 })
  else
    let r := s.sendShorts n (4 - (s.port n).inserted)
    let s := r.1.modPort n fun x => { x with inserted := x.inserted + r.2 }
    match s.positionOwner n pos.toNat with
    | none => done (s.emit (idleOut n 0))
    | some w => if s.silenced n w then done (s.emit (idleOut n w)) else done (s.fillPosition n w pos.toNat)

/-! Receiving (R218, R221, R223, R229) -/

/-- Flit times per bucket of the error window (R229). -/
def State.bucket (s : State) : Nat := 2 ^ (s.num 0x3400 2 - 4)

/-- One flit time passes in the error window; `bad` if it was uncorrectable. A full bucket makes way as the next flit time comes, so that the
count is always that of the bucket being filled and the 15 before it. -/
def State.tickWindow (s : State) (n : PortIx) (bad : Bool) : State :=
  s.modPort n fun x =>
    let full := decide (s.bucket ≤ x.winTick)
    let w := if full then 0 :: x.win.take 15 else x.win
    { x with win := (w.headD 0 + bad.toNat) :: w.tail, winTick := (if full then 0 else x.winTick) + 1 }

/-- ERR_NOW. -/
def Port.errNow (x : Port) : Nat := x.win.foldl (· + ·) 0

/-- Units that the flits of a message hold go back. -/
def State.freeMsg (s : State) (vc : BitVec 2) (fs : List MsgFlit) : State :=
  fs.foldl (fun s f => if f.units = 0 then s
    else s.freeUnits f.port (ownIx f.owner) ⟨vc.toNat, by have := vc.isLt; omega⟩ f.units) s

/-- VC0 messages of a partition are given up with the units that they hold. -/
def State.dropVc0 (s : State) (p : PartIx) : State :=
  let mine (m : RxMsg) : Bool := m.part == p && m.vc == 0
  let t := (s.msgs.filter mine).foldl (fun s m => s.freeMsg 0 m.flits) s
  { t with msgs := t.msgs.filter fun m => !mine m }

/-- Units sent on a channel in flits with sequence numbers at or after `from_`, acknowledged or not. -/
def Port.sentFrom (x : Port) (i : Fin 9) (c : Chan) (from_ : BitVec 20) : Nat :=
  x.sentLog.foldl (fun a r => if r.ix == i && r.chan == c && decide ((r.seq - from_).toNat < 2 ^ 19) then a + r.units else a) 0

/-- Body of a RESYNC item: NEXT, then for each channel whether it is reported, FREED and OCC (R221). DESIGN CHOICE (log 24): the layout. -/
def resyncBody (next : BitVec 20) (counts : List (Option ChanCount)) : Bytes :=
  leBytes 48 (packFields ((20, next.toNat) :: counts.flatMap fun c =>
    match c with
    | some k => [(1, 1), (32, k.freed.toNat), (16, k.occ.toNat)]
    | none => [(1, 0), (32, 0), (16, 0)]))

/-- A RESYNC delivered in order: the sender takes the exact counts of the channels that it has lowered and opens their windows (R221). -/
def State.applyResync (s : State) (n : PortIx) (i : Fin 9) (next : BitVec 20) (counts : List (Option ChanCount)) : State :=
  (List.finRange 4).foldl (fun s c =>
    let x := s.port n
    let full := s.reserve n i c + s.shared n i
    match (counts[c.val]?).join with
    | some k =>
      if x.chans[i][c].w < full then
        s.setPort n (x.modChan i c fun h => { h with
          occ := k.occ.toNat + x.sentFrom i c next, freedSeen := k.freed, w := full, off := 0 })
      else s
    | none => s) s

/-- Place in the credit table, channel and units of a flit received (R217). -/
def State.rxPlace (s : State) (n : PortIx) : RxBody → Fin 9 × Chan × Nat
  | .data f _ _ => (ownIx f.owner, ⟨f.vc.toNat, by have := f.vc.isLt; omega⟩, 4)
  | .resync w _ _ => (ownIx w, 3, 1)
  | .kennel k => (ownIx k.owner, 3, 1)
  | .arrive _ | .release _ | .peer _ => (s.creditIx n true 7, 3, 1)

/-- A sequence number within the acceptance window and not yet received (R223). -/
def Port.accepts (x : Port) (sqn : BitVec 20) : Bool :=
  decide ((sqn - x.rxNext).toNat < 2 ^ 19) && !(x.rxHeld.any fun h => h.1 == sqn)

/-- Room in the pool by the receiver's own counts (R218). -/
def State.room (s : State) (n : PortIx) (i : Fin 9) (c : Chan) (u : Nat) : Bool :=
  s.fits n i (fun c => (s.port n).chans[i][c].rocc) c u

/-! Items received -/

/-- A FILL item pads a position (R209). -/
def execFillItem (_n : PortIx) (s : State) : Host.Outcome State Fault Refusal := done s

/-- NEXT frees the entries it has passed; a listed one is sent again once for each ACK that lists it (R224). DEDUCED (log 22): an
acknowledged module item no longer counts in the module share, of which no CREDIT or BEACON tells. -/
def execAckItem (n : PortIx) (next : BitVec 20) (nak : List (BitVec 20)) (s : State) : Host.Outcome State Fault Refusal :=
  if !s.hasPort n ∨ (s.port n).state ≠ 3 then done s
  else
    let gone := (s.port n).replay.filter fun r => !decide ((r.seq - next).toNat < 2 ^ 19)
    let shared (r : ReplayEntry) : Bool := s.outIx n r.out == 8
    let units := (gone.filter shared).foldl (fun a r => a + r.out.body.units) 0
    done (s.modPort n fun x => { (x.modChan 8 3 fun k => { k with occ := k.occ - units }) with
      replay := (x.replay.filter fun r => decide ((r.seq - next).toNat < 2 ^ 19)).map fun r =>
        if (nak.take 8).contains r.seq then { r with resend := r.resend + 1 } else r })

/-- FREED of a channel as reported: the sender's count of units not yet freed follows. -/
def ChanState.freedTo (k : ChanState) (f : BitVec 32) : ChanState :=
  { k with occ := k.occ - (f - k.freedSeen).toNat, freedSeen := f }

def execCreditItem (n : PortIx) (owner : BitVec 3) (freed : List (BitVec 32)) (s : State) : Host.Outcome State Fault Refusal :=
  if !s.hasPort n ∨ (s.port n).state ≠ 3 then done s
  else
    done (s.modPort n fun x =>
      let x := (List.finRange 4).foldl (fun x c =>
        match freed[c.val]? with
        | some f => x.modChan (ownIx owner) c fun k => k.freedTo f
        | none => x) x
      { x with creditAt := s.ns })

/-- A BEACON: agreement is judged per channel; the Leash lowers the window at the ninth disagreement and each further one (R219, R220). -/
def execBeaconItem (n : PortIx) (owner : BitVec 3) (aseq : BitVec 20) (counts : List ChanCount) (s : State) :
    Host.Outcome State Fault Refusal :=
  if !s.hasPort n ∨ (s.port n).state ≠ 3 then done s
  else
    let i := ownIx owner
    done ((List.finRange 4).foldl (fun s c =>
      match counts[c.val]? with
      | none => s
      | some cc =>
        let x := s.port n
        let k := x.chans[i][c]
        let before := k.sent - BitVec.ofNat 32 (x.sentFrom i c aseq)
        let agree := before - cc.freed == cc.occ.setWidth 32
        let r := s.reserve n i c
        let lower := !agree && decide (8 ≤ k.off)
        let w := if lower then max r (k.w - (r + s.shared n i) / 64) else k.w
        s.setPort n { (x.modChan i c fun k => { (k.freedTo cc.freed) with off := if agree then 0 else k.off + 1, w := w }) with
          leashed := if lower then x.leashed + 1 else x.leashed }) (s.modPort n fun x => { x with creditAt := s.ns }))

/-- An item of a reserved type is discarded and counted (R209). -/
def execReservedItem (n : PortIx) (_ty : BitVec 8) (s : State) : Host.Outcome State Fault Refusal :=
  if !s.hasPort n ∨ (s.port n).state ≠ 3 then done s
  else done (s.modPort n fun x => { x with discarded := x.discarded + 1 })

/-! Items sent -/

/-- Body of a CREDIT item. -/
def Port.creditBody (x : Port) (i : Fin 9) : Bytes :=
  (List.finRange 4).flatMap fun c => leBytes 4 x.chans[i][c].freed.toNat

/-- OCC of a channel: units held by flits before NEXT, those received beyond it left out (R219, R221). -/
def State.heldBefore (s : State) (n : PortIx) (i : Fin 9) (c : Chan) : Nat :=
  let x := s.port n
  x.chans[i][c].rocc - x.rxHeld.foldl (fun a h =>
    let r := s.rxPlace n h.2
    if r.1 == i && r.2.1 == c then a + r.2.2 else a) 0

/-- Body of a BEACON item. -/
def State.beaconBody (s : State) (n : PortIx) (i : Fin 9) : Bytes :=
  let x := s.port n
  leBytes 48 (packFields ((20, x.rxNext.toNat) :: (List.finRange 4).flatMap fun c =>
    [(32, x.chans[i][c].freed.toNat), (16, s.heldBefore n i c)]))

/-- Every owner's BEACON (R219). -/
def execBeaconSend (n : PortIx) (s : State) : Host.Outcome State Fault Refusal :=
  if !s.hasPort n ∨ (s.port n).state ≠ 3 then done s
  else done ((List.range 8).foldl (fun s k =>
    let w : BitVec 3 := BitVec.ofNat 3 k
    if (s.ownerAt n w).kind = 0 then s
    else s.sendShort n ⟨3, false, w, false, 0, 0, s.beaconBody n (ownIx w)⟩) s)

/-- FREED of some channel has grown since the owner's last CREDIT. -/
def Port.grown (x : Port) (i : Fin 9) : Bool := (List.finRange 4).any fun c => x.chans[i][c].freed != x.chans[i][c].told

/-- An owner's CREDIT, once its FREED counts have grown (R219). -/
def execCreditSend (n : PortIx) (owner : BitVec 3) (s : State) : Host.Outcome State Fault Refusal :=
  let x := s.port n
  let i := ownIx owner
  if !s.hasPort n ∨ x.state ≠ 3 ∨ !x.grown i then done s
  else
    let y := { x with chans := x.chans.set i (x.chans[i].map fun (k : ChanState) => { k with told := k.freed }) }
    done ((s.setPort n y).sendShort n ⟨2, false, owner, false, 0, 0, x.creditBody i⟩)

/-- Numbers missing below the highest received, up to eight. -/
def Port.missing (x : Port) : List (BitVec 20) :=
  let far := x.rxHeld.foldl (fun a h => max a (h.1 - x.rxNext).toNat) 0
  ((((List.range far).map fun d => x.rxNext + BitVec.ofNat 20 d).filter fun q => !(x.rxHeld.any fun h => h.1 == q))).take 8

def execAckSend (n : PortIx) (s : State) : Host.Outcome State Fault Refusal :=
  if !s.hasPort n ∨ (s.port n).state ≠ 3 then done s
  else
    let x := s.port n
    let m := x.missing
    let body := leBytes 48 (packFields ((20, x.rxNext.toNat) :: (4, m.length) :: m.map fun q => (20, q.toNat)))
    done (s.sendShort n ⟨1, false, 7, true, 0, 0, body⟩)

/-- An entry still unacknowledged one round trip plus 1 µs after its last sending is sent again (R224). -/
def execReplayTimeout (n : PortIx) (sqn : BitVec 20) (s : State) : Host.Outcome State Fault Refusal :=
  if !s.hasPort n ∨ (s.port n).state ≠ 3 then done s
  else
    match (s.port n).replay.find? fun r => r.seq == sqn with
    | none => done s
    | some r =>
      let s := s.passTo (65536 * (r.sentAt.toNat + (s.port n).rtt.toNat + 1000))
      done (s.modPort n fun x => { x with replay := x.replay.map fun e => if e.seq = sqn then { e with resend := max 1 e.resend } else e })

/-! Boundaries: return to the primary port and resynchronisation (R221, R232) -/

/-- RESYNC of an owner: the receiver sends its exact counts (R221). DEDUCED (log 24): of every channel, since no item tells it which
windows the far sender has lowered; the sender takes those of its lowered channels. -/
def State.resyncSend (s : State) (n : PortIx) (w : BitVec 3) : State :=
  let x := s.port n
  let i := ownIx w
  s.sendShort n ⟨8, true, w, false, 0, 0,
    resyncBody x.rxNext ((List.finRange 4).map fun c => some ⟨x.chans[i][c].freed, BitVec.ofNat 16 (s.heldBefore n i c)⟩)⟩

/-- An owner's boundary on a port: traffic returns if the port has been UP since `since`; channels are resynchronised. -/
def State.ownerBoundary (s : State) (n : PortIx) (w : BitVec 3) (since : BitVec 64) : State :=
  let x := s.port n
  if x.state ≠ 3 then s
  else
    let s := if x.upSince ≤ since then s.setPort n { x with away := x.away &&& ~~~BitVec.twoPow 8 w.toNat } else s
    s.resyncSend n w

/-- Heel time reaches a multiple of 20 ms, 0 after a wrap among them: boundary of every transit owner. -/
def execTransitBoundary (s : State) : Host.Outcome State Fault Refusal :=
  let s := if s.heel.state = 0 then s
    else s.pass (min (1310720000000 - s.heel.now.toNat % 1310720000000) (2 ^ 64 - s.heel.now.toNat))
  done ((List.finRange 24).foldl (fun s n =>
    let s := (List.range 8).foldl (fun s k =>
      let w : BitVec 3 := BitVec.ofNat 3 k
      if (s.ownerAt n w).kind = 2 then s.ownerBoundary n w (s.port n).transitMark else s) s
    s.modPort n fun x => { x with transitMark := s.ns }) s)

end Sys2Proof.Machine
end

