-- ==== Sys2Proof/Machine/HeelRows.lean ====
section
/-!
DEFINITION. Heel time (R243 to R248): exchanges with the time parent, the states of Table 10-2, wraps.
-/

namespace Sys2Proof.Machine

/-- Port of HEEL_PARENT, or of HEEL_BACKUP while the parent is silent (R245). -/
def State.timePort (s : State) : Option PortIx :=
  let n := s.num 0x8000 (if s.heel.onBackup then 5 else 4)
  if h : n < 24 then some ⟨n, h⟩ else none

/-- The module is the root of its domain. -/
def State.isRoot (s : State) : Bool := s.num 0x8000 3 == 1

/-- The module's own domain; none while HEEL_DOMAIN is 0 (R245). -/
def State.inDomain (s : State) (d : BitVec 32) : Bool := d != 0 && d.toNat == s.num 0x8000 6

/-- Body of a HEEL item (Table 10-1). -/
def heelBody (resp : Bool) (h : HeelItem) : Bytes :=
  leBytes 48 (packFields [(2, resp.toNat), (6, 0), (8, h.hops.toNat), (32, h.domain.toNat), (16, h.sqn.toNat), (64, h.t1.toNat),
    (64, h.t2.toNat), (64, h.t3.toNat), (1, h.locked.toNat), (32, h.epoch.toNat)])

/-- A HEEL item leaves by a port. -/
def State.sendHeel (s : State) (n : PortIx) (resp : Bool) (h : HeelItem) : State :=
  s.sendShort n ⟨4, false, 7, true, 0, 0, heelBody resp h⟩

/-- The child starts an exchange: a REQ, whose T1 is stamped as it leaves (R246). One that ends without a valid RESP breaks the run of 64
(Table 10-2). -/
def execHeelExchange (s : State) : Host.Outcome State Fault Refusal :=
  match s.timePort with
  | none => done s
  | some n =>
    if s.isRoot ∨ s.num 0x8000 6 = 0 ∨ !s.hasPort n ∨ (s.port n).state ≠ 3 then done s
    else
      let good := if s.heel.t1.isSome then 0 else s.heel.good
      let h := { s.heel with xseq := s.heel.xseq + 1, t1 := some s.heel.now, good := good }
      done ({ s with heel := h }.sendHeel n false
        ⟨0, BitVec.ofNat 32 (s.num 0x8000 6), h.xseq, s.heel.now, 0, 0, h.state == 2 || s.isRoot, 0⟩)

/-- The parent answers a REQ of its domain with T2, the time of receipt less the port's receive delay; T3 is stamped as the RESP leaves
(R245, R246). -/
def execHeelReq (n : PortIx) (h : HeelItem) (s : State) : Host.Outcome State Fault Refusal :=
  if !s.hasPort n ∨ (s.port n).state ≠ 3 ∨ !s.inDomain h.domain then done s
  else
    let hops : BitVec 8 := if s.isRoot then 0 else s.heel.hops
    done (s.sendHeel n true
      ⟨hops, h.domain, h.sqn, h.t1, s.heel.now - Config.rxDelay n (s.port n).upSince, s.heel.now, s.heel.state == 2 || (s.isRoot && s.heel.state != 0), s.heel.epoch⟩)

/-- Half of a signed difference. DEDUCED (log 26): an odd difference is rounded down. -/
def half (x : BitVec 64) : BitVec 64 := x.sshiftRight 1

/-- Some stamp of an exchange lies beyond a wrap from another (R244). -/
def spansWrap (l : List (BitVec 64)) : Bool :=
  l.any fun a => l.any fun b => decide (2 ^ 63 ≤ a.toNat - b.toNat)

/-- 12 µs, 2 ns and 0.25 ns in ht. -/
def maxDelay : Nat := 12000 * 65536
def holdoverBand : Nat := 2 * 65536
def lockBand : Nat := 16384

/-- No partition has a loaded plan (R247). -/
def State.noPlan (s : State) : Bool := s.parts.toList.all fun x => x.runPlan.isNone && x.loadedPlan.isNone

/-- What a valid RESP does by state (Table 10-2): a step on entry to ACQUIRING, the rate in every other state. -/
def Heel.take (h : Heel) (offset : BitVec 64) (noPlan : Bool) : Heel :=
  let a := offset.toInt.natAbs
  let stepped : Heel := { h with state := 1, now := h.now + offset, slew := 0, holdRate := 0, good := 0 }
  match h.state.toNat with
  | 0 => stepped
  | 1 =>
    let g := if a ≤ lockBand then h.good + 1 else 0
    { h with slew := offset, good := g, state := if 64 ≤ g then 2 else 1 }
  | 2 => { h with slew := offset }
  | 3 => if a ≤ holdoverBand then { h with state := 2, slew := offset, holdRate := 0 } else h
  | _ => if noPlan then stepped else h

/-- A RESP received at Heel time `at_`: T4 is that time less the port's receive delay. It is discarded unless it answers the exchange with a
LOCKED sender and a delay of 0 to 12 µs (R246). -/
def execHeelResp (n : PortIx) (r : HeelItem) (at_ : BitVec 64) (s : State) : Host.Outcome State Fault Refusal :=
  let s := s.passToHeel at_
  let t4 := at_ - Config.rxDelay n (s.port n).upSince
  match s.heel.t1 with
  | none => done s
  | some t1 =>
    let delay := half ((t4 - t1) - (r.t3 - r.t2))
    if s.isRoot ∨ s.timePort ≠ some n ∨ !s.hasPort n ∨ (s.port n).state ≠ 3 ∨ !s.inDomain r.domain ∨ r.sqn ≠ s.heel.xseq
        ∨ !r.locked ∨ delay.toInt < 0 ∨ (maxDelay : Int) < delay.toInt then done s
    else
      let offset := half ((r.t2 - t1) - (t4 - r.t3))
      let h := if s.heel.state = 0 then { s.heel with now := at_ } else s.heel
      let stepping := h.state == 0 || (h.state == 4 && s.noPlan)
      let h := h.take offset s.noPlan
      let epoch := if stepping ∨ !spansWrap [t1, t4, r.t2, r.t3] then r.epoch else h.epoch
      done { s with heel := { h with t1 := none, offset := offset, hops := r.hops + 1, epoch := epoch, lastValid := s.ns } }

/-- No valid response for 20 µs: the backup serves, with a report on the silent parent (R245, R269 cause 5). -/
def execHeelParentTimeout (s : State) : Host.Outcome State Fault Refusal :=
  match s.timePort with
  | none => done s
  | some n =>
    if s.isRoot ∨ s.num 0x8000 6 = 0 then done s
    else
      let s := s.passTo (65536 * (s.heel.lastValid.toNat + 20000))
      let s := s.reportPort n 5
      done (if s.num 0x8000 (if s.heel.onBackup then 4 else 5) < 24 then
        { s with heel := { s.heel with onBackup := !s.heel.onBackup, t1 := none, good := 0 } } else s)

/-- LOCKED for 100 µs without a valid RESP: HOLDOVER, which keeps the rate it last had (Table 10-2): that of the offset still being
removed, else the nominal one (log 26). -/
def execHoldoverEntry (s : State) : Host.Outcome State Fault Refusal :=
  if s.heel.state ≠ 2 ∨ s.isRoot then done s
  else
    let s := s.passTo (65536 * (s.heel.lastValid.toNat + 100000))
    done { s with heel := { s.heel with state := 3, holdSince := s.ns, holdRate := s.heel.slew.toInt.sign, slew := 0 } }

/-- HOLDOVER_LIMIT elapses: LOST, FSW bit 42 (Table 10-2). -/
def execHoldoverExpiry (s : State) : Host.Outcome State Fault Refusal :=
  if s.heel.state ≠ 3 then done s
  else
    let s := s.passTo (65536 * (s.heel.holdSince.toNat + 1000 * s.num 0x8000 0x0A))
    done ({ s with heel := { s.heel with state := 4 } }.event (ErrEvent.of 42 0x0A 0 none 0))

/-- Heel time passes from 2^64 - 1 to 0 (R244). -/
def execHeelWrap (s : State) : Host.Outcome State Fault Refusal :=
  if s.heel.state = 0 then done s else done (s.pass (s.heel.span (2 ^ 64 - s.heel.now.toNat)))

/-- A module committed as root (R244, R245): from UNSYNCED or LOST its time starts at ROOT_SET, otherwise it keeps its time. -/
def State.becomeRoot (s : State) : State :=
  let h := s.heel
  let fresh := h.state == 0 || h.state == 4
  { s with heel := { h with
    state := 2
    now := if fresh then BitVec.ofNat 64 (s.num 0x8000 7) else h.now
    epoch := if h.state = 0 then 0 else h.epoch
    slew := 0
    holdRate := 0
    hops := 0
    t1 := none } }

end Sys2Proof.Machine
end

