-- ==== Sys2Proof/Machine/Steps.lean ====
section
/-!
DEFINITION. Barriers (R249 to R254): arrivals, the root's decision, releases received, and the start of a job (R265).
-/

namespace Sys2Proof.Machine

/-- The step whose end the barrier that is being gathered marks: START_STEP - 1 for the start barrier (R265), the step after the one whose
release is at hand (R319). -/
def State.barStep (s : State) (p : PartIx) : BitVec 64 :=
  let x := s.part p
  let next : Option Release := if x.between then x.barrier.release else none
  match next with
  | some r => r.step + 1
  | none => if x.starting then BitVec.ofNat 64 (s.pnum p 0x71) - 1 else x.stepNow

/-- PERIOD in ht of the plan that schedules the partition's steps. -/
def State.periodHt (s : State) (p : PartIx) : BitVec 64 :=
  match s.stepPlan p with
  | some pl => pl.period.setWidth 64 * 65536000
  | none => 0

/-- The scheduled boundary B(n) (R250); START_STEP and START_TIME as a plan switch may have reset them. -/
def State.boundaryAt (s : State) (p : PartIx) (n : BitVec 64) : BitVec 64 :=
  BitVec.ofNat 64 (s.pnum p 0x72) + (n - BitVec.ofNat 64 (s.pnum p 0x71)) * s.periodHt p

/-! Own arrival (R251, R265) -/

/-- WLOAD_STATUS STATE. -/
def Partition.wloadState (x : Partition) : Nat := x.wloadStatus.toNat % 16

/-- Physical ports that REQ_PORT takes through the port map (R265). -/
def State.reqPorts (s : State) (p : PartIx) : List PortIx :=
  match s.treePlan p with
  | none => []
  | some pl =>
    let m := s.pobj p 0x31
    (List.range 24).filterMap fun q =>
      if pl.reqPort.getLsbD q then
        let n := recField m (8 * (8 + q)) 8
        if h : n < 24 then some ⟨n, h⟩ else none
      else none

/-- Model slots that the plan's variants name. -/
def PlanRec.modelSlots (pl : PlanRec) : List (Fin 2) :=
  (List.finRange 2).filter fun i => pl.vars.any fun v => v.mslot == (i.val == 1)

/-- Four switches between the parents of one ingest have been made (R266). -/
def Partition.gaveUp (x : Partition) : Bool := x.ingests.any fun g => !g.done && decide (4 ≤ g.switches)

/-- Status of a start-barrier arrival once it is due: OK, or NOT_READY when a condition can no longer be met (R265, R266). DEDUCED
(log 31): a partition without an ingest has none to wait for. -/
def State.startStatus (s : State) (p : PartIx) : Option (BitVec 3) :=
  let x := s.part p
  let load := x.loadStatus.toNat % 256
  let ports := s.reqPorts p
  let slots := match s.treePlan p with
    | some pl => pl.modelSlots.all fun i => x.slotState[i] == 2
    | none => false
  if (load != 0 && load != 0xFE && load != 0xFF) || x.wloadState == 3 || x.gaveUp || s.heel.state == 4
      || ports.any (fun n => (s.port n).state == 5) || x.restoreFailed then some 2
  else if load == 0 && slots && x.ingests.all (·.done) && s.heel.state == 2 && ports.all (fun n => (s.port n).state == 3) then some 0
  else none

/-- The module has been in HOLDOVER for the whole step, or is LOST (R251), or its time-stamp unit has failed (Table 13-3). -/
def State.heelArrival (s : State) (p : PartIx) : Bool :=
  (s.part p).stampBad || s.heel.state == 4 || (s.heel.state == 3 && decide (s.heel.holdSince ≤ (s.part p).prevBoundary))

/-- The loaded plan will not be able to take over at the next step (R268). -/
def State.switchBroken (s : State) (p : PartIx) : Bool :=
  let x := s.part p
  BitVec.ofNat 64 (s.pnum p 0x35) == x.stepNow + 1 && s.pnum p 0x35 != 2 ^ 64 - 1
    && (x.loadedPlan.isNone || x.loadStatus.toNat % 256 != 0)

/-- Status of the partition's own arrival, once it is due (R251): a partition that has frozen waits for no cell; one in which a DRD has met an
error (Table 8-14) runs on to its boundary; a fenced one sends FAULT (R319). -/
def State.ownStatus (s : State) (p : PartIx) : Option (BitVec 3) :=
  let x := s.part p
  if s.heel.state = 0 ∨ s.treePlan p = none then none
  else if x.between then (if x.fenced then some 1 else none)
  else if x.starting then (if x.fenced then some 1 else s.startStatus p)
  else if !x.running then none
  else if x.fenced then some 1
  else
    let stopped := x.frozen.isSome
    let whole := (s.cellsOf p).all (fun c => (s.cell c).arrived) && (s.barkUnits p).all (fun b => x.kennel.barkDone.getLsbD b.val)
    if !stopped && !whole then none
    else if s.heelArrival p then some 4
    else if stopped || x.poisoned then some 1
    else some (if s.switchBroken p then 2 else 0)

/-! The tree (R252, Table 6-11) -/

/-- Devices whose PARENT names this one, with those that have switched to it. -/
def State.childrenOf (s : State) (p : PartIx) : List (BitVec 14) :=
  let me := s.self p
  match s.treePlan p with
  | none => []
  | some pl =>
    let named := (pl.dist.filter fun d => d.parent == me && d.dev != me).map (·.dev)
    named ++ (s.part p).adopted.filter fun d => !named.contains d

def State.isBarRoot (s : State) (p : PartIx) : Bool :=
  match s.distSelf p with
  | some d => d.parent == d.dev
  | none => false

/-- Children whose arrival has not come. -/
def State.missing (s : State) (p : PartIx) : List (BitVec 14) :=
  (s.childrenOf p).filter fun d => !((s.part p).bar.children.any fun c => c.dev == d)

/-- Worse of two statuses: the higher code (Table 10-3). -/
def worst (a b : BitVec 3) : BitVec 3 := if a < b then b else a

/-- STATUS, FIRST and COUNT of the subtree, with devices counted as missing. -/
def State.subtree (s : State) (p : PartIx) (missing : List (BitVec 14)) : BitVec 3 × BitVec 15 × BitVec 15 :=
  let b := (s.part p).bar
  let own := b.own.getD 0
  let st := b.children.foldl (fun a c => worst a c.status) (if missing.isEmpty then own else worst own 3)
  let firsts : List Nat := (if own = 0 then [] else [(s.self p).toNat])
    ++ (b.children.filter fun c => c.status != 0).map (·.first.toNat) ++ missing.map (·.toNat)
  let first := firsts.foldl min 0x7FFF
  let count := b.children.foldl (fun a c => a + c.count.toNat) 1
  (st, BitVec.ofNat 15 first, BitVec.ofNat 15 count)

/-- Body of a BARRIER item (Table 10-3). -/
def barrierBody (release : Bool) (b : BarrierItem) : Bytes :=
  leBytes 48 (packFields [(32, b.job.toNat), (64, b.step.toNat), (1, release.toNat), (1, b.stop.toNat), (3, b.status.toNat), (3, 0),
    (14, b.src.toNat), (14, b.dst.toNat), (15, b.first.toNat), (13, 0), (15, b.count.toNat), (17, 0), (64, b.rtime.toNat)])

/-- A BARRIER item to a device. -/
def State.sendBarrier (s : State) (p : PartIx) (release : Bool) (b : BarrierItem) : State :=
  s.sendTo p b.dst ⟨5, true, 7, true, 0, 0, barrierBody release b⟩

/-- The release goes down the tree (R253). -/
def State.spread (s : State) (p : PartIx) (b : BarrierItem) : State :=
  (s.childrenOf p).foldl (fun s d => s.sendBarrier p true { b with src := s.self p, dst := d }) s

/-- STEP_COMMITTED has reached the step of a plan switch: the former plan goes, PLAN_SWITCH and LOAD_STATUS return (R268). -/
def State.endSwitch (s : State) (p : PartIx) : State :=
  let x := s.part p
  if x.oldPlan.isSome ∧ s.pnum p 0x35 ≤ x.stepCommitted.toNat then
    (s.setPart p { x with oldPlan := none, loadStatus := if x.load.isSome then x.loadStatus else 0xFF }).setObj (0x2000 + p.val) 0x35 (List.replicate 8 0xFF)
  else s

/-- What a release does to a member: COMMIT commits the step, STOP stops the job (R253, R254). -/
def State.takeRelease (s : State) (p : PartIx) (b : BarrierItem) : State :=
  let late := !b.stop && later s.heelNow b.rtime
  let s := s.modPart p fun x =>
    let x := x.modBar fun y => { y with release := some ⟨b.step, b.stop, b.status, b.rtime⟩ }
    if b.stop then
      { x with
        jobState := 3
        starting := false
        running := false
        stopInfo := BitVec.ofNat 64 (packFields [(8, b.status.toNat), (15, b.first.toNat)]) }
    else
      { x with
        stepCommitted := b.step
        jobState := if x.jobState = 1 then 2 else x.jobState
        rampSteps := if x.jobState = 1 then BitVec.ofNat 16 (s.num 0x9010 1) else x.rampSteps
        barLate := if late then x.barLate + 1 else x.barLate }
  if b.stop then s else s.endSwitch p

/-- The root's decision once it holds every arrival or counts some as missing (R22, R253). -/
def State.rootDecide (s : State) (p : PartIx) (missing : List (BitVec 14)) : State :=
  let t := s.subtree p missing
  let n := s.barStep p
  let bound := s.boundaryAt p (n + 1)
  let margin : BitVec 64 := 65536 * BitVec.ofNat 64 (s.pnum p 0x75)
  let last := (s.part p).bar.lastArrival
  let rtime := if later last (bound - margin) then last + margin else bound
  let b : BarrierItem := ⟨s.jobTag p, n, t.1 != 0, t.1, s.self p, 0, t.2.1, 0, if t.1 = 0 then rtime else 0⟩
  let s := s.modPart p fun x => x.modBar fun y => { y with sent := true }
  (s.spread p b).takeRelease p b

/-- The subtree's arrival goes up, or the root decides, once complete (R252, R253): to BACKUP if the parent's link is down. DEDUCED (log 85):
also if BACKUP has taken this device as its child (R266). -/
def State.gatherUp (s : State) (p : PartIx) (missing : List (BitVec 14)) : State :=
  let b := (s.part p).bar
  if b.own.isNone ∨ b.sent ∨ (s.missing p != [] ∧ missing = []) then s
  else if s.isBarRoot p then s.rootDecide p missing
  else
    match s.distSelf p with
    | none => s
    | some d =>
      let t := s.subtree p missing
      let up := match s.portTo p d.parent with
        | some n => (s.port n).state == 3
        | none => false
      let switched := (s.part p).ingests.any (·.backupParent)
      let dst := if up && !switched then d.parent else d.backup
      let s := s.modPart p fun x => x.modBar fun y => { y with sent := true }
      let s := s.goUp p d (dst != d.parent)
      s.sendBarrier p false ⟨s.jobTag p, s.barStep p, false, t.1, s.self p, dst, t.2.1, t.2.2, 0⟩

/-- Every push that the cell issued has landed (R50). -/
def State.pushesLanded (s : State) (p : PartIx) (c : CellRef) : Bool :=
  (s.cellsOf p).all fun d => sides.all fun q => ((s.cell d).queue q).coming.all fun e => e.by_.cell != c

/-- A cell reaches its step boundary (R50, R92). -/
def execCellArrival (c : CellRef) (s : State) : Host.Outcome State Fault Refusal :=
  match s.owner c.col with
  | none => done s
  | some p =>
    let x := s.part p
    if x.running ∧ x.frozen.isNone ∧ (s.cell c).drained ∧ s.pushesLanded p c then done (s.modCell c fun k => { k with arrived := true }) else done s

/-- The partition's own arrival once it is due, with HOLD_LAST taken as it is sent (R16, R251): none for a step that has run no cycle. The
boundary processing at hand still uses the HOLD_LAST of the step that ended. -/
def State.arrive (s : State) (p : PartIx) : State :=
  if (s.part p).bar.own.isSome then s
  else
    match s.ownStatus p with
    | none => s
    | some st =>
      let s := s.modPart p fun x =>
        let x := x.modBar fun y => { y with own := some st, ownAt := s.ns, lastArrival := s.heelNow }
        { x with
          stampBad := false
          holdLast := if x.between then (if x.barrier.processed then 0 else x.holdLast)
            else if x.starting then x.holdLast else x.holdStep }
      s.gatherUp p []

/-- The partition's own arrival. -/
def execBarrierArrive (p : PartIx) (s : State) : Host.Outcome State Fault Refusal := done (s.arrive p)

/-- A barrier item that is not for a partition of this module: forwarded, or discarded and counted (R249). -/
def State.strayBarrier (s : State) (n : PortIx) (release : Bool) (b : BarrierItem) : State :=
  match s.transitOf b.job b.dst with
  | some r => s.sendShort r.1 ⟨5, true, 7, true, 0, 0, barrierBody release b⟩
  | none =>
    match (List.finRange 16).find? fun p => s.onPort p n with
    | some p => s.modPart p fun x => { x with barIgnored := x.barIgnored + 1 }
    | none => s.modPort n fun x => { x with discarded := x.discarded + 1 }

/-- A child's arrival at the barrier that is being gathered; one that comes after this device has sent its own is discarded (R252). -/
def State.takeArrival (s : State) (p : PartIx) (c : ChildArrival) : State :=
  let y := (s.part p).bar
  let child := (s.childrenOf p).contains c.dev
  let backup := match s.treePlan p with
    | some pl => pl.dist.any fun d => d.dev == c.dev && d.backup == s.self p
    | none => false
  if y.sent ∨ !(child || backup) ∨ y.children.any (fun d => d.dev == c.dev) then s
  else
    let s := s.modPart p fun x => if child then x else { x with adopted := x.adopted ++ [c.dev] }
    let s := s.modPart p fun x => x.modBar fun y => { y with children := y.children ++ [c], lastArrival := s.heelNow }
    s.gatherUp p []

/-- Arrivals that waited for the barrier that is now being gathered; older ones go (R252). -/
def State.absorb (s : State) (p : PartIx) : State :=
  let n := s.barStep p
  let x := s.part p
  let now := x.waiting.filter fun c => c.step == n
  let s := s.setPart p { x with waiting := x.waiting.filter fun c => c.step != n && decide ((c.step - n).toNat < 2 ^ 63) }
  now.foldl (fun s c => s.takeArrival p c) s

/-- A barrier is being gathered. -/
def Partition.gathers (x : Partition) : Bool := x.starting || x.running || x.between

/-- An arrival comes late for the barrier at which the job stopped (R252): for that step, from a device that had not arrived. -/
def Partition.lateAtStop (x : Partition) (c : ChildArrival) : Bool :=
  match x.barrier.release with
  | some r => r.stop && r.step == c.step && !x.barrier.children.any fun d => d.dev == c.dev
  | none => false

/-- A child's ARRIVE, delivered in order (R249, R252). One that is ahead of this device waits until it gathers that barrier (DEDUCED, log 104);
one for a step gone by, or for the barrier at which the job stopped, is late. -/
def State.takeArrive (s : State) (n : PortIx) (b : BarrierItem) : State :=
  match s.ofJob b.job with
  | none => s.strayBarrier n false b
  | some p =>
    if b.dst ≠ s.self p then s.strayBarrier n false b
    else
      let c : ChildArrival := ⟨b.src, b.step, b.status, b.first, b.count⟩
      let x := s.part p
      if x.gathers ∧ b.step = s.barStep p then s.takeArrival p c
      else if x.gathers ∧ 2 ^ 63 ≤ (b.step - s.barStep p).toNat then s
      else if !x.gathers && x.lateAtStop c then s
      else s.setPart p { x with waiting := x.waiting.filter (fun d => d.dev != c.dev) ++ [c] }

/-- BAR_WAIT after the own arrival a child is still missing: reported and counted as MISSING (R252, R269 cause 3). -/
def execBarWaitExpiry (p : PartIx) (s : State) : Host.Outcome State Fault Refusal :=
  let b := (s.part p).bar
  let m := s.missing p
  if b.own.isNone ∨ b.sent ∨ m = [] then done s
  else
    let s := s.passTo (65536 * (b.ownAt.toNat + 1000 * s.pnum p 0x76))
    let s := m.foldl (fun s d => s.report p d 3 1) s
    done (s.gatherUp p m)

/-- A RELEASE from above, delivered in order: forwarded to the children, then taken (R253). -/
def State.takeReleaseItem (s : State) (n : PortIx) (b : BarrierItem) : State :=
  match s.ofJob b.job with
  | none => s.strayBarrier n true b
  | some p =>
    if b.dst ≠ s.self p then s.strayBarrier n true b
    else if b.step ≠ s.barStep p ∨ (s.part p).bar.release.isSome ∨ s.isBarRoot p ∨ s.heel.state = 0 ∨ !(s.part p).busy then s
    else (s.spread p b).takeRelease p b

/-- A PEER item, delivered in order: counted if it is for this module, else forwarded by the transit map, or discarded and counted
(R216, R249, R269). It latches nothing (R323). -/
def State.takePeer (s : State) (n : PortIx) (i : PeerItem) : State :=
  let here := match s.ofJob i.job with
    | some p => s.self p == i.dst
    | none => false
  if here then { s with peerSeen := s.peerSeen + 1 }
  else
    match s.transitOf i.job i.dst with
    | some r => s.sendShort r.1 ⟨7, true, 7, true, 0, 0, peerBody i⟩
    | none => s.modPort n fun x => { x with discarded := x.discarded + 1 }

/-- The self-test ends with a verdict: every cell is at zero, and the diagnostic view of frozen cells is over (Table 10-7). -/
def State.endTest (s : State) (verdict : BitVec 8) : State :=
  { s with
    selfVerdict := verdict
    cells := Vector.replicate 192 Cell.cold
    parts := s.parts.map fun x => if x.frozen.isSome then { x with diagLost := true } else x }

/-- A job that starts or runs again ends a self-test that runs, which may not go on beside it (R270). DESIGN CHOICE (log 100): without a
verdict, the cells left at zero as at its end. -/
def State.cutTest (s : State) : State := if s.selfVerdict = 1 then s.endTest 0 else s

/-- A job goes from IDLE to STARTING at the first moment at which every condition of R265 holds. -/
def execJobStart (p : PartIx) (s : State) : Host.Outcome State Fault Refusal :=
  let x := s.part p
  if x.jobState = 0 ∧ x.partState = 1 ∧ x.loadStatus.toNat % 256 = 0 ∧ s.jobTag p ≠ 0 ∧ x.startWritten = 3 then
    let s := s.cutTest.modPart p fun x => { x with
      jobState := 1, starting := true, barrier := Barrier.none, early := Barrier.none, vc0In := [], rxKth := [] }
    done ((s.dropVc0 p).absorb p)
  else done s

end Sys2Proof.Machine
end

