-- ==== Sys2Proof/Machine/Basnus.lean ====
section
/-!
DEFINITION. Basnus frames and sessions (R289 to R296, R307): header, tag, handshake, sequence rules, segments, mailboxes, notices. What a
request does to an object stands in Machine/Request.lean.
-/

namespace Sys2Proof.Machine

/-! Status codes (Table 12-5) -/

def stOk : Status := 0
def stAbsent : Status := 1
def stNoObject : Status := 2
def stDenied : Status := 3
def stBadLen : Status := 4
def stRange : Status := 5
def stNotStaged : Status := 6
def stRefused : Status := 7
def stConflict : Status := 8
def stTooLate : Status := 9
def stBusy : Status := 10
def stSeqStale : Status := 11
def stWrongPath : Status := 12
def stNotFrozen : Status := 13
def stNoSession : Status := 14

/-! Roles (Table 12-4): 0 FM, 1 H, 2 T, 3 O -/

def roleFm : BitVec 4 := 0
def roleH : BitVec 4 := 1
def roleT : BitVec 4 := 2
def roleO : BitVec 4 := 3

/-! Frames (R290) -/

/-- A READ: its LEN is the largest the client accepts, and it carries no data (R291, Table 12-4). -/
def isRead (f : Frame) : Bool := f.kind == 0x10 && f.op == 1

/-- MAGIC, VER and length are right (R290). -/
def wellFramed (f : Frame) : Bool :=
  f.magic == 0x4253 && f.ver == 1 && f.extra.isEmpty
    && ((isRead f && f.data.isEmpty) || (f.data.length == f.len.toNat && decide (f.len.toNat ≤ pathCap f.path)))

/-- The mailbox of a path. -/
def boxOf : Path → Option (Fin 18)
  | .mgmt _ => none
  | .pf l => some ⟨l.val, by omega⟩
  | .vf p => some ⟨2 + p.val, by omega⟩

/-- A frame leaves by its path; in a mailbox it is the answering frame, with DONE and vector 1 (R296). -/
def State.answer (s : State) (f : Frame) : State :=
  match boxOf f.path with
  | none => s.emitFrame f
  | some b =>
    let s := { s with mailboxes := s.mailboxes.set b { s.mailboxes[b] with
      done := true, rspLen := BitVec.ofNat 16 (64 + f.data.length), rsp := some f } }
    match f.path with
    | .vf p => (s.emitFrame f).interrupt p 1
    | .pf l => (s.emitFrame f).toLink l (.msix l none 1)
    | .mgmt _ => s

/-- AUTH_FAIL counts a discarded frame (R290). -/
def State.discard (s : State) : State := { s with authFail := s.authFail + 1 }

/-! Sessions -/

def State.session (s : State) (sid : BitVec 32) : Option Session := s.sessions.find? fun x => x.sid == sid

def State.modSession (s : State) (sid : BitVec 32) (f : Session → Session) : State :=
  { s with sessions := s.sessions.map fun x => if x.sid = sid then f x else x }

/-- A session's frames arrive on its own mailbox, or on either management port (R294). -/
def Session.reaches (x : Session) (p : Path) : Bool :=
  match x.path, p with
  | .mgmt _, .mgmt _ => true
  | a, b => a == b

/-- The crate of a session that closes while it fills it is EMPTY (R333). -/
def State.dropClaim (s : State) (sid : BitVec 32) : State :=
  if s.fw.crate.owner = some sid ∧ s.fw.crate.state = 1 then { s with fw := { s.fw with crate := Crate.empty } } else s

/-- A session ends: its staging session closes, a pending commit stays pending (R294, R301). -/
def State.closeSession (s : State) (sid : BitVec 32) : State :=
  match s.session sid with
  | none => s
  | some x =>
    let orphan : List OrphanCommit := match x.staging with
      | some g => match g.on with
        | some p => if g.state = 3 then [⟨g.step, p, g.objs, x.role, g.order⟩] else []
        | none => []
      | none => []
    ({ s with sessions := s.sessions.filter fun y => y.sid != sid, orphans := s.orphans ++ orphan }).dropClaim sid

/-- Seed of the device identity key (R342). -/
def identitySeed : BitVec 256 :=
  Config.kmac256 (leBytes 32 Config.uds.toNat) (leBytes 24 Config.serial.toNat) 256 "CLR DEVICE IDENTITY"

/-- Role key that verifies an ACCEPT (Table 12-6). -/
def State.roleKey (s : State) (role : BitVec 4) (p : PartIx) : Bytes :=
  if role = roleFm then s.obj 0x1050 1
  else if role = roleH then s.obj 0x1050 2
  else if role = roleT then s.pobj p 0x11
  else s.obj 0x1050 3

/-- A role may be opened on a path (Table 12-2). -/
def roleOnPath (role : BitVec 4) (p : PartIx) : Path → Bool
  | .mgmt _ => decide (role.toNat ≤ 3)
  | .pf _ => role == roleH || role == roleO
  | .vf q => role == roleT && q == p

/-- A SID that no session and no handshake uses, not 0. -/
def State.freshSid (fuel : Nat) (s : State) (c : BitVec 32) : BitVec 32 :=
  match fuel with
  | 0 => c
  | fuel + 1 =>
    if c = 0 ∨ s.sessions.any (fun x => x.sid == c) ∨ s.handshakes.any (fun h => h.sid == c) then s.freshSid fuel (c + 1) else c

/-- A body in frames of at most the path's limit (R291). -/
def State.answerBody (s : State) (path : Path) (kind : BitVec 8) (sid : BitVec 32) (body : Bytes) : State :=
  let cap := pathCap path
  let n := (body.length + cap - 1) / cap
  (List.range n).foldl (fun s i =>
    s.answer (moduleFrame path kind sid 0 0 0 0 0 (decide (i + 1 < n)) (cap * i) body.length ((body.drop (cap * i)).take cap))) s

/-- DESIGN CHOICE (log 28): an OPEN that is refused is answered by an untagged RESPONSE with SID 0. -/
def State.refuseOpen (s : State) (f : Frame) (st : Status) : State :=
  s.answer (moduleFrame f.path 0x11 0 f.seq 0 st 0 0 false 0 0 [])

/-- OPEN: a CHALLENGE with a fresh SID, nonce and key pair (R293, R294). -/
def execOpenFrame (f : Frame) (s : State) : Host.Outcome State Fault Refusal :=
  if s.start.stage ≠ 5 ∨ !s.hears f.path then done s
  else if !wellFramed f ∨ f.kind ≠ 1 ∨ f.data.length ≠ 40 then done s.discard
  else
    let role : BitVec 4 := BitVec.ofNat 4 (recField f.data 0 4)
    let part : PartIx := ⟨recField f.data 4 4, Nat.mod_lt _ (by decide)⟩
    if !roleOnPath role part f.path then done (s.refuseOpen f stWrongPath)
    else if role = roleT ∧ s.partNo.partitions ≤ part.val then done (s.refuseOpen f stAbsent)
    else if 64 ≤ s.sessions.length ∨ 8 ≤ s.handshakes.length then done (s.refuseOpen f stBusy)
    else
      let sid := s.freshSid 80 (s.lastSid + 1)
      let nm := leBytes 32 (Config.entropy s.draws).toNat
      let ek := Config.mlKemEk (Config.entropy (s.draws + 1))
      let h1 := Config.sha3_512 (f.data ++ nm ++ ek)
      let sig := Config.mlDsaSign identitySeed (leBytes 64 h1.toNat) "CLR BASNUS MODULE"
      let s := { s with
        lastSid := sid
        draws := s.draws + 2
        handshakes := s.handshakes ++ [(⟨sid, role, part, f.path, h1, s.draws + 1, [], 0, s.ns⟩ : Handshake)] }
      done (s.answerBody f.path 2 sid (nm ++ ek ++ sig))

/-- Keys of a session from the handshake (R293). -/
def sessionKeys (h : Handshake) (ct : Bytes) : BitVec 512 × BitVec 512 :=
  let h2 := Config.sha3_512 (leBytes 64 h.h1.toNat ++ ct)
  let ss := Config.mlKemDecaps (Config.entropy h.draw) ct
  (h2, Config.kmac256 (leBytes 32 ss.toNat) (leBytes 64 h2.toNat) 512 "CLR BASNUS SESSION")

/-- Segments received so far with one more, where its OFFSET follows them and TOTAL has not changed (R291). -/
def joinSegment (body : Bytes) (total : BitVec 32) (f : Frame) : Option Bytes :=
  if f.offset = 0 then some f.data
  else if f.offset.toNat = body.length ∧ f.total = total then some (body ++ f.data)
  else none

/-- Frames of a handshake come by its mailbox, or by either management port (R294). -/
def Handshake.reaches (h : Handshake) (p : Path) : Bool :=
  match h.path, p with
  | .mgmt _, .mgmt _ => true
  | a, b => a == b

/-- The whole body of an ACCEPT: a session, if its signature verifies (R293), or, for role H on the physical function, if HOST_KEY is empty
(R295); else the handshake is erased. DESIGN CHOICE (log 28): where other handshakes have filled the 64 sessions meanwhile, it is answered BUSY. -/
def State.openSession (s : State) (h : Handshake) (path : Path) (body : Bytes) : State :=
  let ct := body.take 1568
  let sig := body.drop 1568
  let k := sessionKeys h ct
  let key := s.roleKey h.role h.part
  let boot := h.role == roleH && (match h.path with | .pf _ => true | _ => false) && (s.obj 0x1050 2).isEmpty
  let good := !key.isEmpty && decide (body.length = 6195)
    && Config.mlDsaVerify key (leBytes 64 k.1.toNat) "CLR BASNUS CLIENT" sig
  let s := { s with handshakes := s.handshakes.filter fun g => g.sid != h.sid }
  if !(good || (boot && decide (1568 ≤ body.length))) then s
  else if 64 ≤ s.sessions.length then s.answer (moduleFrame path 0x11 0 0 0 stBusy 0 0 false 0 0 [])
  else
    let x : Session :=
      { sid := h.sid, role := h.role, part := h.part, path := path, bootstrap := boot && !good
        kc := k.2.extractLsb' 0 256, km := k.2.extractLsb' 256 256
        seqMax := 0, kept := [], writing := [], snapshot := none, staging := none
        notify := false, noticeSeq := 0, notices := [], report := []
        core := s.sessions.length % 2 == 1, seen := s.ns }
    let o := moduleFrame path 4 h.sid 0 0 0 0 0 false 0 0 []
    { s with sessions := s.sessions ++ [x] }.answer { o with tag := frameTag x.km o }

/-- ACCEPT: its segments in order, and once the last has come, the session (R291, R293). A segment out of order, or a TOTAL that changes or is
not their sum, is answered BAD_LEN (log 28) and the segments so far are discarded. -/
def execAcceptFrame (f : Frame) (s : State) : Host.Outcome State Fault Refusal :=
  if s.start.stage ≠ 5 ∨ !s.hears f.path then done s
  else if !wellFramed f ∨ f.kind ≠ 3 then done s.discard
  else
    match s.handshakes.find? fun h => h.sid == f.sid && h.reaches f.path with
    | none => done s.discard
    | some h =>
      let keep (b : Bytes) : State := { s with handshakes := s.handshakes.map fun g =>
        if g.sid = h.sid then { g with body := b, total := f.total } else g }
      match joinSegment h.body h.total f with
      | none => done ((keep []).refuseOpen f stBadLen)
      | some body =>
        if f.more then done (keep body)
        else if body.length ≠ f.total.toNat then done ((keep []).refuseOpen f stBadLen)
        else done (s.openSession h f.path body)

/-- A valid tagged frame of an open session (R290, R293). -/
def State.authentic (s : State) (f : Frame) : Option Session :=
  match s.session f.sid with
  | some x => if wellFramed f && x.reaches f.path && f.tag == frameTag x.kc f then some x else none
  | none => none

/-- CLOSE ends the session at once (R294). -/
def execCloseFrame (f : Frame) (s : State) : Host.Outcome State Fault Refusal :=
  if s.start.stage ≠ 5 ∨ !s.hears f.path then done s
  else if f.kind ≠ 0x1F then done s.discard
  else
    match s.authentic f with
    | none => done s.discard
    | some x => done (s.closeSession x.sid)

/-- NOTICE_ACK: SEQ names the notice (R307). -/
def execNoticeAck (f : Frame) (s : State) : Host.Outcome State Fault Refusal :=
  if s.start.stage ≠ 5 ∨ !s.hears f.path then done s
  else if f.kind ≠ 0x13 then done s.discard
  else
    match s.authentic f with
    | none => done s.discard
    | some x => done (s.modSession x.sid fun y => { y with seen := s.ns, notices := y.notices.filter fun n => n.seq != f.seq })

/-- Unacknowledged notices go out again every 100 ms (R307). -/
def execNoticeResend (sid : BitVec 32) (s : State) : Host.Outcome State Fault Refusal :=
  match s.session sid with
  | none => done s
  | some x => if x.notify then done (x.notices.foldl (fun s n => s.sendNotice x n) s) else done s

/-- A handshake not completed within 1 s is erased (R294). -/
def execHandshakeTimeout (sid : BitVec 32) (s : State) : Host.Outcome State Fault Refusal :=
  match s.handshakes.find? fun h => h.sid == sid with
  | none => done s
  | some h =>
    let s := s.passTo (65536 * (h.since.toNat + 1000000000))
    done { s with handshakes := s.handshakes.filter fun g => g.sid != sid }

/-- A session without a valid frame for 60 s is closed (R294). -/
def execIdleTimeout (sid : BitVec 32) (s : State) : Host.Outcome State Fault Refusal :=
  match s.session sid with
  | none => done s
  | some x => done ((s.passTo (65536 * (x.seen.toNat + 60000000000))).closeSession sid)

/-! The request front end (R291, R292, R297) -/

/-- What a handler of objects gives: a status and, for a read, the value. -/
structure Reply where
  status : Status
  value : Bytes
  state : State
  deriving DecidableEq, Repr

/-- The RESPONSE to a request, kept with it among the last 32 (R292). -/
def State.respond (s : State) (x : Session) (f : Frame) (st : Status) (offset total : Nat) (more : Bool) (data : Bytes) : State :=
  let r := moduleFrame f.path 0x11 x.sid f.seq f.op st f.index f.sub more offset total data
  let r := { r with tag := frameTag x.km r }
  let s := s.modSession x.sid fun y =>
    let k := y.kept ++ [(⟨f, r⟩ : KeptResponse)]
    { y with kept := k.drop (k.length - 32) }
  s.answer r

/-- Two frames are the same bytes. -/
def sameFrame (a b : Frame) : Bool := { a with path := b.path } == b

/-- A READ: a snapshot at OFFSET 0, later segments from it (R291). -/
def State.doRead (s : State) (x : Session) (f : Frame) (read : State → Session → Frame → Reply) : State :=
  let part (s : State) (v : Bytes) : State :=
    let n := min f.len.toNat (pathCap f.path)
    let d := (v.drop f.offset.toNat).take n
    s.respond x f stOk f.offset.toNat v.length (decide (f.offset.toNat + d.length < v.length)) d
  if f.offset = 0 then
    let r := read s x f
    if r.status = stOk then
      part (r.state.modSession x.sid fun y => { y with snapshot := some ⟨f.index, f.sub, BitVec.ofNat 32 r.value.length, r.value⟩ }) r.value
    else r.state.respond x f r.status 0 0 false []
  else
    match x.snapshot with
    | some p => if p.index = f.index ∧ p.sub = f.sub then part s p.data else s.respond x f stBadLen 0 0 false []
    | none => s.respond x f stBadLen 0 0 false []

/-- A segment is one of the partial value's object. -/
def Partial.is (p : Partial) (f : Frame) : Bool := p.index == f.index && p.sub == f.sub

/-- A WRITE: its segments in order; the last one writes the value (R291). A refused one leaves the segments of other objects as they are, and
those of its own unless it is out of order (R310). `allow` judges each segment before it is taken, `note` is what a segment that is not the last
does by itself. -/
def State.doWrite (s : State) (x : Session) (f : Frame) (allow : State → Session → Frame → Status)
    (note : State → Session → Frame → Bytes → State) (write : State → Session → Frame → Bytes → Status × State) : State :=
  let put (s : State) (l : List Partial) : State := s.modSession x.sid fun y => { y with writing := y.writing.filter (fun p => !p.is f) ++ l }
  let st := allow s x f
  if st ≠ stOk then s.respond x f st 0 0 false []
  else
    let so := x.writing.find? fun p => p.is f
    let sofar : Option Bytes := match so with
      | some p => joinSegment p.data p.total f
      | none => joinSegment [] 0 f
    match sofar with
    | none => (put s []).respond x f stBadLen 0 0 false []
    | some d =>
      if f.more then (put (note s x f d) [⟨f.index, f.sub, f.total, d⟩]).respond x f stOk 0 0 false []
      else if d.length ≠ f.total.toNat then (put s []).respond x f stBadLen 0 0 false []
      else
        let r := write s x f d
        (if r.1 = stOk ∨ r.1 = stBadLen then put r.2 [] else r.2).respond x f r.1 0 0 false []

/-- A REQUEST of an open session: SEQ rules, then READ or WRITE (R292). DESIGN CHOICE (log 29): another OP, or a reserved header bit,
is answered RANGE. -/
def State.request (s : State) (f : Frame) (read : State → Session → Frame → Reply) (allow : State → Session → Frame → Status)
    (note : State → Session → Frame → Bytes → State) (write : State → Session → Frame → Bytes → Status × State) : State :=
  match if f.kind = 0x10 then s.authentic f else none with
  | none => s.discard
  | some x =>
    let s := s.modSession x.sid fun y => { y with seen := s.ns }
    if x.seqMax < f.seq then
      let s := s.modSession x.sid fun y => { y with seqMax := f.seq }
      if f.rsvd ≠ 0 ∨ (f.op ≠ 1 ∧ f.op ≠ 2) then s.respond x f stRange 0 0 false []
      else if f.op = 1 then s.doRead x f read
      else s.doWrite x f allow note write
    else
      match x.kept.find? fun k => sameFrame k.request f with
      | some k => s.answer { k.response with path := f.path }
      | none =>
        let r := moduleFrame f.path 0x11 x.sid f.seq f.op stSeqStale f.index f.sub false 0 0 []
        s.answer { r with tag := frameTag x.km r }

end Sys2Proof.Machine
end

