-- ==== Sys2Proof/Machine/PlanLoad.lean ====
section
/-!
DEFINITION. The plan loader (R139 to R145): the plan image, the checks of Table 6-14 in their order, relocation (R143), patching (R144),
placement.
-/

namespace Sys2Proof.Machine

/-! Records of an image -/

/-- Field `[lo+n-1:lo]` of the record that starts at byte `off`. -/
def bitsAt (b : Bytes) (off lo n : Nat) : Nat := recField ((b.drop (off + lo / 8)).take (n / 8 + 2)) (lo % 8) n

/-- A directory entry (Table 6-4). -/
structure Sect where
  type : Nat
  count : Nat
  off : Nat
  len : Nat
  deriving DecidableEq, Repr

/-- NSECT, NVAR, NSLOT, VCOL0, VCOLS, WORK of the header (Table 6-3). -/
def hdNsect (b : Bytes) : Nat := bitsAt b 0 224 16
def hdNvar (b : Bytes) : Nat := bitsAt b 0 192 16
def hdNslot (b : Bytes) : Nat := bitsAt b 0 208 16
def hdVcol0 (b : Bytes) : Nat := bitsAt b 0 104 8
def hdVcols (b : Bytes) : Nat := bitsAt b 0 112 8
def hdPeriod (b : Bytes) : Nat := bitsAt b 0 128 32
def hdWork (b : Bytes) : Nat := bitsAt b 0 160 32

def sectsOf (b : Bytes) : List Sect :=
  (List.range (hdNsect b)).map fun i =>
    let o := 128 + 24 * i
    ⟨bitsAt b o 0 16, bitsAt b o 32 32, bitsAt b o 64 64, bitsAt b o 128 64⟩

def sectOf (b : Bytes) (t : Nat) : Option Sect := (sectsOf b).find? fun x => x.type == t

/-- A CODE record as it stands in the image (Table 6-6). -/
structure RawCode where
  vcell : Nat
  eng : Nat
  nv : Nat
  rsvd : Bool
  entries : List Nat
  words : List (BitVec 64)
  deriving DecidableEq, Repr

/-- CODE records from byte `o` up to byte `last`; none if they do not fill it. -/
def codesFrom (b : Bytes) (nvar last : Nat) : Nat → Nat → Option (List RawCode)
  | 0, o => if o = last then some [] else none
  | k + 1, o =>
    let n := bitsAt b o 32 32
    let pad := (4 * nvar + 7) / 8 * 8
    let body := o + 8 + pad
    let next := body + 8 * n
    if last < o + 8 ∨ n = 0 ∨ 2 ^ 29 < n ∨ last < next then none
    else
      let r : RawCode :=
        { vcell := bitsAt b o 0 8, eng := bitsAt b o 8 2, nv := bitsAt b o 16 16
          rsvd := bitsAt b o 10 6 == 0 && ((b.drop (o + 8 + 4 * nvar)).take (pad - 4 * nvar)).all (· == 0)
          entries := (List.range nvar).map fun i => bitsAt b (o + 8) (32 * i) 32
          words := (List.range n).map fun i => BitVec.ofNat 64 (bitsAt b body (64 * i) 64) }
      (codesFrom b nvar last k next).map (r :: ·)

/-- The CODE section. -/
def codesOf (b : Bytes) : Option (List RawCode) :=
  match sectOf b 1 with
  | some x => codesFrom b (hdNvar b) (x.off + x.len) x.count x.off
  | none => none

/-- A relocation record (Table 6-8). -/
structure Reloc where
  type : Nat
  region : Nat
  vcell : Nat
  eng : Nat
  pos : Nat
  addend : Nat
  rsvd : Bool
  deriving DecidableEq, Repr

def relocsOf (b : Bytes) : List Reloc :=
  match sectOf b 3 with
  | some x => (List.range x.count).map fun i =>
      let o := x.off + 16 * i
      ⟨bitsAt b o 0 4, bitsAt b o 4 4, bitsAt b o 8 8, bitsAt b o 16 2, bitsAt b o 24 40, bitsAt b o 64 64, bitsAt b o 18 6 == 0⟩
  | none => []

/-- A patch record (Table 6-9). -/
structure Patch where
  kind : Nat
  vcell : Nat
  entry : Nat
  rsvd : Bool
  deriving DecidableEq, Repr

def patchesOf (b : Bytes) : List Patch :=
  match sectOf b 4 with
  | some x => (List.range x.count).map fun i =>
      let o := x.off + 8 * i
      ⟨bitsAt b o 0 4, bitsAt b o 4 8, bitsAt b o 12 14, bitsAt b o 26 38 == 0⟩
  | none => []

/-- Route tables from byte `o` up to byte `last` (Table 6-10). -/
def routesFrom (b : Bytes) (last : Nat) : Nat → Nat → Option (List RouteTable × Bool)
  | 0, o => if o = last then some ([], true) else none
  | k + 1, o =>
    let n := bitsAt b o 8 12 + 1
    let next := o + 8 + 16 * n
    if last < o + 8 ∨ last < next then none
    else
      let es := (List.range n).map fun i =>
        let e := o + 8 + 16 * i
        (⟨BitVec.ofNat 14 (bitsAt b e 0 14), BitVec.ofNat 8 (bitsAt b e 14 8), BitVec.ofNat 16 (bitsAt b e 24 16),
          BitVec.ofNat 5 (bitsAt b e 40 5), BitVec.ofNat 5 (bitsAt b e 45 5), BitVec.ofNat 16 (bitsAt b e 64 16),
          BitVec.ofNat 16 (bitsAt b e 80 16), BitVec.ofNat 32 (bitsAt b e 96 32)⟩ : RouteEntry)
      let ok := bitsAt b o 20 44 == 0 && (List.range n).all fun i =>
        let e := o + 8 + 16 * i
        bitsAt b e 22 2 == 0 && bitsAt b e 50 14 == 0 && bitsAt b e 80 16 != 0
      (routesFrom b last k next).map fun r => (⟨BitVec.ofNat 8 (bitsAt b o 0 8), es⟩ :: r.1, ok && r.2)

/-- The ROUTE section and whether its reserved fields are zero; no tables where it is absent. -/
def routesOf (b : Bytes) : Option (List RouteTable × Bool) :=
  match sectOf b 5 with
  | some x => routesFrom b (x.off + x.len) x.count x.off
  | none => some ([], true)

def distOf (b : Bytes) : List DistEntry :=
  match sectOf b 6 with
  | some x => (List.range x.count).map fun i =>
      let o := x.off + 16 * i
      ⟨BitVec.ofNat 14 (bitsAt b o 0 14), BitVec.ofNat 14 (bitsAt b o 14 14), BitVec.ofNat 14 (bitsAt b o 28 14), bitsAt b o 42 1 == 1,
        0, 0⟩
  | none => []

def varsOf (b : Bytes) : List VarDesc :=
  match sectOf b 7 with
  | some x => (List.range (hdNvar b)).map fun i =>
      let o := x.off + 8 * i
      ⟨BitVec.ofNat 2 (bitsAt b o 8 2), bitsAt b o 10 1 == 1, BitVec.ofNat 16 (bitsAt b o 16 16), BitVec.ofNat 32 (bitsAt b o 32 32)⟩
  | none => []

def slotsOf (b : Bytes) : List SlotDesc :=
  match sectOf b 7 with
  | some x => (List.range (hdNslot b)).map fun i =>
      let o := x.off + 8 * hdNvar b + 4 * i
      ⟨BitVec.ofNat 16 (bitsAt b o 0 16), bitsAt b o 16 1 == 1⟩
  | none => []

/-! Checks (Table 6-14). A failure names the status, the section TYPE and the record. -/

structure LoadFail where
  status : Nat
  type : Nat
  vcell : Nat
  eng : Nat
  ix : Nat
  deriving DecidableEq, Repr

/-- A check that fails when `bad`. -/
def failIf (bad : Bool) (f : LoadFail) : Option LoadFail := if bad then some f else none

/-- The first record of a list that is bad. -/
def firstBad {α : Type} (l : List α) (bad : α → Bool) (f : Nat → LoadFail) : Option LoadFail := (l.findIdx? bad).map f

/-- Section types of Table 6-5. -/
def sectTypes : List Nat := [1, 2, 3, 4, 5, 6, 7, 0xFF]

/-- Strictly ascending. -/
def ascending : List Nat → Bool
  | a :: b :: l => decide (a < b) && ascending (b :: l)
  | _ => true

/-- Header ranges and reserved fields (Table 6-3). -/
def headerOk (b : Bytes) : Bool :=
  let h := bitsAt b 0
  decide (128 ≤ b.length) && h 0 32 == 0x4E4C4750 && h 32 16 == 1 && h 56 8 == 0 && h 84 12 == 0 && h 120 8 == 0 && h 240 16 == 0
    && h 299 20 == 0 && h 323 29 == 0 && h 456 56 == 0
    && decide (hdVcol0 b ≤ 15) && decide (1 ≤ hdVcols b ∧ hdVcols b ≤ 16) && decide (hdVcol0 b + hdVcols b ≤ 16)
    && decide (250 ≤ hdPeriod b ∧ hdPeriod b ≤ 100000) && decide (hdWork b < 3600 * hdPeriod b)
    && decide (1 ≤ hdNvar b ∧ hdNvar b ≤ 256) && decide (1 ≤ hdNslot b ∧ hdNslot b ≤ 4096)
    && decide (4 ≤ hdNsect b ∧ hdNsect b ≤ 8) && decide (h 416 16 ≤ 4096)

/-- A section's bounds and length (Tables 6-4 and 6-5). -/
def sectOk (b : Bytes) (i : Nat) (x : Sect) : Bool :=
  sectTypes.contains x.type && bitsAt b (128 + 24 * i) 16 16 == 0 && x.off % 8 == 0
    && decide (128 + 24 * hdNsect b ≤ x.off) && decide (x.off + x.len ≤ b.length)
    && (match x.type with
      | 2 => x.count == x.len
      | 3 => x.len == 16 * x.count
      | 4 => x.len == 8 * x.count
      | 6 => x.len == 16 * x.count
      | 7 => x.count == hdNvar b + hdNslot b && x.len == 8 * hdNvar b + 4 * hdNslot b
      | 0xFF => x.count == 1 && x.len == 4627 && x.off + x.len == b.length
      | _ => true)

/-- Sections do not overlap, and every other byte of the image is padding of zeros between two of them (R139). -/
def coverOk (b : Bytes) : Bool :=
  let xs := sectsOf b
  let dirEnd := 128 + 24 * hdNsect b
  let owners (i : Nat) : Nat := (xs.filter fun x => decide (x.off ≤ i ∧ i < x.off + x.len)).length
  (List.range b.length).all fun i => decide (i < dirEnd) || owners i == 1 || (owners i == 0 && b[i]? == some 0
    && xs.any fun x => decide (x.off + x.len ≤ i))

/-- VCELL and ENG of the CODE records that a plan holds, in their order. -/
def codeKeys (b : Bytes) : List (Nat × Nat) :=
  (List.range 12).flatMap fun r => (List.range (hdVcols b)).flatMap fun c =>
    (List.range 4).map fun e => (r * 16 + hdVcol0 b + c, e)

/-- A word is a DSND or a DRCV. -/
def isLink (e : Nat) (w : BitVec 64) : Bool :=
  e == 2 && (match decodeWord .dme w with
    | some (.dsnd _) | some (.drcv _) => true
    | _ => false)

/-- Check 1 FORMAT. DESIGN CHOICE (log 73): the tables of ROUTE, for which Table 6-5 gives no order, may stand in any; of two for one cell the
first counts. DESIGN CHOICE (log 93): a SLOTCNT of 0, an NV that is not NVAR, a VAR that is not its position and an order of CODE or DIST
records that is not Table 6-5's, for which Table 6-14 names no check, fail this one. -/
def checkFormat (b : Bytes) : Option LoadFail :=
  let f (t : Nat) (i : Nat) : LoadFail := ⟨1, t, 0, 0, i⟩
  let xs := sectsOf b
  (failIf (!headerOk b) (f 0 0)).orElse fun _ =>
  (failIf (decide (b.length < 128 + 24 * hdNsect b) || !ascending (xs.map (·.type))) (f 0 0)).orElse fun _ =>
  ((xs.zipIdx.find? fun x => !sectOk b x.2 x.1).map fun x => f x.1.type 0).orElse fun _ =>
  (failIf (!coverOk b) (f 0 0)).orElse fun _ =>
  (([1, 6, 7, 0xFF].find? fun t => (sectOf b t).isNone).map fun t => f t 0).orElse fun _ =>
  (match codesOf b with
    | none => some (f 1 0)
    | some cs =>
      (firstBad cs (fun c => !c.rsvd || c.nv != hdNvar b) (f 1)).orElse fun _ =>
      (failIf (cs.map (fun (c : RawCode) => (c.vcell, c.eng)) != codeKeys b) (f 1 0)).orElse fun _ =>
      failIf ((sectOf b 5).isNone && cs.any fun c => c.words.any (isLink c.eng)) (f 5 0)).orElse fun _ =>
  (firstBad (relocsOf b) (fun r => !r.rsvd || decide (4 < r.type) || decide (8 < r.region)) (f 3)).orElse fun _ =>
  (firstBad (patchesOf b) (fun r => !r.rsvd || decide (3 < r.kind)) (f 4)).orElse fun _ =>
  (match routesOf b with
    | none => some (f 5 0)
    | some r => failIf (!r.2) (f 5 0)).orElse fun _ =>
  (match sectOf b 6 with
    | none => none
    | some x => firstBad (List.range x.count) (fun i => bitsAt b (x.off + 16 * i) 43 21 != 0) (f 6)).orElse fun _ =>
  (failIf (!ascending ((distOf b).map fun (d : DistEntry) => d.dev.toNat)) (f 6 0)).orElse fun _ =>
  (match sectOf b 7 with
    | none => none
    | some x =>
      (firstBad (List.range (hdNvar b)) (fun i => bitsAt b (x.off + 8 * i) 0 8 != i || bitsAt b (x.off + 8 * i) 11 5 != 0) (f 7)).orElse
      fun _ => firstBad (List.range (hdNslot b)) (fun i => bitsAt b (x.off + 8 * hdNvar b + 4 * i) 17 15 != 0) (f 7))

/-- Check 2 SIGNATURE. -/
def State.checkSignature (s : State) (p : PartIx) (b : Bytes) : Option LoadFail :=
  let key := s.pobj p 0x30
  match sectOf b 0xFF with
  | none => some ⟨2, 0xFF, 0, 0, 0⟩
  | some x =>
    let msg := leBytes 64 (Config.sha3_512 (b.take x.off)).toNat
    failIf (key.isEmpty || !Config.mlDsaVerify key msg "CLR PLAN" ((b.drop x.off).take x.len)) ⟨2, 0xFF, 0, 0, 0⟩

/-- CT_DIGEST (0xA000.03). -/
def ctDigest : BitVec 512 :=
  Config.sha3_512 ((List.range 48).flatMap fun i =>
    let v := objDefault (objKey 0xA000 (0x10 + i))
    (v ++ List.replicate 4 0).take 4)

/-- Check 3 CONTRACT. -/
def checkContract (b : Bytes) : Option LoadFail :=
  failIf (bitsAt b 0 48 8 != 1 || (b.drop 64).take 64 != leBytes 64 ctDigest.toNat) ⟨3, 0, 0, 0, 0⟩

/-- Physical port of a plan port (R144). -/
def State.portOf (s : State) (p : PartIx) (q : Nat) : Option PortIx :=
  let m := s.pobj p 0x31
  let n := recField ((m.drop (8 + q)).take 1) 0 8
  if h : q < 24 ∧ 32 ≤ m.length ∧ n < 24 then some ⟨n, h.2.2⟩ else none

/-- Check 4 FEATURE (R4, R176). -/
def State.checkFeature (s : State) (p : PartIx) (b : Bytes) : Option LoadFail :=
  let req : BitVec 64 := BitVec.ofNat 64 (bitsAt b 0 256 43)
  let bark := bitsAt b 0 416 16
  let ports : BitVec 24 := BitVec.ofNat 24 (bitsAt b 0 432 24)
  let portBad := (List.range 24).any fun q => ports.getLsbD q && (match s.portOf p q with
    | some n => !s.hasPort n
    | none => true)
  failIf (req &&& ~~~s.partNo.features != 0 || decide (s.partNo.partitions - 1 < bitsAt b 0 319 4) || decide (s.partNo.bark < bark)
    || (bark != 0 && (hdPeriod b % 10000 != 0 || decide (40000 < hdPeriod b))) || portBad) ⟨4, 0, 0, 0, 0⟩

/-- Check 5 GRID (R142). -/
def State.checkGrid (s : State) (p : PartIx) (b : Bytes) : Option LoadFail :=
  failIf (bitsAt b 0 96 8 != 12
    || (s.colsOf p).map (·.val) != (List.range (hdVcols b)).map (hdVcol0 b + ·)) ⟨5, 0, 0, 0, 0⟩

/-- Translation pages mapped in a tier. -/
def State.tierPages (s : State) (p : PartIx) (lp : Bool) : Nat :=
  (s.regions p).foldl (fun a r => if r.lpddr = lp then a + r.pages else a) 0

/-- First byte and size of a half of a region (R145). -/
def halfOf (r : MapRow) (upper : Bool) : Nat × Nat :=
  let n := 2097152 * (r.pages / 2)
  (if upper then r.addr + n else r.addr, n)

/-- The running plan or a plan retained occupies a half. -/
def Partition.halfUsed (x : Partition) (u : Bool) : Bool :=
  (match x.runPlan with | some pl => pl.upper == u | none => false) || (match x.oldPlan with | some pl => pl.upper == u | none => false)

/-- The half that a load uses: one that neither the running nor a retained plan occupies. -/
def Partition.freeHalf (x : Partition) : Bool := x.halfUsed false

/-- Both halves are occupied: a plan switch has taken place while the load was in progress (R145, R268). -/
def Partition.noHalf (x : Partition) : Bool := x.halfUsed false && x.halfUsed true

/-- Check 6 CAPACITY. -/
def State.checkCapacity (s : State) (p : PartIx) (upper : Bool) (b : Bytes) (cs : List RawCode) : Option LoadFail :=
  let size := cs.foldl (fun a c => a + 8 * c.words.length) 0
  let const := match sectOf b 2 with
    | some x => x.len
    | none => 0
  (failIf (decide (s.tierPages p false < bitsAt b 0 352 32) || decide (s.tierPages p true < bitsAt b 0 384 32)) ⟨6, 0, 0, 0, 0⟩).orElse fun _ =>
  (failIf (decide ((halfOf (s.region p rgPlan) upper).2 < size)) ⟨6, 1, 0, 0, 0⟩).orElse fun _ =>
  (failIf (decide ((halfOf (s.region p rgConst) upper).2 < const)) ⟨6, 2, 0, 0, 0⟩).orElse fun _ =>
  failIf (decide (s.pnum p 0x41 < hdNslot b)) ⟨6, 7, 0, 0, 0⟩

/-- The neighbour that a push names lies in the plan's columns (R47). -/
def pushInside (b : Bytes) (vcell : Nat) (d : Side) : Bool :=
  let c : CellRef := ⟨⟨vcell / 16 % 12, Nat.mod_lt _ (by decide)⟩, ⟨vcell % 16, Nat.mod_lt _ (by decide)⟩⟩
  match CellRef.next c d with
  | some e => decide (hdVcol0 b ≤ e.col.val ∧ e.col.val < hdVcol0 b + hdVcols b)
  | none => false

/-- SEL of a draw (R172). -/
def selOk (nslot count : Nat) (ksrc : Bool) (sel : BitVec 12) : Bool :=
  if ksrc then decide (sel.toNat < nslot) else decide (sel.toNat < count)

/-- Rules of check 7 that need more than the word. -/
def State.placedOk (s : State) (p : PartIx) (b : Bytes) (vcell : Nat) (o : EngOp) : Bool :=
  let n := hdNslot b
  match o with
  | .push f => pushInside b vcell (Side.ofCode f.dir)
  | .shk f => decide (f.slot.toNat < n)
  | .srpt f => decide (f.slot.toNat < n)
  | .vrnd f => selOk n (s.pnum p 0x41) f.ksrc f.sel
  | .srnd f => selOk n (s.pnum p 0x41) f.ksrc f.sel
  | _ => true

/-- Check 7 ENCODING. -/
def State.checkEncoding (s : State) (p : PartIx) (b : Bytes) (cs : List RawCode) : Option LoadFail :=
  cs.findSome? fun c =>
    firstBad c.words (fun w => match decodeWord (Eng.ofCode (BitVec.ofNat 2 c.eng)) w with
      | some o => !(o.wf && s.placedOk p b c.vcell o)
      | none => true) fun i => ⟨7, 1, c.vcell, c.eng, i⟩

/-! Check 8 STRUCTURE (R113, R126, R130) -/

/-- The instructions of a record. -/
def RawCode.ops (c : RawCode) : List EngOp := c.words.filterMap (decodeWord (Eng.ofCode (BitVec.ofNat 2 c.eng)))

/-- Loop bodies: first and last instruction. -/
def loopsOf (ops : List EngOp) : List (Nat × Nat) :=
  ops.zipIdx.filterMap fun x => match x.1 with
    | .loop f => some (x.2 + 1, x.2 + f.body.toNat)
    | _ => none

/-- Loop bodies that hold an instruction. -/
def bodiesAt (ls : List (Nat × Nat)) (i : Nat) : List (Nat × Nat) := ls.filter fun l => decide (l.1 ≤ i ∧ i ≤ l.2)

/-- Target of a branch; none outside the code. -/
def branchTarget (n i : Nat) (f : SbrF) : Option Nat :=
  let t : Int := Int.ofNat i + f.off.toInt
  if 0 ≤ t ∧ t < Int.ofNat n then some t.toNat else none

/-- A branch stays inside exactly the loop bodies that hold it (R130). -/
def branchOk (ls : List (Nat × Nat)) (n i : Nat) (f : SbrF) : Bool :=
  match branchTarget n i f with
  | none => false
  | some t => bodiesAt ls t == bodiesAt ls i

/-- Instructions that may follow an instruction; `n` stands for the end of the record. -/
def followers (ops : List EngOp) (i : Nat) : List Nat :=
  match ops[i]? with
  | none => []
  | some .stepend => []
  | some (.sbr f) =>
    let t := match branchTarget ops.length i f with
      | some t => [t]
      | none => [ops.length]
    if f.cond = 6 then t else (i + 1) :: t
  | some _ => [i + 1]

/-- Everything that can be reached in at most `k` rounds. -/
def reach (next : Nat → List Nat) : Nat → List Nat → List Nat
  | 0, l => l
  | k + 1, l =>
    let new := ((l.flatMap next).filter fun i => !l.contains i).eraseDups
    if new.isEmpty then l else reach next k (l ++ new)

/-- A rule of one instruction. -/
def structureAt (ops : List EngOp) (ls : List (Nat × Nat)) (i : Nat) (o : EngOp) : Bool :=
  let inside := bodiesAt ls i
  match o with
  | .loop f =>
    decide (i + f.body.toNat < ops.length) && inside.all (fun l => decide (i + f.body.toNat ≤ l.2)) && decide (inside.length < 4)
  | .stepend => inside.isEmpty
  | .sbr f => branchOk ls ops.length i f
  | .wait f => decide (f.dm.toNat ≤ inside.length)
  | _ => true

/-- A record keeps R113 and R130: the first instruction that breaks them. -/
def RawCode.structureBad (c : RawCode) : Option Nat :=
  let ops := c.ops
  let ls := loopsOf ops
  let n := ops.length
  let all := reach (followers ops) n (c.entries.map (· / 8)).eraseDups
  let leads (i : Nat) : Bool := (reach (followers ops) n [i]).any fun j => ops[j]? == some .stepend
  (ops.zipIdx.find? fun x => !structureAt ops ls x.2 x.1 || (all.contains x.2 && ((followers ops x.2).contains n || !leads x.2))).map (·.2)

/-- Tallies that completions of a cell name. -/
def completionTallies (cs : List RawCode) (vcell : Nat) : List (BitVec 6) :=
  (cs.filter fun c => c.vcell == vcell && c.eng == 2).flatMap fun c => c.ops.filterMap fun o =>
    match o with
    | .drd f | .dwr f => some f.ctal
    | .dsnd f | .drcv f => some f.ctal
    | _ => none

/-- ROUTE of a transfer. -/
def routeIx : EngOp → Option Nat
  | .dsnd f | .drcv f => some f.route.toNat
  | _ => none

/-- Check 8 STRUCTURE. -/
def checkStructure (cs : List RawCode) (rs : List RouteTable) : Option LoadFail :=
  cs.findSome? fun c =>
    let f (i : Nat) : LoadFail := ⟨8, 1, c.vcell, c.eng, i⟩
    let n := c.words.length
    let late := completionTallies cs c.vcell
    let routes := match rs.find? fun t => t.vcell.toNat == c.vcell with
      | some t => t.entries.length
      | none => 0
    (firstBad c.entries (fun e => e % 8 != 0 || decide (8 * n ≤ e)) (fun i => f i)).orElse fun _ =>
    (c.structureBad.map f).orElse fun _ =>
    firstBad c.ops (fun o => (match o with
      | .wait g => !g.v && late.contains g.tally
      | _ => false) || (match routeIx o with
      | some r => decide (routes ≤ r)
      | none => false)) f

/-! Check 9 RELOC (R143) -/

/-- Value of a relocation: base of the region, for CONST of the half used, plus ADDEND. -/
def State.relocValue (s : State) (p : PartIx) (upper : Bool) (r : Reloc) : BitVec 64 :=
  let base := if r.region = 0 then (halfOf (s.region p rgConst) upper).1 else (s.region p r.region).addr
  BitVec.ofNat 64 (base + r.addend)

def State.relocSize (s : State) (p : PartIx) (upper : Bool) (r : Reloc) : Nat :=
  if r.region = 0 then (halfOf (s.region p rgConst) upper).2 else (s.region p r.region).size

/-- The located item is of the named kind and its field is zero. DESIGN CHOICE (log 93): a CONST64 record whose VCELL or ENG is not 0, for which
Table 6-14 names no check, fails this one. -/
def relocFits (b : Bytes) (cs : List RawCode) (r : Reloc) : Bool :=
  if r.type = 0 then
    r.vcell == 0 && r.eng == 0 && r.pos % 8 == 0 && (match sectOf b 2 with
      | some x => decide (r.pos + 8 ≤ x.len) && ((b.drop (x.off + r.pos)).take 8).all (· == 0)
      | none => false)
  else
    let e := if r.type ≤ 2 then 2 else 3
    let hi := r.type == 2 || r.type == 4
    r.eng == e && (match cs.find? fun c => c.vcell == r.vcell && c.eng == e with
      | none => false
      | some c => match c.words[r.pos]? with
        | none => false
        | some w => match decodeWord (Eng.ofCode (BitVec.ofNat 2 e)) w with
          | some (.pset f) => e == 2 && f.hi == hi && f.imm == 0
          | some (.simm f) => e == 3 && f.hi == hi && f.imm == 0
          | _ => false)

/-- Check 9 RELOC. -/
def State.checkReloc (s : State) (p : PartIx) (upper : Bool) (b : Bytes) (cs : List RawCode) : Option LoadFail :=
  let rs := relocsOf b
  let same (a c : Reloc) : Bool := (a.type == 0) == (c.type == 0) && a.vcell == c.vcell && a.eng == c.eng && a.pos == c.pos
  (rs.zipIdx.find? fun r => !relocFits b cs r.1 || decide (s.relocSize p upper r.1 ≤ r.1.addend)
    || rs.zipIdx.any fun q => decide (q.2 < r.2) && same q.1 r.1).map fun r => ⟨9, 3, r.1.vcell, r.1.eng, r.2⟩

/-- An instruction with its relocated IMM. -/
def relocWord (e : Nat) (v : BitVec 64) (r : Reloc) (w : BitVec 64) : BitVec 64 :=
  let imm := if r.type = 2 ∨ r.type = 4 then v.extractLsb' 32 32 else v.extractLsb' 0 32
  match decodeWord (Eng.ofCode (BitVec.ofNat 2 e)) w with
  | some (.pset f) => encodeWord (.pset { f with imm := imm })
  | some (.simm f) => encodeWord (.simm { f with imm := imm })
  | _ => w

/-- The code after relocation. -/
def State.relocCode (s : State) (p : PartIx) (upper : Bool) (rs : List Reloc) (c : RawCode) : RawCode :=
  rs.foldl (fun c r =>
    if r.type ≠ 0 ∧ r.vcell = c.vcell ∧ r.eng = c.eng then
      { c with words := c.words.modify r.pos (relocWord c.eng (s.relocValue p upper r) r) }
    else c) c

/-- CONST after relocation. -/
def State.relocConst (s : State) (p : PartIx) (upper : Bool) (b : Bytes) : Bytes :=
  match sectOf b 2 with
  | none => []
  | some x =>
    (relocsOf b).foldl (fun k r =>
      if r.type = 0 then k.take r.pos ++ leBytes 8 (s.relocValue p upper r).toNat ++ k.drop (r.pos + 8) else k)
      ((b.drop x.off).take x.len)

/-! Check 10 PATCH (R144) -/

/-- A plan port may be used: REQ_PORT names it and the port map gives a physical port. -/
def State.planPort (s : State) (p : PartIx) (b : Bytes) (q : BitVec 5) : Option PortIx :=
  if (BitVec.ofNat 24 (bitsAt b 0 432 24)).getLsbD q.toNat then s.portOf p q.toNat else none

/-- A route entry after patching, or none if a rule of R144 refuses it. DESIGN CHOICE (log 93): a DPORT that is the PPORT is accepted. -/
def State.patchRoute (s : State) (p : PartIx) (b : Bytes) (e : RouteEntry) : Option RouteEntry :=
  match s.planPort p b e.pport, s.planPort p b e.dport with
  | some n, some d =>
    let slot0 := e.slot0.toNat + s.packMap p 32 16
    let o := match s.ownerIx n p with
      | some i => s.ownerAt n i
      | none => ⟨0, 0, 0, 0, 0⟩
    let last := min 65536 (o.base + o.count)
    let start := if slot0 % 64 = 63 then slot0 + 1 else slot0
    if e.farDev.toNat < s.ndev p ∧ o.kind = 1 ∧ (o.count = 65536 ∨ o.base ≤ start) ∧ slot0 < last ∧ e.slotCnt.toNat ≤ openPositions slot0 last then
      some { e with pport := BitVec.ofNat 5 n.val, dport := BitVec.ofNat 5 d.val, slot0 := BitVec.ofNat 16 slot0, farAddr := s.addrOf p e.farDev }
    else none
  | _, _ => none

/-- A patch record names an existing entry, and no earlier record names it with the same kind. DESIGN CHOICE (log 93): a DIST record whose VCELL
is not 0, for which Table 6-14 names no check, fails this one. -/
def patchNames (rs : List RouteTable) (ds : List DistEntry) (k : Patch) : Bool :=
  if k.kind = 3 then k.vcell == 0 && decide (k.entry < ds.length)
  else match rs.find? fun t => t.vcell.toNat == k.vcell with
    | some t => decide (k.entry < t.entries.length)
    | none => false

/-- Check 10 PATCH. DESIGN CHOICE (log 94): of several refusals of R144 the first is taken of patch records, route entries and distribution
entries, in this order. -/
def State.checkPatch (s : State) (p : PartIx) (b : Bytes) (rs : List RouteTable) : Option LoadFail :=
  let ps := patchesOf b
  let ds := distOf b
  let names (k v i : Nat) : Bool := ps.any fun q => q.kind == k && q.vcell == v && q.entry == i
  let n := s.ndev p
  ((ps.zipIdx.find? fun r => !patchNames rs ds r.1 || ps.zipIdx.any fun q => decide (q.2 < r.2) && q.1 == r.1).map fun r =>
    (⟨10, 4, r.1.vcell, 0, r.2⟩ : LoadFail)).orElse fun _ =>
  (rs.findSome? fun t => firstBad t.entries (fun e => (s.patchRoute p b e).isNone) fun i => ⟨10, 5, t.vcell.toNat, 0, i⟩).orElse fun _ =>
  (rs.findSome? fun t => firstBad (List.range t.entries.length) (fun i =>
    !(names 0 t.vcell.toNat i && names 1 t.vcell.toNat i && names 2 t.vcell.toNat i)) fun i => ⟨10, 5, t.vcell.toNat, 0, i⟩).orElse fun _ =>
  (firstBad (ds.zipIdx) (fun d => !names 3 0 d.2 || decide (n ≤ d.1.dev.toNat) || decide (n ≤ d.1.parent.toNat)
    || decide (n ≤ d.1.backup.toNat)) fun i => ⟨10, 6, 0, 0, i⟩).orElse fun _ =>
  (failIf (!(ds.any fun d => d.dev == s.self p)) ⟨10, 6, 0, 0, 0⟩).orElse fun _ =>
  (failIf ((ds.filter fun d => d.parent == d.dev).length != 1) ⟨10, 6, 0, 0, 0⟩).orElse fun _ =>
  firstBad ds (fun d => d.parent == d.dev && !d.fetch) fun i => ⟨10, 6, 0, 0, i⟩

/-- Check 11 KENNEL. DESIGN CHOICE (log 93): a variant whose SLOTS is 0, for which Table 6-14 names no check, fails this one. -/
def checkKennel (b : Bytes) : Option LoadFail :=
  let vs := varsOf b
  (failIf (bitsAt b 0 416 16 == 0 && (slotsOf b).any (·.barkIo)) ⟨11, 7, 0, 0, 0⟩).orElse fun _ =>
  firstBad vs (fun v => v.slots == 0 || decide (hdNslot b < v.slots.toNat) || decide (hdWork b < v.vwork.toNat)
    || !(vs.any fun u => u.kw == 0 && u.mslot == v.mslot)) fun i => ⟨11, 7, 0, 0, i⟩

/-! The load (R145) -/

/-- CODE records with their places in the half. -/
def placeCode (at_ : Nat) : List RawCode → List CodeRec
  | [] => []
  | c :: cs =>
    ⟨BitVec.ofNat 8 c.vcell, BitVec.ofNat 2 c.eng, c.entries.map (BitVec.ofNat 32), at_, c.words.length⟩ ::
      placeCode (at_ + 8 * c.words.length) cs

/-- The first check of Table 6-14 that fails, if any, in the table's order (R145). DEDUCED (log 73): a load that finds no half free fails
check 6, since its code fits in none. -/
def State.checkPlan (s : State) (p : PartIx) (b : Bytes) (cs : List RawCode) (rs : List RouteTable) : Option LoadFail :=
  [checkFormat b, s.checkSignature p b, checkContract b, s.checkFeature p b, s.checkGrid p b,
    if (s.part p).noHalf then some ⟨6, 0, 0, 0, 0⟩ else s.checkCapacity p (s.part p).freeHalf b cs, s.checkEncoding p b cs, checkStructure cs rs,
    s.checkReloc p (s.part p).freeHalf b cs, s.checkPatch p b rs, checkKennel b].findSome? id

/-- The plan that a checked image becomes, its code relocated as `cs`, its routes patched (R143, R144). -/
def State.planFrom (s : State) (p : PartIx) (b : Bytes) (cs : List RawCode) (rs : List RouteTable) : PlanRec :=
  { scentId := BitVec.ofNat 20 (bitsAt b 0 64 20), vcol0 := hdVcol0 b, vcols := hdVcols b
    period := BitVec.ofNat 32 (hdPeriod b), work := BitVec.ofNat 32 (hdWork b), nslot := hdNslot b
    barkStr := BitVec.ofNat 16 (bitsAt b 0 416 16), reqPort := BitVec.ofNat 24 (bitsAt b 0 432 24), upper := (s.part p).freeHalf
    code := placeCode 0 cs
    routes := rs.map fun t => { t with entries := t.entries.filterMap (s.patchRoute p b) }
    dist := (distOf b).map fun d => { d with parentAddr := s.addrOf p d.parent, backupAddr := s.addrOf p d.backup }
    vars := varsOf b, slots := slotsOf b
    digest := Config.sha3_512 (match sectOf b 0xFF with | some x => b.take x.off | none => b) }

/-- The bytes of the plan region that some code fills. -/
def codeBytes (cs : List RawCode) : Bytes := cs.flatMap fun c => c.words.flatMap fun w => leBytes 8 w.toNat

/-- The plan that an image becomes, with the bytes of its code and of its constants, or the first check that fails. -/
def State.loadPlan (s : State) (p : PartIx) (b : Bytes) : Except LoadFail (PlanRec × Bytes × Bytes) :=
  let upper := (s.part p).freeHalf
  let cs := (codesOf b).getD []
  let rs := ((routesOf b).map Prod.fst).getD []
  let placed := cs.map (s.relocCode p upper (relocsOf b))
  (s.checkPlan p b cs rs).elim (.ok (s.planFrom p b placed rs, codeBytes placed, s.relocConst p upper b)) .error

/-- Bytes of one slot of a step record in a capture (log 38). -/
def captureSlot : Nat := 18

/-- Seeds that a capture names, with their digests (log 38): the index of each used slot's seed in its step record; then those that draws named
themselves, each with its index, and their number at the end. -/
def captureSeeds (c : Bytes) : List (Nat × Bytes) :=
  let slots := (List.range (recField c 592 16)).map fun i => (c.drop (76 + captureSlot * i)).take captureSlot
  let used := slots.filter fun b => recField b 0 1 == 1
  let own := leNat (c.drop (c.length - 2))
  let ownAt := c.length - 2 - 34 * own
  let tail := c.drop (ownAt - 32 * used.length)
  used.zipIdx.map (fun u => (recField u.1 56 16, (tail.drop (32 * u.2)).take 32))
    ++ (List.range own).map fun i => let r := c.drop (ownAt + 34 * i); (leNat (r.take 2), (r.drop 2).take 32)

/-- A seed's digest. -/
def seedDigest (k : BitVec 128) : Bytes := leBytes 32 (Config.sha3_256 (leBytes 16 k.toNat)).toNat

/-- The audit of a capture is refused: a seed that it used is not the one in the partition's seed table (R264). -/
def State.auditRefused (s : State) (p : PartIx) (audit : Option Bytes) : Bool :=
  match audit with
  | none => false
  | some c => s.pnum p 0x7B != 0xFFFFFFFF
      && (captureSeeds c).any fun q => seedDigest (((s.part p).kennel.seeds[q.1]?).getD 0) != q.2

/-- A load reaches its status: the first failed check, or the plan placed in one piece. DESIGN CHOICE (log 75): a refused audit writes
status 0x0C, which Table 6-14 leaves free. Under the device Muzzle the image cannot be read, and the load waits (R319). -/
def execPlanLoadDone (p : PartIx) (bytes : PlanBytes) (s : State) : Host.Outcome State Fault Refusal :=
  let x := s.part p
  match x.load with
  | none => done s
  | some job =>
    if s.faults.muzzle then done s
    else if s.auditRefused p bytes.audit then done (s.setPart p { x with load := none, loadStatus := 0x0C, loadWhere := 0 })
    else
    let b := match bytes.image with
      | some b => if b.length = job.len.toNat then b else []
      | none => []
    match s.loadPlan p b with
    | .error f =>
      done (s.setPart p { x with
        load := none
        loadStatus := BitVec.ofNat 32 (packFields [(8, f.status), (16, f.type)])
        loadWhere := BitVec.ofNat 64 (packFields [(8, f.vcell), (2, f.eng), (6, 0), (48, f.ix)]) })
    | .ok (pl, code, const) =>
      let s := s.writeP p (halfOf (s.region p rgPlan) pl.upper).1 code .loader
      let s := s.writeP p (halfOf (s.region p rgConst) pl.upper).1 const .loader
      done (s.modPart p fun x => { x with load := none, loadStatus := 0, loadedPlan := some pl })

end Sys2Proof.Machine
end

