-- ==== Sys2Proof/Machine/Check.lean ====
section
/-!
DEFINITION. The check of a staged set (R302): each value alone, then the cross-object rules in the order of Table 12-9, and the report of Table
12-10.
-/

namespace Sys2Proof.Machine

/-- A failed rule: REASON, DETAIL, the failing object, the other object and its partition. -/
structure CheckFail where
  reason : Nat
  detail : Nat
  obj1 : Nat
  obj2 : Nat
  other : Nat
  deriving DecidableEq, Repr

/-- Of two failures the one that R302 meets first. -/
def CheckFail.first (a b : CheckFail) : CheckFail :=
  let lt (x y : CheckFail) : Bool :=
    decide (x.reason < y.reason) || (x.reason == y.reason && (decide (x.obj1 < y.obj1) || (x.obj1 == y.obj1 && decide (x.detail < y.detail))))
  if lt b a then b else a

/-- The first failure of a list. -/
def firstFail : List CheckFail → Option CheckFail
  | [] => none
  | f :: fs => match firstFail fs with
    | some g => some (f.first g)
    | none => some f

/-! The candidate configuration -/

/-- Key of a staged object. -/
def StagedObj.key (o : StagedObj) : Nat := objKey o.index.toNat o.sub.toNat

/-- A staged set with one more copy, by rising key. -/
def stageObj (o : StagedObj) : List StagedObj → List StagedObj
  | [] => [o]
  | p :: ps => if o.key < p.key then o :: p :: ps else if o.key = p.key then o :: ps else p :: stageObj o ps

/-- Values set over the committed ones. -/
def State.overlay (s : State) (l : List StagedObj) : State :=
  l.foldl (fun s o => s.setObj o.index.toNat o.sub.toNat o.value) s

/-- A pending commit, of an open session or of one that has closed. -/
structure Pend where
  order : Nat
  step : BitVec 64
  clock : PartIx
  objs : List StagedObj
  role : BitVec 4
  part : PartIx
  core : Bool
  deriving DecidableEq, Repr

/-- Insert by rising order. -/
def pendInsert (a : Pend) : List Pend → List Pend
  | [] => [a]
  | b :: bs => if a.order < b.order then a :: b :: bs else b :: pendInsert a bs

/-- Every pending commit, in the order of the checks. -/
def State.pends (s : State) : List Pend :=
  let open_ : List Pend := s.sessions.filterMap fun x => match x.staging with
    | some g => if g.state = 3 then g.on.map fun p => ⟨g.order, g.step, p, g.objs, x.role, x.part, g.core⟩ else none
    | none => none
  let closed : List Pend := s.orphans.map fun o => ⟨o.order, o.step, o.clock, o.objs, o.role, 0, false⟩
  (open_ ++ closed).foldr pendInsert []

/-- Key of an object of a partition. -/
def pkey (p : PartIx) (sub : Nat) : Nat := objKey (0x2000 + p.val) sub

/-- Partitions that a set takes from OFF to ACTIVE. -/
def State.risen (s : State) (objs : List StagedObj) : List PartIx :=
  (List.finRange 16).filter fun p => (s.part p).partState == 0 && objs.any fun o => o.key == pkey p 1 && leNat o.value != 0

/-- Objects of some partitions at their defaults (R284). -/
def State.toDefaults (s : State) (up : List PartIx) : State :=
  { s with dict := s.dict.filter fun e => !(up.any fun p => e.1 / 256 == 0x2000 + p.val) }

/-- Values of a set over the committed ones, a partition that rises from OFF starting from its defaults (R284). -/
def State.overlaid (s : State) (objs : List StagedObj) : State := (s.toDefaults (s.risen objs)).overlay objs

/-- The configuration that a staged set would leave: pending commits but `skip`, then the set (R302). -/
def State.candidate (s : State) (objs : List StagedObj) (skip : Option Nat) : State :=
  ((s.pends.filter fun q => some q.order != skip).foldl (fun (c : State) q => c.overlaid q.objs) s).overlaid objs

/-! Each value alone -/

/-- Partition of an index 0x2000+p. -/
def partOfIndex (i : Nat) : Option PartIx := if h : 0x2000 ≤ i ∧ i < 0x2010 then some ⟨i - 0x2000, by omega⟩ else none

/-- Port of an index 0x3000+n. -/
def portOfIndex (i : Nat) : Option PortIx := if h : 0x3000 ≤ i ∧ i < 0x3018 then some ⟨i - 0x3000, by omega⟩ else none

/-- Index with partitions and ports taken together. -/
def baseIndex (i : Nat) : Nat :=
  if 0x2000 ≤ i ∧ i < 0x2010 then 0x2000 else if 0x3000 ≤ i ∧ i < 0x3018 then 0x3000 else i

/-- Length and form of the type. -/
def typeOk (t : ObjType) (v : Bytes) : Bool :=
  match t with
  | .num n => v.length == n
  | .bool => v == [0] || v == [1]
  | .str n | .blob n => decide (v.length ≤ n)
  | .handle => v.length == 32

/-- A region entry's reserved fields are zero. -/
def regionEntryOk (v : Bytes) (i : Nat) : Bool :=
  let e := (v.drop (16 * i)).take 16
  recField e 21 11 == 0 && recField e 52 76 == 0 && (decide (i ≤ 10) || leNat e == 0)

/-- Reserved fields of a staged value (R10), and the forms that Table 12-9 counts as FORMAT. A role key is not erased so (R341; DEDUCED, log 78). -/
def formatOk (i sub : Nat) (v : Bytes) : Bool :=
  match i, sub with
  | 0x2000, 0x31 => v.length == 32 + 4 * recField v 0 16 && recField v 30 2 == 0 && recField v 48 16 == 0
  | 0x2000, 0x50 => (List.range 16).all (regionEntryOk v)
  | 0x3000, 0x01 => leNat v / 2 == 0
  | 0x3000, 0x10 => (List.range 8).all fun k =>
      let e := (v.drop (16 * k)).take 16
      recField e 6 10 == 0 && recField e 80 48 == 0
  | 0x1050, 0x01 | 0x1050, 0x02 | 0x1050, 0x03 => !v.isEmpty
  | 0x3400, 0x20 => v.length % 8 == 0 && (List.range (v.length / 8)).all fun k => recField ((v.drop (8 * k)).take 8) 56 8 == 0
  | 0x6011, 0x01 => leNat v / 2 ^ 100 == 0
  | _, _ => true

/-- Bounds of a number. -/
def bounds (i sub : Nat) : Option (Nat × Nat) :=
  match i, sub with
  | 0x1060, 0x05 => some (1, 128)
  | 0x2000, 0x03 => some (0, 1)
  | 0x2000, 0x25 => some (100, 100000)
  | 0x2000, 0x41 => some (0, 4096)
  | 0x2000, 0x75 => some (1000, 100000)
  | 0x2000, 0x76 => some (100, 1000000)
  | 0x3400, 0x01 => some (1, 1024)
  | 0x3400, 0x02 => some (16, 24)
  | 0x3400, 0x03 => some (100, 100000)
  | 0x3400, 0x04 => some (20, 1000)
  | 0x3400, 0x07 => some (0, 10000)
  | 0x3400, 0x09 => some (1, 16)
  | 0x3400, 0x0C => some (100, 100000)
  | 0x4000, 0x12 => some (1, 168)
  | 0x5000, 0x01 => some (0, 65536)
  | 0x5000, 0x02 => some (0, 65536)
  | 0x6010, 0x01 => some (1, 10000)
  | 0x8000, 0x03 => some (0, 1)
  | 0x8000, 0x0A => some (1000, 1000000)
  | 0x9000, 0x01 => some (0, 2400)
  | 0x9000, 0x20 => some (600, 2400)
  | _, _ => none

/-- A ring size: a power of two from 64 to 4,096. -/
def ringSize (n : Nat) : Bool := [64, 128, 256, 512, 1024, 2048, 4096].contains n

/-- The set bits are one run, or none. -/
def oneRun (w : Nat) : Bool :=
  (List.range 17).any fun n => (List.range 16).any fun a => w == (2 ^ n - 1) * 2 ^ a

/-- Records of a transit map. -/
def transitRecs (v : Bytes) : List Bytes := (List.range (v.length / 8)).map fun k => (v.drop (8 * k)).take 8

/-- No two equal. -/
def distinct : List (Nat × Nat) → Bool
  | [] => true
  | a :: l => !l.contains a && distinct l

/-- Range or form of a value (RANGE of Table 12-9). -/
def rangeOk (i sub : Nat) (v : Bytes) : Bool :=
  (match bounds i sub with
    | some b => decide (b.1 ≤ leNat v ∧ leNat v ≤ b.2)
    | none => true) &&
  (match i, sub with
    | 0x2000, 0x01 => oneRun (leNat v)
    | 0x2000, 0x31 => decide (recField v 16 14 < recField v 0 16)
    | 0x2000, 0x43 | 0x2000, 0x45 | 0x2000, 0x61 | 0x2000, 0x63 => ringSize (leNat v)
    | 0x2000, 0x50 => (List.range 16).all fun k =>
        let e := (v.drop (16 * k)).take 16
        recField e 32 20 == 0 || decide (recField e 0 20 + recField e 32 20 ≤ 2 ^ 20)
    | 0x3000, 0x10 => (List.range 8).all fun k => decide (recField ((v.drop (16 * k)).take 16) 0 2 ≤ 2)
    | 0x3400, 0x20 => decide (v.length ≤ 8 * 16384)
        && distinct ((transitRecs v).map fun (r : Bytes) => (recField r 0 32, recField r 32 14))
    | _, _ => true)

/-- The units that a value names are present (ABSENT_UNIT of Table 12-9). -/
def State.unitsOk (s : State) (i sub : Nat) (v : Bytes) : Bool :=
  match i, sub with
  | 0x2000, 0x01 => leNat v / 2 ^ s.partNo.cols == 0
  | 0x2000, 0x47 => s.partNo.bark != 0 || leNat v == 0
  | 0x3000, 0x10 => (List.range 8).all fun k =>
      let o := ownerOf v k
      o.kind != 1 || decide (o.part < s.partNo.partitions)
  | 0x3400, 0x20 => (transitRecs v).all fun (r : Bytes) => decide (recField r 46 5 < s.partNo.ports ∧ recField r 51 5 < s.partNo.ports)
  | 0x8000, 0x04 | 0x8000, 0x05 => leNat v == 0xFF || decide (leNat v < s.partNo.ports)
  | _, _ => true

/-- REASON with which one staged value fails alone. -/
def State.valueFail (s : State) (o : StagedObj) : Option Nat :=
  let i := o.index.toNat
  let sub := o.sub.toNat
  let ty := match objDef i sub with
    | some d => typeOk d.type o.value
    | none => false
  if !ty || !formatOk (baseIndex i) sub o.value then some 1
  else if !rangeOk (baseIndex i) sub o.value then some 2
  else if !s.unitsOk (baseIndex i) sub o.value then some 3
  else none

/-- Phase 1 of R302. -/
def State.checkAlone (s : State) (objs : List StagedObj) : Option CheckFail :=
  objs.findSome? fun o => (s.valueFail o).map fun r => ⟨r, 0, o.key, 0, 0⟩

/-! Cross-object rules. `s` is the module as it stands, `c` the candidate, `st` says which objects the set stages. -/

/-- A failure, if `bad`. -/
def fail? (bad : Bool) (f : CheckFail) : List CheckFail := if bad then [f] else []

/-- Columns of a partition as a mask. -/
def State.colMask (s : State) (p : PartIx) : BitVec 16 := BitVec.ofNat 16 (s.pnum p 1)

/-- A partition of the candidate uses a crypto engine that failed its test: of a port on which it holds an entry, of a channel of its columns,
of its PCIe link (Table 11-4, R348). -/
def State.usesFailed (s c : State) (p : PartIx) : Bool :=
  let b := s.post.badCrypto
  (List.finRange 24).any (fun n => b.ports.getLsbD n.val && (c.ownerIx n p).isSome)
    || (List.range 96).any (fun ch => b.chans.getLsbD ch && c.ownsCol p (ch / s.partNo.lpShare))
    || b.links.getLsbD (c.linkOf p).val

/-- PART_COLS: columns held by others, columns still being scrubbed, unusable units (R274, R348). -/
def State.colRules (s c : State) (p : PartIx) : List CheckFail :=
  let want := c.colMask p
  let o1 := pkey p 1
  (List.finRange 16).flatMap (fun q =>
    if q = p then fail? (want &&& (s.part p).scrubCols != 0) ⟨9, 0, o1, 0, 0⟩
    else
      let y := s.part q
      let scrubbing := y.partState == 2
      let held := (if y.partState == 1 || y.partState == 3 then s.colMask q else 0) ||| (if scrubbing then 0 else c.colMask q)
      let scrub := if scrubbing then s.colMask q ||| y.scrubCols ||| c.colMask q else 0
      fail? (want &&& held != 0) ⟨4, 0, o1, pkey q 1, q.val⟩ ++ fail? (want &&& scrub != 0) ⟨9, 0, o1, pkey q 1, q.val⟩)
  ++ fail? (want &&& (s.post.badCols ||| s.post.badShares) != 0 || (want != 0 && s.usesFailed c p)) ⟨9, 0, o1, 0, 0⟩

/-- The Kennel range of a partition, BASE and COUNT; one without columns has none (R273). -/
def State.kenRange (c : State) (q : PartIx) : Nat × Nat := (c.pnum q 0x40, if c.colMask q = 0 then 0 else c.pnum q 0x41)

/-- Two ranges have an entry in common. -/
def meets (a b : Nat × Nat) : Bool := a.2 != 0 && b.2 != 0 && decide (a.1 < b.1 + b.2) && decide (b.1 < a.1 + a.2)

/-- A set names the columns or the Kennel range of a partition. -/
def movesKennel (objs : List StagedObj) (q : PartIx) : Bool :=
  objs.any fun o => o.key == pkey q 1 || o.key == pkey q 0x40 || o.key == pkey q 0x41

/-- Kennel ranges (R149), of the partitions that own columns (R273). DEDUCED (log 101): a range that a partition gives up only by a commit that
is still pending is its own until then. -/
def State.kennelRules (s c : State) (objs : List StagedObj) (p : PartIx) (o1 : Nat) : List CheckFail :=
  fail? (c.pnum p 0x41 != 0 && decide (4096 < c.pnum p 0x40 + c.pnum p 0x41)) ⟨4, 0, o1, 0, 0⟩ ++
  (List.finRange 16).flatMap fun q =>
    fail? (q != p && (meets (c.kenRange p) (c.kenRange q) || (!movesKennel objs q && meets (c.kenRange p) (s.kenRange q))))
      ⟨4, 0, o1, pkey q 0x40, q.val⟩

/-- Tier that a region must lie in (R185): true for LPDDR5X. -/
def regionTier (r : Nat) : Bool := r == 5 || r == 6 || r == 7 || r == 10

/-- MEM_LAYOUT (R185). -/
def State.layoutRules (c : State) (p : PartIx) : List CheckFail :=
  let o1 := pkey p 0x50
  let r (i : Nat) : MapRow := c.region p i
  let cols := (c.colsOf p).length
  (List.range 16).flatMap (fun j => (List.range j).flatMap fun i =>
    let a := r i
    let b := r j
    fail? (a.pages != 0 && b.pages != 0 && decide (a.first < b.first + b.pages) && decide (b.first < a.first + a.pages))
      ⟨4, j + 16 * i, o1, 0, 0⟩)
  ++ fail? (decide (9168 * cols < c.tierPages p false)) ⟨5, 1, o1, 0, 0⟩
  ++ fail? (decide (5760 * (cols * c.partNo.lpShare) < c.tierPages p true)) ⟨5, 2, o1, 0, 0⟩
  ++ (List.range 11).flatMap (fun i => fail? ((r i).pages != 0 && (r i).lpddr != regionTier i) ⟨6, i, o1, 0, 0⟩)
  ++ [0, 3, 9].flatMap (fun i => fail? ((r i).pages == 0) ⟨6, i, o1, 0, 0⟩)
  ++ fail? (decide ((r 8).pages < (c.pnum p 0x41 + 31) / 32)) ⟨0xC, 8, o1, 0, 0⟩

/-- Owner ranges of a port meet; an entry that has the whole wheel meets every other one (R213). -/
def Owner.meets (a b : Owner) : Bool :=
  a.kind != 0 && b.kind != 0 && (a.count == 65536 || b.count == 65536
    || decide (a.base < b.base + b.count) && decide (b.base < a.base + a.count))

/-- BASE of a partition on a port, if it holds an entry there. -/
def State.baseOn (c : State) (p : PartIx) (n : PortIx) : Option Nat := (c.ownerIx n p).map fun o => (c.ownerAt n o).base

/-- PORT_OWNERS of a port (R213). -/
def State.portRules (c : State) (n : PortIx) : List CheckFail :=
  let o1 := objKey (0x3000 + n.val) 0x10
  let os := c.owners n
  let at_ (i : Nat) : Owner := (os[i]?).getD ⟨0, 0, 0, 0, 0⟩
  let locals := os.filter fun o => o.kind == 1
  (List.range 8).flatMap (fun j => (List.range j).flatMap fun i => fail? ((at_ i).meets (at_ j)) ⟨4, 0, o1, 0, 0⟩)
  ++ fail? (decide (1 < locals.length)) ⟨7, 0, o1, 0, 0⟩
  ++ fail? (locals.any fun l => os.any fun o => o.kind == 2 && o.job != l.job) ⟨7, 0, o1, 0, 0⟩
  ++ (List.finRange 16).flatMap (fun p =>
    match c.baseOn p n with
    | none => []
    | some b =>
      (List.finRange 24).flatMap (fun m => match c.baseOn p m with
        | some b' => fail? (b != b') ⟨7, 0, o1, objKey (0x3000 + m.val) 0x10, 0⟩
        | none => [])
      ++ fail? (!(c.pobj p 0x31).isEmpty && c.packMap p 32 16 != b) ⟨7, 0, o1, pkey p 0x31, p.val⟩)

/-- A pack map's slot base against the owner entries (R213). -/
def State.packRules (c : State) (p : PartIx) : List CheckFail :=
  (List.finRange 24).flatMap fun n => match c.baseOn p n with
    | some b => fail? (c.packMap p 32 16 != b) ⟨7, 0, pkey p 0x31, objKey (0x3000 + n.val) 0x10, 0⟩
    | none => []

/-- KEY_STATE[63:32] as pending wraps would leave it; a partition that rises starts again at 0 (R284). -/
def State.serialAfter (s : State) (objs : List StagedObj) (p : PartIx) (skip : Option Nat) : Nat :=
  (s.pends.filter fun q => some q.order != skip).foldl (fun a q => q.objs.foldl (fun a o =>
    if o.index.toNat = 0x2000 + p.val ∧ (o.sub = 0x12 ∨ o.sub = 0x13) then max a (recField o.value 64 32) else a) a)
    (if (s.risen objs).contains p then 0 else (s.part p).keys.serial.toNat)

/-- The step of R279 at which a wrap fails. -/
def State.wrapFail (c : State) (p : PartIx) (serial : Nat) (ide : Bool) (v : Bytes) : Option Nat :=
  let f := recField v
  if f 5 3 ≠ 0 ∨ f 12 20 ≠ 0 ∨ f 96 32 ≠ 0 ∨ f 0 4 ≠ (if ide then 2 else 1) then some 1
  else if f 8 4 ≠ p.val then some 2
  else if f 32 32 ≠ (if ide then 0 else (c.jobTag p).toNat) then some 3
  else if f 64 32 ≤ serial then some 4
  else if (c.pobj p 0x11).isEmpty ∨ !Config.mlDsaVerify (c.pobj p 0x11) (leBytes 64 (Config.sha3_512 (v.take 1584)).toNat) "CLR KEYWRAP"
      (v.drop 1584) then some 5
  else none

/-- JOB_TAG (R249). -/
def State.jobRules (s c : State) (p : PartIx) : List CheckFail :=
  let j := c.jobTag p
  let x := s.part p
  fail? (j == 0 && (x.loadedPlan.isSome || x.runPlan.isSome)) ⟨9, 0, pkey p 0x70, 0, 0⟩ ++
  (List.finRange 16).flatMap fun q => fail? (q != p && j != 0 && c.jobTag q == j) ⟨9, 0, pkey p 0x70, pkey q 0x70, q.val⟩

/-- REPLAY_FROM = n is one that R260 admits: a stopped job, or a spare that a mirror has restored (R271), with K_n at hand. -/
def State.replayOk (s : State) (p : PartIx) (n : BitVec 64) : Bool :=
  let x := s.part p
  let c := x.stepCommitted
  n == BitVec.allOnes 64 || ((x.jobState == 3 || x.jobState == 0) && (n == c || n == c + 1) && x.images.any fun i => i.step == n)

/-- Rules of the objects of one partition. -/
def State.partRules (s c : State) (objs : List StagedObj) (skip : Option Nat) (p : PartIx) : List CheckFail :=
  let val (sub : Nat) : Option Bytes := (objs.find? fun o => o.key == pkey p sub).map (·.value)
  let st (sub : Nat) : Bool := (val sub).isSome
  let layout := (c.pobj p 0x50).any (· != 0)
  let wrap (sub : Nat) (ide : Bool) : List CheckFail := match val sub with
    | some v => match c.wrapFail p (s.serialAfter objs p skip) ide v with
      | some k => [⟨8, k, pkey p sub, 0, 0⟩]
      | none => []
    | none => []
  (if st 1 then s.colRules c p else [])
  ++ (if st 0x40 || st 0x41 then s.kennelRules c objs p (pkey p (if st 0x40 then 0x40 else 0x41)) else [])
  ++ (if st 0x50 then c.layoutRules p
      else if layout && c.colMask p != 0 && (st 1 || st 0x41) then
        (c.layoutRules p).filter fun f => (st 1 && f.reason == 5) || (st 0x41 && f.reason == 0xC)
      else [])
  ++ (if st 0x31 then c.packRules p else [])
  ++ wrap 0x12 false ++ wrap 0x13 true
  ++ (if st 0x70 then s.jobRules c p else [])
  ++ (match val 0x77 with
    | some v => fail? (!s.replayOk p (BitVec.ofNat 64 (leNat v))) ⟨9, 0, pkey p 0x77, 0, 0⟩
    | none => [])
  ++ (if st 3 then fail? (c.pnum p 3 == 1 && s.pins.bifurN) ⟨0xA, 0, pkey p 3, 0, 0⟩ else [])
  ++ (if st 0x58 || st 0x50 then
      fail? (c.pnum p 0x58 != 0 && (c.region p 7).pages == 0) ⟨0xC, 0, if st 0x58 then pkey p 0x58 else pkey p 0x50, 0, 0⟩ else [])
  ++ (match val 0x35 with
    | some v => fail? (leNat v != 2 ^ 64 - 1 && ((s.part p).loadedPlan.isNone || (s.part p).loadStatus.toNat % 256 != 0))
        ⟨0xC, 0, pkey p 0x35, 0, 0⟩
    | none => [])

/-- Phase 2 of R302. -/
def State.checkRules (s c : State) (objs : List StagedObj) (skip : Option Nat) : List CheckFail :=
  let st (k : Nat) : Bool := objs.any fun o => o.key == k
  let shares := (List.finRange 16).filter fun p => st (pkey p 0x47)
  let total := (List.finRange 16).foldl (fun a p => a + c.pnum p 0x47) 0
  (List.finRange 16).flatMap (s.partRules c objs skip)
  ++ (match shares with
    | [] => []
    | p :: _ => fail? (decide (s.partNo.bark < total)) ⟨5, 0, pkey p 0x47, 0, 0⟩)
  ++ (List.finRange 24).flatMap (fun n =>
    (if st (objKey (0x3000 + n.val) 0x10) then c.portRules n else [])
    ++ (if st (objKey (0x3000 + n.val) 1) then
        fail? (c.num (0x3000 + n.val) 1 % 2 == 1 && (s.port n).postFailed) ⟨9, 0, objKey (0x3000 + n.val) 1, 0, 0⟩ else []))

/-- Role H sets FM_KEY only while it is empty (R295). DESIGN CHOICE (log 78): where it has been set since role H staged it, the check fails with
STATE. -/
def State.keyFail (s : State) (objs : List StagedObj) (role : BitVec 4) : List CheckFail :=
  fail? (role == 1 && !(s.obj 0x1050 1).isEmpty && objs.any fun o => o.key == objKey 0x1050 1) ⟨9, 0, objKey 0x1050 1, 0, 0⟩

/-- The check of a set that a session of a role has staged (R302). -/
def State.checkSet (s : State) (objs : List StagedObj) (skip : Option Nat) (role : BitVec 4) : Option CheckFail :=
  (s.checkAlone objs).or (firstFail (s.keyFail objs role ++ s.checkRules (s.candidate objs skip) objs skip))

/-- CHECK_REPORT (Table 12-10); a Tenant never sees an object of another partition. -/
def checkReport (role : BitVec 4) (part : PartIx) (f : Option CheckFail) (step : BitVec 64) : BitVec 256 :=
  match f with
  | none => 0
  | some f =>
    let hide : Bool := role == roleT && f.obj2 / 256 != 0x2000 + part.val
    let step := if step = BitVec.allOnes 64 then 0 else step
    BitVec.ofNat 256 (packFields [(8, 1), (8, f.reason), (8, f.detail), (8, 0), (24, f.obj1), (24, if hide then 0 else f.obj2),
      (4, if hide then 0 else f.other), (44, 0), (64, step.toNat)])

end Sys2Proof.Machine
end

