-- ==== Sys2Proof/Machine/Ingest.lean ====
section
/-!
DEFINITION. Weight ingest (R197 to R203, R266): the manifest and its checks, chunks, portable form, reports. Log 31: what the VC1 messages of an
ingest hold, and how a chunk comes to a module.
-/

namespace Sys2Proof.Machine

/-! The manifest (Tables 8-11a and 8-12) -/

def mfForm (m : Bytes) : Nat := recField m 48 1
def mfDest (m : Bytes) : Nat := recField m 49 2
def mfDestPg (m : Bytes) : Nat := recField m 64 32

/-- The key of the ingest that a manifest starts. -/
def mfKey (m : Bytes) : IngestKey := ⟨BitVec.ofNat 2 (mfDest m), BitVec.ofNat 32 (mfDestPg m)⟩

def mfChunks (m : Bytes) : Nat := recField m 96 32
def mfBytes (m : Bytes) : Nat := recField m 128 64
def mfTens (m : Bytes) : Nat := recField m 192 32
def mfOut (m : Bytes) : Nat := recField m 256 64

/-- MODEL_ID. -/
def mfModel (m : Bytes) : Bytes := (m.drop 40).take 88

/-- Digest record of chunk `i`. -/
def mfDigest (m : Bytes) (i : Nat) : Bytes := (m.drop (128 + 32 * i)).take 32

/-- A tensor record (Table 8-12). -/
structure Tensor where
  sfmt : Nat
  wfmt : Nat
  k : Nat
  n : Nat
  dest : Nat
  palDest : Nat
  palSrc : Nat
  /-- reserved bits -/
  rsvd : Nat
  deriving DecidableEq, Repr

def mfTensor (m : Bytes) (i : Nat) : Tensor :=
  let r := (m.drop (128 + 32 * mfChunks m + 64 * i)).take 64
  ⟨recField r 0 4, recField r 4 4, recField r 64 32, recField r 96 32, recField r 128 64, recField r 192 64, recField r 256 64,
    recField r 8 56 + recField r 320 192⟩

def mfTensors (m : Bytes) : List Tensor := (List.range (mfTens m)).map (mfTensor m)

/-- Bytes before the signature. -/
def mfLength (m : Bytes) : Nat := 128 + 32 * mfChunks m + 64 * mfTens m

/-- Format and reserved fields (ERROR 1). -/
def manifestFormat (m : Bytes) : Bool :=
  decide (128 ≤ m.length) && recField m 0 32 == 0x4D574C43 && recField m 32 16 == 1 && mfDest m != 3 && recField m 51 13 == 0
    && (mfDest m == 2 || mfDestPg m == 0) && recField m 224 32 == 0
    && decide (1 ≤ mfChunks m ∧ mfChunks m ≤ 4194304) && mfChunks m == (mfBytes m + chunkBytes - 1) / chunkBytes
    && (mfForm m == 1 || (mfTens m == 0 && mfOut m == mfBytes m))
    && m.length == mfLength m + 4627 && (mfTensors m).all fun t => t.rsvd == 0

/-- The signature verifies under WEIGHT_KEY (ERROR 2). -/
def State.manifestSigned (s : State) (p : PartIx) (m : Bytes) : Bool :=
  let key := s.pobj p 0x54
  !key.isEmpty && Config.mlDsaVerify key (leBytes 64 (Config.sha3_512 (m.take (mfLength m))).toNat) "CLR WEIGHTS" (m.drop (mfLength m))

/-- How an element is converted (Table 8-13). -/
inductive Conv where
  | copy
  | float (w : Fmt)
  | block (w : Fmt)
  | nearest
  deriving DecidableEq, Repr

/-- The conversion of a tensor; none where Table 8-13 gives none. -/
def convOf (a w : Fmt) : Option Conv :=
  let fl := a == .fp32 || a == .bf16
  if a = w ∧ w ≠ .fp32 then some .copy
  else match w with
    | .bf16 | .e4m3 | .e5m2 => if fl then some (.float w) else none
    | .int8 | .int4 => if fl || a == .int8 then some (.float w) else none
    | .p4 | .p3 => if fl then some .nearest else none
    | .fp32 => none
    | _ => if fl then some (.block w) else none

/-- Source formats of Table 8-12. -/
def sourceFmt (c : Nat) : Option Fmt :=
  match Fmt.ofCode (BitVec.ofNat 4 c) with
  | some .fp32 => some .fp32
  | some .bf16 => some .bf16
  | some .int8 => some .int8
  | some .int4 => some .int4
  | some .p4 => some .p4
  | some .p3 => some .p3
  | _ => none

def Tensor.kt (t : Tensor) : Nat := t.k / 128
def Tensor.nt (t : Tensor) : Nat := t.n / 64
def Tensor.src (t : Tensor) : Fmt := (sourceFmt t.sfmt).getD .fp32
def Tensor.dst (t : Tensor) : Fmt := (Fmt.ofCode (BitVec.ofNat 4 t.wfmt)).getD .fp32

/-- Bytes of a palette record. -/
def palSize (f : Fmt) : Nat := if f = .p3 then 16 else 32

/-- A tensor record breaks a rule of R201 (ERROR 6). -/
def Tensor.bad (t : Tensor) (out : Nat) : Bool :=
  (match sourceFmt t.sfmt, Fmt.ofCode (BitVec.ofNat 4 t.wfmt) with
    | some a, some w => (convOf a w).isNone && !(a == .p4 && w == .p3)
    | _, _ => true)
    || t.k % 128 != 0 || t.n % 64 != 0 || t.k == 0 || t.n == 0 || t.dest % 256 != 0
    || decide (out < t.dest + t.kt * t.nt * mldwG t.dst * 256)
    || (t.dst.isPalette && decide (out < t.palDest + t.kt * t.nt * 2 * palSize t.dst))

/-- The first check of R198 that a manifest fails, as its ERROR; then BUSY of R190. DEDUCED (log 31): tensor records are judged here too. -/
def State.manifestError (s : State) (p : PartIx) (m : Bytes) : Option Nat :=
  let d := mfDest m
  let r := s.region p (if d = 2 then rgLibrary else 1 + d)
  let lo := 2097152 * mfDestPg m
  if (s.part p).loadStatus ≠ 0 ∨ !manifestFormat m then some 1
  else if !s.manifestSigned p m then some 2
  else if r.size < lo + mfOut m ∨ r.pages = 0 ∨ (mfTensors m).any (fun t => t.bad (mfOut m)) then some 6
  else if (mfTensors m).any fun t => t.src == .p4 && t.dst == .p3 then some 5
  else if h : d < 2 then (if s.slotBusy p ⟨d, h⟩ then some 3 else none)
  else if s.libraryBusy p lo (mfOut m) then some 3
  else none

/-! The chain (R202) -/

/-- Devices that take the ingest from this one. -/
def State.feeds (s : State) (p : PartIx) : List (BitVec 14) :=
  match (s.part p).loadedPlan.or (s.part p).runPlan with
  | none => []
  | some pl => (pl.dist.filter fun d => d.parent == s.self p && d.dev != s.self p && !d.fetch).map (·.dev)

/-- Devices whose PARENT names this one. -/
def State.ingestChildren (s : State) (p : PartIx) : List (BitVec 14) :=
  match (s.part p).loadedPlan.or (s.part p).runPlan with
  | none => []
  | some pl => (pl.dist.filter fun d => d.parent == s.self p && d.dev != s.self p).map (·.dev)

/-- Distribution entry of this module in the loaded plan. -/
def State.ingestEntry (s : State) (p : PartIx) : Option DistEntry :=
  ((s.part p).loadedPlan.or (s.part p).runPlan).bind fun pl => pl.dist.find? fun d => d.dev == s.self p

/-- What a VC1 message of an ingest is, beside a chunk under its index: a manifest, a report, a request for a chunk (log 31). -/
def manifestIndex : Nat := 0xFFFFFFFF
def reportIndex : Nat := 0xFFFFFFFE
def requestIndex : Nat := 0xFFFFFFFD

/-- The key in a VC1 message of an ingest. -/
def keyBytes (k : IngestKey) : Bytes := leBytes 4 k.dest.toNat ++ leBytes 4 k.page.toNat

def State.sendIngest (s : State) (p : PartIx) (dev : BitVec 14) (k : IngestKey) (what : Nat) (body : Bytes) : State :=
  s.sendVc1 p dev what (keyBytes k ++ body)

/-- An ingest with this manifest is under way. -/
def Partition.ingesting (x : Partition) (m : Bytes) : Bool := x.ingests.any fun g => g.manifest == m && !(g.done && g.landed && g.reported)

/-- A finished ingest makes way for one whose destination meets its own. -/
def Ingest.yields (g : Ingest) (m : Bytes) : Bool :=
  g.dest == mfDest m && (mfDest m != 2
    || decide (2097152 * g.page < 2097152 * mfDestPg m + mfOut m ∧ 2097152 * mfDestPg m < 2097152 * g.page + mfOut g.manifest))

/-- An ingest with this manifest begins, or ends at the first check that fails and changes nothing else (R198). -/
def State.startIngest (s : State) (p : PartIx) (m : Bytes) : State :=
  match s.manifestError p m with
  | some e => s.modPart p fun x => { x with wloadStatus := wloadWord 3 e 0 }
  | none =>
    let lib := mfDest m == 2
    let late := (s.part p).waitFeeds.filter fun w => w.1 == mfKey m
    let feeds := ((s.feeds p).filter fun d => !late.any fun w => w.2.1 == d).map fun d => (d, 0)
    let g : Ingest :=
      { manifest := m, held := [], retried := [], content := [], feeds := feeds ++ late.map (·.2), backupParent := false, done := false, reported := false
        started := lib, flushed := lib, landed := lib, switches := 0 }
    let s := s.modPart p fun x => { x with
      ingests := x.ingests.filter (fun h => !h.yields m) ++ [g], waitFeeds := x.waitFeeds.filter fun w => w.1 != mfKey m, wloadStatus := wloadWord 1 0 0, wloadModel := mfModel m }
    let s := s.slotsNow p
    feeds.foldl (fun s d => s.sendIngest p d.1 (mfKey m) manifestIndex m) s

/-! Reports (R203) -/

/-- Own ingest done and every child's report here: the report goes to the parent, from the root to the fabric manager. -/
def State.reportIngest (s : State) (p : PartIx) (k : IngestKey) : State :=
  let x := s.part p
  match x.ingestOf k, s.ingestEntry p with
  | some g, some d =>
    if !g.done ∨ g.reported ∨ !((s.ingestChildren p).all fun c => x.childDone.contains (k, c)) then s
    else
      let s := s.setPart p { x.setIngest { g with reported := true } with childDone := x.childDone.filter fun c => c.1 != k }
      if d.parent = d.dev then s.notify 3 (leBytes 8 x.wloadStatus.toNat ++ mfModel g.manifest)
      else s.sendIngest p d.parent k reportIndex []
  | _, _ => s

/-! Sending to children (R202, R266) -/

/-- Every chunk that is held and due goes to each device that takes the ingest from this one, in ascending order. -/
def State.forward (s : State) (p : PartIx) (k : IngestKey) : State :=
  match (s.part p).ingestOf k with
  | none => s
  | some g =>
    let s := s.modPart p fun x => x.setIngest { g with feeds := g.feeds.map fun f => (f.1, max f.2 g.first) }
    g.feeds.foldl (fun s f =>
      (List.range (g.first - f.2)).foldl (fun s i =>
        match g.content.find? fun c => c.1 == BitVec.ofNat 32 (f.2 + i) with
        | some c => s.sendIngest p f.1 k (f.2 + i) c.2
        | none => s) s) s

/-- A device asks for chunk `i`, once more or from there on (R198, R266). A device that asks for more than one has switched to this one,
which sends from chunk `i` as soon as it holds it whole and takes the device as its child, at once even if the ingest has not begun here. -/
def State.serveChild (s : State) (p : PartIx) (dev : BitVec 14) (k : IngestKey) (i : Nat) (onward : Bool) : State :=
  let takeChild (x : Partition) : Partition :=
    { x with adopted := if (s.ingestChildren p).contains dev || x.adopted.contains dev then x.adopted else x.adopted ++ [dev] }
  match (s.part p).ingestOf k with
  | none =>
    if onward then s.modPart p fun x =>
      { takeChild x with waitFeeds := x.waitFeeds.filter (fun w => !(w.1 == k && w.2.1 == dev)) ++ [(k, dev, i)] }
    else s
  | some g =>
    if !onward then
      match g.content.find? fun c => c.1 == BitVec.ofNat 32 i with
      | some c => s.sendIngest p dev k i c.2
      | none => s
    else
      let s := s.modPart p fun x => takeChild (x.setIngest { g with feeds := g.feeds.filter (fun f => f.1 != dev) ++ [(dev, i)] })
      s.forward p k

/-- A device that has gone back to its PARENT is no child of this one any more (R266). -/
def State.leaveChild (s : State) (p : PartIx) (dev : BitVec 14) : State :=
  if (s.ingestChildren p).contains dev then s
  else s.modPart p fun x => { x with
    adopted := x.adopted.filter fun d => d != dev, waitFeeds := x.waitFeeds.filter fun w => w.2.1 != dev
    ingests := x.ingests.map fun g => { g with feeds := g.feeds.filter fun f => f.1 != dev } }

/-! Switches between parents (R266) -/

/-- The source of an ingest is asked for chunk `i`: the host, unless the device Muzzle is in force (R319), or PARENT or BACKUP. -/
def State.askChunk (s : State) (p : PartIx) (g : Ingest) (d : DistEntry) (i : Nat) (onward : Bool) : State :=
  if d.fetch then (if s.faults.muzzle then s else s.emit (.chunkRequest p g.key (BitVec.ofNat 32 i)))
  else s.sendIngest p (if g.backupParent then d.backup else d.parent) g.key requestIndex (leBytes 4 i ++ [BitVec.ofNat 8 onward.toNat])

/-- The other of PARENT and BACKUP is asked to send from the first chunk not held; at the fourth switch the parent is reported. -/
def State.switchParent (s : State) (p : PartIx) (g : Ingest) (d : DistEntry) : State :=
  let g := { g with backupParent := !g.backupParent, switches := g.switches + 1, retried := [] }
  let s := (s.modPart p fun x => x.setIngest g).askChunk p g d g.first true
  let s := s.goUp p d ((s.part p).ingests.any (·.backupParent))
  if g.switches = 4 then s.report p d.parent 6 1 else s

/-- No flit of the ingest for 500 µs while chunks remain. -/
def execIngestStall (r : IngestRef) (s : State) : Host.Outcome State Fault Refusal :=
  match (s.part r.part).ingestOf r.key, s.ingestEntry r.part with
  | some g, some d => if d.fetch ∨ g.done ∨ g.first = mfChunks g.manifest then done s else done (s.switchParent r.part g d)
  | _, _ => done s

/-! Portable form (R200, R201) -/

/-- A segment: tensor, first element, count, packed elements. -/
structure Segment where
  tensor : Nat
  first : Nat
  count : Nat
  bits : Nat
  deriving DecidableEq, Repr

/-- The segments of a chunk's content; none where it is not a sequence of them. -/
def segmentsOf (ts : List Tensor) : Nat → Bytes → Option (List Segment)
  | 0, b => if b.isEmpty then some [] else none
  | fuel + 1, b =>
    if b.isEmpty then some []
    else
      match ts[recField b 0 32]? with
      | none => none
      | some t =>
        let first := leNat ((b.drop 4).take 8)
        let count := leNat ((b.drop 12).take 4)
        let len := (count * t.src.bits + 7) / 8
        if b.length < 16 + len ∨ t.k * t.n < first + count then none
        else (segmentsOf ts fuel (b.drop (16 + len))).map fun r =>
          ⟨recField b 0 32, first, count, leNat ((b.drop 16).take len)⟩ :: r

/-- The header of a Zstandard frame (RFC 8878): bytes of the header, window and content size where it gives one, checksum flag. -/
structure ZstdHeader where
  len : Nat
  window : Nat
  content : Option Nat
  checksum : Bool
  deriving DecidableEq, Repr

/-- The header of a chunk within the subset of R200: none for a skippable frame, another magic number, a reserved bit or a dictionary. -/
def zstdHeader (b : Bytes) : Option ZstdHeader :=
  let d := recField b 32 8
  let single := d / 32 % 2 = 1
  let w := if single then 0 else 1
  let dict := [0, 1, 2, 4].getD (d % 4) 0
  let size := [if single then 1 else 0, 2, 4, 8].getD (d / 64) 0
  let at_ (o n : Nat) : Nat := leNat ((b.drop o).take n)
  let len := 5 + w + dict + size
  let content := if size = 0 then none else some (at_ (5 + w + dict) size + (if size = 2 then 256 else 0))
  let base := 2 ^ (10 + at_ 5 1 / 8)
  let window := if single then content.getD 0 else base + base / 8 * (at_ 5 1 % 8)
  if b.length < len ∨ recField b 0 32 ≠ 0xFD2FB528 ∨ d / 8 % 2 = 1 ∨ at_ (5 + w) dict ≠ 0 then none
  else some ⟨len, window, content, d / 4 % 2 == 1⟩

/-- Bytes of the blocks of a frame, the first at byte 0; none where they do not end with a last block. -/
def zstdBlocks : Nat → Bytes → Option Nat
  | 0, _ => none
  | fuel + 1, b =>
    let h := leNat (b.take 3)
    let n := 3 + (if h / 2 % 4 = 1 then 1 else h / 8)
    if b.length < n ∨ h / 2 % 4 = 3 then none
    else if h % 2 = 1 then some n
    else (zstdBlocks fuel (b.drop n)).map (· + n)

/-- Decompressed content of a chunk (R200): exactly one frame, no dictionary, a window and content of at most 16 MiB, and the content
checksum, where the frame carries one, that of the content. -/
def chunkContent (chunk : Bytes) : Option Bytes :=
  (zstdHeader chunk).bind fun h =>
    (zstdBlocks chunk.length (chunk.drop h.len)).bind fun n =>
      let sum := if h.checksum then 4 else 0
      if chunk.length ≠ h.len + n + sum ∨ 16777216 < h.window ∨ 16777216 < h.content.getD 0 then none
      else (Config.zstdDecode chunk).bind fun b =>
        if 16777216 < b.length ∨ (h.content.any fun c => c != b.length)
            ∨ (h.checksum && leNat (chunk.drop (h.len + n)) != (Config.xxh64 b).toNat % 2 ^ 32) then none
        else some b

/-- The decompressed chunks in order, and the segments of all. -/
def Ingest.decoded (g : Ingest) : Option (Bytes × List Segment) :=
  let ts := mfTensors g.manifest
  (List.range (mfChunks g.manifest)).foldl (fun a i =>
    match a, (g.content.find? fun c => c.1 == BitVec.ofNat 32 i).bind fun c => chunkContent c.2 with
    | some (bs, ss), some b => (segmentsOf ts b.length b).map fun r => (bs ++ b, ss ++ r)
    | _, _ => none) (some ([], []))

/-- Code of element `x` of tensor `i`. -/
def elementOf (ss : List Segment) (i : Nat) (w x : Nat) : Nat :=
  match ss.find? fun q => q.tensor == i && decide (q.first ≤ x ∧ x < q.first + q.count) with
  | some q => q.bits / 2 ^ (w * (x - q.first)) % 2 ^ w
  | none => 0

/-- Two segments hold one element. -/
def Segment.meets (a b : Segment) : Bool := a.tensor == b.tensor && decide (a.first < b.first + b.count ∧ b.first < a.first + a.count)

/-- No element stands in two segments. -/
def apart : List Segment → Bool
  | [] => true
  | a :: l => !(l.any fun b => a.meets b) && apart l

/-- Every element of every tensor stands in exactly one segment. -/
def eachOnce (ts : List Tensor) (ss : List Segment) : Bool :=
  apart ss && ts.zipIdx.all fun t => (ss.filter fun q => q.tensor == t.2).foldl (fun a q => a + q.count) 0 == t.1.k * t.1.n

/-- Exact absolute difference of two values that are not NaN; equal values, infinite ones too, have 0. -/
def distance (a b : Val) : Val :=
  if a.cmp b = 0 then .fin false 0 0
  else match Val.add a b.neg with
    | .fin _ m e => .fin false m e
    | _ => .inf false

/-- Index of the nearest palette entry (Table 8-13). DEDUCED (log 31): an entry that is NaN is never nearest to a number. -/
def nearestEntry (pal : List Val) (v : Val) : Nat :=
  if v.isNan then (pal.findIdx? (·.isNan)).getD 0
  else
    let best : Option (Nat × Val) := pal.zipIdx.foldl (fun a e =>
      if e.1.isNan then a
      else
        let d := distance v e.1
        match a with
        | none => some (e.2, d)
        | some b => if d.cmp b.2 < 0 then some (e.2, d) else a) none
    match best with
    | some b => b.1
    | none => 0

/-- Palette records of a tensor in the decompressed stream: the one of half `h` of tile (kt, nt). -/
def paletteOf (t : Tensor) (stream : Bytes) (kt nt h : Nat) : Bytes :=
  (stream.drop (t.palSrc + ((nt * t.kt + kt) * 2 + h) * palSize t.dst)).take (palSize t.dst)

/-- The image of tile (kt, nt) in the layout of R87. -/
def tileImage (t : Tensor) (i : Nat) (stream : Bytes) (ss : List Segment) (kt nt : Nat) : Bytes :=
  let a := t.src
  let w := t.dst
  let code (k n : Nat) : Nat := elementOf ss i a.bits ((128 * kt + k) * t.n + 64 * nt + n)
  let block (k n : Nat) : Nat × List Nat :=
    quantise w ((List.range 32).map fun j => a.decode (code (k / 32 * 32 + j) n))
  let pal (h : Nat) : List Val :=
    let r := paletteOf t stream kt nt h
    (List.range (palSize w / 2)).map fun e => bf16.decode (recField r (16 * e) 16)
  let conv := (convOf a w).getD .copy
  let elem (k n : Nat) : Nat :=
    match conv with
    | .copy => code k n
    | .float f => f.encode (a.decode (code k n)) true
    | .block _ => (block k n).2.getD (k % 32) 0
    | .nearest => nearestEntry (pal (k / 64)) (a.decode (code k n))
  let order := (List.range 8192).map fun x =>
    if w.isPalette then elem (x / 4096 * 64 + x % 64) (x % 4096 / 64) else elem (x % 128) (x / 128)
  let img := leBytes (256 * mldwElemG w) (packNat w.bits order)
  if w.isMx then
    img ++ leBytes 256 (packNat 8 ((List.range 256).map fun x => (block (x % 4 * 32) (x / 4)).1))
  else img

/-- What a tensor writes: offsets in the destination and bytes (R201). -/
def tensorWrites (t : Tensor) (i : Nat) (stream : Bytes) (ss : List Segment) : List (Nat × Bytes) :=
  (List.range t.nt).flatMap fun nt => (List.range t.kt).flatMap fun kt =>
    let q := nt * t.kt + kt
    (t.dest + q * mldwG t.dst * 256, tileImage t i stream ss kt nt) ::
      (if t.dst.isPalette then
        [0, 1].map fun h => (t.palDest + (q * 2 + h) * palSize t.dst, paletteOf t stream kt nt h)
      else [])

/-- Put bytes into an image. -/
def overlayBytes (img : Bytes) (o : Nat) (b : Bytes) : Bytes := img.take o ++ b ++ img.drop (o + b.length)

/-- Some palette of a tensor lies beyond the decompressed stream (R201). -/
def Tensor.beyond (t : Tensor) (stream : Bytes) : Bool :=
  t.dst.isPalette && decide (stream.length < t.palSrc + t.kt * t.nt * 2 * palSize t.dst)

/-! Chunks -/

/-- A chunk whose digest does not match: requested once more; a second time, a parent has stopped delivering and the host fails the ingest
(R198, R241). -/
def State.badChunk (s : State) (p : PartIx) (g : Ingest) (d : DistEntry) (i : BitVec 32) : State :=
  if !g.retried.contains i then
    (s.modPart p fun x => x.setIngest { g with retried := i :: g.retried }).askChunk p g d i.toNat false
  else if d.fetch then (s.failIngest p g.key 4).slotsNow p
  else s.switchParent p g d

/-- A whole chunk of an ingest (R198 to R202): verified, kept, forwarded, and written once the destination is LOADING. -/
def State.takeChunk (s : State) (p : PartIx) (g : Ingest) (d : DistEntry) (i : BitVec 32) (chunk : Bytes) : State :=
  if leBytes 32 (Config.sha3_256 chunk).toNat ≠ mfDigest g.manifest i.toNat then s.badChunk p g d i
  else if mfForm g.manifest = 1 ∧ (chunkContent chunk).bind (fun b => segmentsOf (mfTensors g.manifest) b.length b) = none then
    (s.failIngest p g.key 5).slotsNow p
  else
    let h := { g with held := i :: g.held, content := g.content ++ [(i, chunk)] }
    let s := s.modPart p fun x => { x.setIngest h with wloadStatus := wloadWord 1 0 h.verified }
    let s := s.forward p g.key
    if mfForm g.manifest = 0 ∧ g.flushed then
      (s.writeP p (s.ingestAddr p g + chunkBytes * i.toNat) chunk (.ingestCopy g.key)).slotsNow p
    else s

/-- A whole chunk, or the manifest under its index, comes from the source of an ingest. -/
def State.takePiece (s : State) (p : PartIx) (k : IngestKey) (i : BitVec 32) (chunk : Bytes) : State :=
  let x := s.part p
  match s.ingestEntry p with
  | none => s
  | some d =>
    if i.toNat = manifestIndex then
      if d.fetch ∨ x.ingesting chunk then s else s.startIngest p chunk
    else match x.ingestOf k with
      | none => s
      | some g => if g.done ∨ mfChunks g.manifest ≤ i.toNat ∨ g.held.contains i then s else s.takeChunk p g d i chunk

/-- A whole chunk arrives from its source (log 31): from the host, which the module does not read under the device Muzzle (R319), or over VC1,
data flits of which it then discards. -/
def execChunkReceive (r : IngestRef) (i : BitVec 32) (chunk : Bytes) (s : State) : Host.Outcome State Fault Refusal :=
  done (if s.faults.muzzle then s else s.takePiece r.part r.key i chunk)

/-- Every chunk is held and the destination is LOADING: in portable form the tensors are written now; bytes of OUTBYTES that no tile and no
palette covers are a free value. Then the ingest is done (R203). -/
def execIngestDone (r : IngestRef) (s : State) : Host.Outcome State Fault Refusal :=
  let p := r.part
  let k := r.key
  match (s.part p).ingestOf k with
  | none => done s
  | some g =>
    let n := mfChunks g.manifest
    if g.done ∨ !g.flushed ∨ g.first ≠ n then done s
    else
      let finish (s : State) : State :=
        match (s.part p).ingestOf k with
        | none => s.slotsNow p
        | some g =>
          let s := s.modPart p fun x => { x.setIngest { g with done := true } with wloadStatus := wloadWord 2 0 n }
          (s.slotsNow p).reportIngest p k
      if mfForm g.manifest = 0 then done (finish s)
      else
        match g.decoded with
        | none => done ((s.failIngest p k 5).slotsNow p)
        | some (stream, ss) =>
          let ts := mfTensors g.manifest
          if !eachOnce ts ss then done ((s.failIngest p k 5).slotsNow p)
          else if ts.any fun t => t.beyond stream then done ((s.failIngest p k 6).slotsNow p)
          else
            let out := mfOut g.manifest
            let f := s.draw (8 * out)
            let ws := ts.zipIdx.flatMap fun t => tensorWrites t.1 t.2 stream ss
            let img := ws.foldl (fun b w => overlayBytes b w.1 w.2) (leBytes out f.1.toNat)
            done (finish (f.2.writeP p (s.ingestAddr p g) img (.ingestCopy k)))

/-- A child reports its ingest done. -/
def State.childReport (s : State) (p : PartIx) (k : IngestKey) (child : BitVec 14) : State :=
  if !(s.ingestChildren p).contains child then s
  else
    let s := s.modPart p fun x => { x with childDone := if x.childDone.contains (k, child) then x.childDone else (k, child) :: x.childDone }
    s.reportIngest p k

def execIngestReport (r : IngestRef) (child : BitVec 14) (s : State) : Host.Outcome State Fault Refusal :=
  done (s.childReport r.part r.key child)

end Sys2Proof.Machine
end

