-- ==== Sys2Proof/Machine/Mirror.lean ====
section
/-!
DEFINITION. The partner mirror (R194 to R196, R272): what a source sends, what the holder of the MIRROR region writes and acknowledges, how a
spare takes the state back; and the VC1 messages of a partition (R202, R203, R266). Log 33: layouts of header and messages.
-/

namespace Sys2Proof.Machine

/-! Headers (Table 8-10) -/

/-- Ascending runs of page numbers: first page and length. -/
def runsOf : List Nat → List (Nat × Nat)
  | [] => []
  | a :: l =>
    match runsOf l with
    | (b, n) :: rs => if b = a + 1 then (a, n + 1) :: rs else (a, 1) :: (b, n) :: rs
    | [] => [(a, 1)]

/-- A free list as it stands in a header: the number of runs, then the runs. -/
def freeBytes (l : List (BitVec 64)) : Bytes :=
  let rs := runsOf (l.map fun o => o.toNat / 65536)
  leBytes 4 rs.length ++ rs.flatMap fun r => leBytes 4 r.1 ++ leBytes 4 r.2

/-- The bytes that a header's digest covers, in the order that Table 8-10 lists them (log 33). -/
def mirrorBytes (h : MirrorHeader) : Bytes :=
  leBytes 8 h.step.toNat ++ leBytes 4 h.entries.length ++ h.entries.flatMap (fun e => leBytes 64 e.toNat)
    ++ leBytes 2 h.variant.toNat ++ leBytes 2 h.slots.length
    ++ h.slots.flatMap (fun r => leBytes 12 (packFields [(12, r.1.toNat), (12, r.2.1.toNat), (32, r.2.2.1.toNat), (12, r.2.2.2.1.toNat),
      (2, r.2.2.2.2.toNat)]))
    ++ freeBytes h.kvFree ++ freeBytes h.susFree

/-- The digest of a header is right. -/
def headerValid (h : MirrorHeader) : Bool := h.digest == leBytes 32 (Config.sha3_256 (mirrorBytes h)).toNat

/-- A header half, filled to whole granules. -/
def headerHalf (h : MirrorHeader) : Bytes :=
  let b := mirrorBytes h ++ h.digest
  (b ++ List.replicate (255 - (b.length + 255) % 256) 0).take 1048576

/-- A free list read from a header, and the bytes after it. -/
def takeFree (b : Bytes) : List (BitVec 64) × Bytes :=
  let n := min (leNat (b.take 4)) 131072
  ((List.range n).flatMap fun i =>
      let r := (b.drop (4 + 8 * i)).take 8
      (List.range (min (leNat (r.drop 4)) 2097152)).map fun j => BitVec.ofNat 64 (65536 * (leNat (r.take 4) + j)),
    b.drop (4 + 8 * n))

/-- The header that a half holds. -/
def headerOf (b : Bytes) : MirrorHeader :=
  let ne := min (recField b 64 32) 16384
  let c := b.drop (12 + 64 * ne)
  let ns := min (recField c 16 16) 4096
  let d := c.drop (4 + 12 * ns)
  let kv := takeFree d
  let sus := takeFree kv.2
  { step := BitVec.ofNat 64 (recField b 0 64)
    entries := (List.range ne).map fun i => BitVec.ofNat 512 (recField b (96 + 512 * i) 512)
    kvFree := kv.1, susFree := sus.1
    variant := BitVec.ofNat 16 (recField c 0 16)
    slots := (List.range ns).map fun i =>
      let o := 32 + 96 * i
      (BitVec.ofNat 12 (recField c o 12), BitVec.ofNat 12 (recField c (o + 12) 12), BitVec.ofNat 32 (recField c (o + 24) 32),
        BitVec.ofNat 12 (recField c (o + 56) 12), BitVec.ofNat 2 (recField c (o + 68) 2))
    digest := sus.2.take 32 }

/-! Messages (log 33) -/

/-- K and U of a partition: the bytes of KVPOOL and SUSPEND. -/
def State.poolBytes (s : State) (p : PartIx) : Nat := (s.region p rgKv).size
def State.suspendBytes (s : State) (p : PartIx) : Nat := (s.region p rgSuspend).size

/-- Address of a mirrored byte at its source or on a spare: KVPOOL, then SUSPEND. -/
def State.mirrorAddr (s : State) (p : PartIx) (o : Nat) : Nat :=
  if o < s.poolBytes p then (s.region p rgKv).addr + o else (s.region p rgSuspend).addr + (o - s.poolBytes p)

/-- Offset in the mirror of a page of KVPOOL or SUSPEND. -/
def State.mirrorOffset (s : State) (p : PartIx) (a : Nat) : Nat :=
  if s.inRegion p rgKv a then a - (s.region p rgKv).addr else s.poolBytes p + (a - (s.region p rgSuspend).addr)

/-! The source (R194, R195) -/

/-- One page goes to the partner; a page in error loses the mirror (Table 8-14). -/
def State.mirrorSend (s : State) (p : PartIx) (dev : BitVec 14) (a : Nat) : State :=
  let x := s.part p
  if x.mirrorState ≠ 1 ∧ x.mirrorState ≠ 2 then s
  else match s.firstDamage p a 65536 with
    | some g => s.metError p g .mirrorCopy
    | none => s.sendVc1 p dev mirrorPage (leBytes 8 (s.mirrorOffset p a) ++ s.readV p a 65536)

/-- Mirroring starts: K and U, then the whole of KVPOOL and SUSPEND once (R194). -/
def State.mirrorBegin (s : State) (p : PartIx) : State :=
  match s.deviceAt p 0x57 with
  | none => s
  | some dev =>
    if (s.part p).mirrorBegun ∨ (s.portTo p dev).isNone then s
    else
      let s := s.modPart p fun x => { x with mirrorBegun := true }
      let s := s.sendVc1 p dev mirrorStart (leBytes 8 (s.poolBytes p) ++ leBytes 8 (s.suspendBytes p))
      (List.range ((s.poolBytes p + s.suspendBytes p) / 65536)).foldl (fun s i => s.mirrorSend p dev (s.mirrorAddr p (65536 * i))) s

/-- The header for step `n`: the state that the next step starts from. -/
def State.mirrorHeader (s : State) (p : PartIx) (n : BitVec 64) : MirrorHeader :=
  let k := s.ken p
  let off (r : Nat) (l : List (BitVec 64)) : List (BitVec 64) := l.map fun a => a - BitVec.ofNat 64 (s.region p r).addr
  let slots := match k.stepRec with
    | some r => r.slots.mapIdx fun i q => (if q.used then q.entry else 0xFFF, BitVec.ofNat 12 i, q.len, q.seed, q.keff)
    | none => []
  let h : MirrorHeader :=
    { step := n, entries := k.entries, kvFree := off rgKv k.kvFree, susFree := off rgSuspend k.susFree
      variant := (s.part p).variant, slots := slots, digest := [] }
  { h with digest := leBytes 32 (Config.sha3_256 (mirrorBytes h)).toNat }

/-- The mirror of a committed step `n`: the pages that it changed, then its header, for half A if n is even and B if it is odd (R195). DEDUCED
(log 99): a source whose MIRROR_STATE a structural change has set to 0 seeds its partner anew. -/
def State.sendMirror (s : State) (p : PartIx) (n : BitVec 64) : State :=
  let s := if (s.part p).mirrorState = 0 ∧ s.pnum p 0x57 ≠ 0 then
    s.modPart p fun x => { x with mirrorState := 1, mirrorStep := BitVec.allOnes 64, mirrorBegun := false } else s
  let x := s.part p
  if x.mirrorState ≠ 1 ∧ x.mirrorState ≠ 2 then s
  else
    let s := s.mirrorBegin p
    match s.deviceAt p 0x57 with
    | none => s
    | some dev =>
      let s := x.lastChanged.foldl (fun s a => s.mirrorSend p dev a.toNat) s
      if (s.part p).mirrorState = 4 then s
      else (s.sendVc1 p dev mirrorHead ([BitVec.ofNat 8 (n.toNat % 2)] ++ headerHalf (s.mirrorHeader p n))).modPart p
        fun x => { x with mirrorDue := some n }

/-- The partner has acknowledged the header of step `n`. -/
def State.mirrorAcked (s : State) (p : PartIx) (n : BitVec 64) : State :=
  let x := s.part p
  if (x.mirrorState = 1 ∨ x.mirrorState = 2) ∧ n ≤ x.stepCommitted ∧ x.stepCommitted ≠ BitVec.allOnes 64 then
    s.setPart p { x with
      mirrorStep := n, mirrorState := 2, mirrorWait := false, mirrorDue := if x.mirrorDue = some n then none else x.mirrorDue }
  else s

def execMirrorAck (p : PartIx) (n : BitVec 64) (s : State) : Host.Outcome State Fault Refusal := done (s.mirrorAcked p n)

/-- No acknowledgement for 500 µs (R196). -/
def execMirrorTimeout (p : PartIx) (s : State) : Host.Outcome State Fault Refusal := done (s.loseMirror p)

/-! The holder (R194, R195) -/

/-- Address of a header half in MIRROR: its last translation page holds A and B. -/
def State.halfAddr (s : State) (p : PartIx) (b : Nat) : Nat :=
  let m := s.region p rgMirror
  m.addr + (m.size - 2097152) + 1048576 * b

/-- A source announces K and U: a MIRROR smaller than K + U + 2 MiB is refused. -/
def State.holdMirror (s : State) (p : PartIx) (src : BitVec 14) (k u : Nat) : State :=
  let s := s.modPart p fun x => { x with mirrorK := k, mirrorU := u }
  if (s.region p rgMirror).size < k + u + 2097152 then
    (s.modPart p fun x => { x with mirrorState := 3 }).sendVc1 p src mirrorRefuse []
  else s

/-- A page of the source is written at its offset. -/
def State.keepPage (s : State) (p : PartIx) (o : Nat) (b : Bytes) : State :=
  let x := s.part p
  if o + 65536 ≤ x.mirrorK + x.mirrorU ∧ x.mirrorK + x.mirrorU + 2097152 ≤ (s.region p rgMirror).size then
    s.writeP p ((s.region p rgMirror).addr + o) (b.take 65536) .mirrorCopy
  else s

/-- A header is written to its half, then acknowledged; not while a write of the mirror stands in error here, of which the source is told
(Table 8-14). -/
def State.keepHeader (s : State) (p : PartIx) (src : BitVec 14) (b : Nat) (h : Bytes) : State :=
  let x := s.part p
  if (s.region p rgMirror).size < x.mirrorK + x.mirrorU + 2097152 ∨ 1 < b then s
  else
    let s := s.writeP p (s.halfAddr p b) (h.take 1048576) .mirrorCopy
    if (s.firstDamage p (s.region p rgMirror).addr (s.region p rgMirror).size).isSome then s.sendVc1 p src mirrorFail []
    else s.sendVc1 p src mirrorOk (h.take 8)

/-- The half that holds the mirrored state: the one with the higher valid step number and a matching digest (R196). -/
def State.bestHalf (s : State) (p : PartIx) : Option Nat :=
  let h (b : Nat) : MirrorHeader := headerOf (s.readV p (s.halfAddr p b) 1048576)
  match headerValid (h 0), headerValid (h 1) with
  | true, true => some (if (h 0).step < (h 1).step then 1 else 0)
  | true, false => some 0
  | false, true => some 1
  | false, false => none

/-- The mirror goes to a spare: every page of KVPOOL and SUSPEND that is not on the selected header's free lists, to the same offsets, then
the header (R272). Without a valid half the spare gets one whose digest fails. -/
def State.restoreTo (s : State) (p : PartIx) (dev : BitVec 14) : State :=
  let x := s.part p
  let half := s.readV p (s.halfAddr p ((s.bestHalf p).getD 0)) 1048576
  let h := headerOf half
  let free := h.kvFree.map (·.toNat) ++ h.susFree.map fun o => x.mirrorK + o.toNat
  let offs := if (s.bestHalf p).isNone then [] else
    ((List.range ((x.mirrorK + x.mirrorU) / 65536)).map (65536 * ·)).filter fun o => !free.contains o
  let s := offs.foldl (fun s o =>
    s.sendVc1 p dev restorePage (leBytes 8 o ++ s.readV p ((s.region p rgMirror).addr + o) 65536)) s
  s.sendVc1 p dev restoreHead half

/-! The spare (R272) -/

/-- The slot hooks of a step record over the entries of a Kennel (R131, R161). -/
def hooksOf (k : Kennel) (slots : List SlotRec) : List SlotHooks :=
  slots.map fun r =>
    if r.used then
      let w := k.entry r.entry.toNat
      ⟨true, r.entry, r.len, BitVec.ofNat 32 (eMaxLen w), BitVec.ofNat 64 (ePageList w), r.seed.setWidth 16, BitVec.ofNat 8 (kOf r.keff.toNat)⟩
    else ⟨false, 0, 0, 0, 0, 0, 0⟩

/-- No step runs or starts: a restore may be taken. -/
def Partition.restorable (x : Partition) : Bool := x.partState == 1 && !x.stepping && x.jobState != 1

/-- A page of the mirror goes to the same offset of KVPOOL or SUSPEND. -/
def State.putBack (s : State) (p : PartIx) (o : Nat) (b : Bytes) : State :=
  if o + 65536 ≤ s.poolBytes p + s.suspendBytes p then s.writeP p (s.mirrorAddr p o) (b.take 65536) .mirrorCopy else s

/-- What goes with an entry that a mirror's header brings: it holds a page list once it has left ADMITTED; one that has ended has its FINAL
record due (log 33). -/
def EntryX.mirrored (w : Entry) : EntryX :=
  { EntryX.free with
    listed := decide (2 ≤ eState w ∧ eState w ≤ 4) || (eState w != stFree && (ePageList w != 0 || eNPages w != 0))
    final := if eState w = stEnded ∨ eState w = stFaulted then 1 else 0 }

/-- The header's Kennel range and free lists become the boundary image for step MIRROR_STEP + 1. DESIGN CHOICE (log 33): the recorded release
time of that step, which no header carries, is a free value. -/
def State.installMirror (s : State) (p : PartIx) (h : MirrorHeader) : State :=
  let x := s.part p
  if !headerValid h ∨ h.entries.length ≠ s.pnum p 0x41 then s.setPart p { x with restoreFailed := true }
  else
    let recs : List SlotRec := h.slots.map fun r => ⟨r.1 != 0xFFF, r.1, r.2.2.1, r.2.2.2.1, r.2.2.2.2⟩
    let ht := s.draw 64
    let s := ht.2
    let n := h.step + 1
    let old := s.ken p
    let at_ (r : Nat) (l : List (BitVec 64)) : List (BitVec 64) := l.map fun o => o + BitVec.ofNat 64 (s.region p r).addr
    let k := { old with
      entries := h.entries, extra := h.entries.map EntryX.mirrored
      kvFree := at_ rgKv h.kvFree, susFree := at_ rgSuspend h.susFree, kvHeld := []
      stepRec := some ⟨n, h.variant.setWidth 8, recs⟩, copies := [] }
    let img : BoundaryImage := ⟨n, k, h.variant, hooksOf k recs, ht.1, (match x.loadedPlan with | some pl => pl.digest | none => 0), []⟩
    s.modPart p fun x => { x with
      kennel := k, images := [img], restoreFailed := false, stepCommitted := h.step }

/-- The partner's mirror is copied to a spare, which installs it, `pages` by their offset in the mirror; or this module, as the partner, copies a mirror that it holds (R272). -/
def execMirrorRestore (p : PartIx) (side : MirrorSide) (pages : List (BitVec 64 × Bytes)) (s : State) : Host.Outcome State Fault Refusal :=
  match side with
  | .spare h =>
    if !(s.part p).restorable then done s
    else if !headerValid h ∨ h.entries.length ≠ s.pnum p 0x41 then done (s.modPart p fun x => { x with restoreFailed := true })
    else done ((pages.foldl (fun s g => s.putBack p g.1.toNat g.2) s).installMirror p h)
  | .holder dev => done (if s.pnum p 0x58 = 0 then s else s.restoreTo p dev)

/-! VC1 messages received -/

/-- A whole VC1 message of a partition from a device of its job (log 31, log 33). A manifest and chunks come only from PARENT or BACKUP, and not
to a module with FETCH = 1 (R198, R202). -/
def State.takeVc1 (s : State) (p : PartIx) (src : BitVec 14) (b : Bytes) : State :=
  let what := leNat (b.take 4)
  let c := b.drop 4
  let source := s.comesFrom p src 0x58
  let partner := s.comesFrom p src 0x57
  if what = mirrorStart then (if source then s.holdMirror p src (recField c 0 64) (recField c 64 64) else s)
  else if what = mirrorPage then (if source then s.keepPage p (recField c 0 64) (c.drop 8) else s)
  else if what = mirrorHead then (if source then s.keepHeader p src (recField c 0 8) (c.drop 1) else s)
  else if what = mirrorOk then (if partner then s.mirrorAcked p (BitVec.ofNat 64 (recField c 0 64)) else s)
  else if what = mirrorRefuse then (if partner then s.modPart p fun x => { x with mirrorState := 3, mirrorWait := false, mirrorDue := none } else s)
  else if what = mirrorFail then (if partner then s.loseMirror p else s)
  else if what = leaveIndex then s.leaveChild p src
  else if what = restorePage then
    (if partner && (s.part p).restorable then s.putBack p (recField c 0 64) (c.drop 8) else s)
  else if what = restoreHead then (if partner && (s.part p).restorable then s.installMirror p (headerOf c) else s)
  else
    let k : IngestKey := ⟨BitVec.ofNat 2 (recField c 0 32), BitVec.ofNat 32 (recField c 32 32)⟩
    let d := c.drop 8
    if what = reportIndex then s.childReport p k src
    else if what = requestIndex then s.serveChild p src k (recField d 0 32) (recField d 32 8 != 0)
    else
      match s.ingestEntry p with
      | some e => if !e.fetch && (src == e.parent || src == e.backup) then s.takePiece p k (BitVec.ofNat 32 what) d else s
      | none => s

/-- The data of a VC1 message is not verified: the chunk that is due is treated as one whose digest does not match (R241). -/
def State.lostVc1 (s : State) (p : PartIx) : State :=
  match (s.part p).ingests.find? fun g => !g.done && decide (g.first < mfChunks g.manifest), s.ingestEntry p with
  | some g, some d => if d.fetch then s else s.badChunk p g d (BitVec.ofNat 32 g.first)
  | _, _ => s

end Sys2Proof.Machine
end

