-- ==== Sys2Proof/Machine/Commit.lean ====
section
/-!
DEFINITION. What a commit does (R281 to R284, R260, R242, R279, R305): values set, partitions activated, torn down or restarted, keys installed;
and the staging requests STG_CHECK, STG_COMMIT, STG_ABORT (R302 to R306, R369).
-/

namespace Sys2Proof.Machine

/-! Structural changes (R281, R282) -/

/-- A PORT_OWNERS value gives an entry to a partition. -/
def ownsIn (v : Bytes) (p : PartIx) : Bool := (List.range 8).any fun i => let o := ownerOf v i; o.kind == 1 && o.part == p.val

/-- Partitions that a staged object belongs to: its index, or the local owners of its port, before and after. -/
def State.touchedBy (s : State) (o : StagedObj) (p : PartIx) : Bool :=
  partOfIndex o.index.toNat == some p ||
    (match portOfIndex o.index.toNat with
      | some n => o.sub == 0x10 && (ownsIn (s.obj (0x3000 + n.val) 0x10) p || ownsIn o.value p)
      | none => false)

/-- Partitions that a set touches. -/
def State.touched (s : State) (objs : List StagedObj) : List PartIx :=
  (List.finRange 16).filter fun p => objs.any fun o => s.touchedBy o p

/-- The set changes partition `p` structurally. -/
def State.structural (s : State) (objs : List StagedObj) (p : PartIx) : Bool :=
  objs.any fun o => s.touchedBy o p && o.value != s.obj o.index.toNat o.sub.toNat
    && (o.index.toNat ≥ 0x3000 || [0x01, 0x03, 0x40, 0x41, 0x50].contains o.sub.toNat)


/-- Plans, job, slots and copies of a partition end; its Kennel is `k` (R281). DESIGN CHOICE (log 76): HOLD_TOTAL goes on; it starts anew only
as the partition rises from OFF (R16, R284). -/
def Partition.tornDown (x : Partition) (k : Kennel) : Partition :=
  { x with
    cyc := 0, front := false, pendFaults := [], doneWrites := [], written := [], hold := none, govHold := false, govMarks := [], frozen := none, diagLost := false, running := false
    poisoned := false, restoreFailed := false
    runPlan := none, loadedPlan := none, oldPlan := none, loadStatus := 0xFF, load := none
    jobState := 0, startWritten := 0, starting := false, variant := 0, hooks := [], barrier := Barrier.none, early := Barrier.none, images := [], log := []
    stopDelay := 0, kennel := k
    slotState := Vector.replicate 2 0, slotBad := Vector.replicate 2 false, swaps := [], ingests := [], failedIngests := [], waitFeeds := [], childDone := []
    wloadStatus := if x.ingests.isEmpty then x.wloadStatus else 0, wloadModel := if x.ingests.isEmpty then x.wloadModel else []
    mirrorState := 0, mirrorWait := false, mirrorDue := none, mirrorBegun := false, mirrorK := 0, mirrorU := 0, waiting := [], adopted := [], upBackup := false, reported := []
    changed := [], lastChanged := [], vc0In := [], rxKth := [] }

/-- No bit whose fence covers the partition is latched, nor bit 63 (R321). -/
def State.fenceFree (s : State) (p : PartIx) : Bool :=
  s.faults.fsw &&& (s.part p).fenceBits == 0 && !s.faults.fsw.getLsbD 63

/-- New ML-KEM and LPDDR5X keys (R284, Table 11-5). -/
def State.newKeys (s : State) (p : PartIx) : State :=
  let a := s.entropy
  let b := a.2.entropy
  let n := s.partNo.lpShare
  let own := (List.finRange 96).filter fun c => s.ownsCol p (c.val / n) && decide (c.val < n * s.partNo.cols)
  b.2.modPart p fun x => { x with keys := { x.keys with
    kem := some (Config.entropy a.1), lpKeys := own.map fun c => (c, Config.entropy b.1), lpOld := [], lpGen := 1 } }

/-! What a structural change takes away (R282). `old` is the module before the commit. -/

/-- A Kennel range of `p` that it no longer has. -/
def State.losesKennel (s old : State) (p : PartIx) : Bool :=
  let had := !(old.colsOf p).isEmpty && old.pnum p 0x41 != 0
  had && ((s.colsOf p).isEmpty || decide (old.pnum p 0x40 < s.pnum p 0x40
    ∨ s.pnum p 0x40 + s.pnum p 0x41 < old.pnum p 0x40 + old.pnum p 0x41))

/-- An owner entry of `p` that it no longer has; a partition without columns holds none (R273). -/
def State.losesEntry (s old : State) (p : PartIx) : Bool :=
  !(old.colsOf p).isEmpty && (List.finRange 24).any fun n => match old.ownerIx n p with
    | some w => s.ownerIx n p != some w
    | none => false

/-- What `p` has to send is given up; flits sent and not acknowledged stay, so that the sequence of the port stays whole, but no detour or
full training takes them up again. -/
def State.dropOut (s old : State) (p : PartIx) : State :=
  (List.finRange 24).foldl (fun s n => match old.ownerIx n p with
    | none => s
    | some w =>
      let mine (o : OutFlit) : Bool := o.ofEntry w && !o.transit
      (s.dropWaiting n mine).modPort n fun x => { x with
        replay := x.replay.map fun r => if mine r.out then { r with moved := true } else r }) s

/-- What `p` is receiving is given up with the units that it holds. -/
def State.dropIn (s : State) (p : PartIx) : State :=
  let mine := s.msgs.filter fun m => m.part == p
  let t := mine.foldl (fun s m => s.freeMsg m.vc m.flits) s
  { t with msgs := t.msgs.filter fun m => m.part != p }

/-- Messages that a partition is receiving under a key phase are given up as the phase takes another key (R242). -/
def State.dropPhase (s : State) (p : PartIx) (ph : Bool) : State :=
  let mine (m : RxMsg) : Bool := m.part == p && m.kph == ph
  let t := (s.msgs.filter mine).foldl (fun s m => s.freeMsg m.vc m.flits) s
  { t with msgs := t.msgs.filter fun m => !mine m }

/-- Owner entries of a port that a commit has given to another owner: their flits and replay entries are discarded, their spill slots are
zero (Table 11-7). -/
def State.dropEntries (s old : State) (n : PortIx) : State :=
  let lost (w : BitVec 3) : Bool :=
    let a := old.ownerAt n w
    let b := s.ownerAt n w
    a.kind != 0 && (a.kind != b.kind || a.part != b.part || a.job != b.job)
  let gone (o : OutFlit) : Bool := o.ofEntry o.owner && lost o.owner
  let cut := (s.port n).replay.filter fun r => gone r.out
  let s := cut.foldl (fun s r => match r.spilled with
    | some k => { s with mem := Memory.write s.mem (s.spillAddr n k) (List.replicate 256 0) }
    | none => s) s
  (s.dropWaiting n gone).modPort n fun x => { x with replay := x.replay.filter fun r => !gone r.out }

/-- LPDDR5X channels that a partition has gained come under its LPDDR5X key (Table 11-5). DEDUCED (log 62): the key of the first channel that
it had; with none, a new one. -/
def State.gainKeys (s : State) (p : PartIx) : State :=
  let n := s.partNo.lpShare
  let has := (s.part p).keys.lpKeys
  let gained := (List.finRange 96).filter fun c =>
    s.ownsCol p (c.val / n) && decide (c.val < n * s.partNo.cols) && !has.any fun k => k.1 == c
  if gained.isEmpty then s
  else
    match has with
    | k :: _ => s.modPart p fun x => { x with keys := { x.keys with lpKeys := x.keys.lpKeys ++ gained.map fun c => (c, k.2) } }
    | [] =>
      let d := s.entropy
      d.2.modPart p fun x => { x with keys := { x.keys with lpKeys := gained.map (fun c => (c, Config.entropy d.1)), lpGen := x.keys.lpGen + 1 } }

/-- The structural change of `p`: tear-down, end of a fence, scrub of what it gives up, its keys first (R281, R282, R321). DESIGN CHOICE
(log 40): only memory takes time; the rest is zero at once. -/
def State.tearDown (s old : State) (p : PartIx) : State :=
  let x := (s.part p).tornDown (s.freshKennel p)
  let gone := old.colMask p &&& ~~~s.colMask p
  let n := ((List.finRange 16).filter fun c => gone.getLsbD c.val).length
  let x := if x.fenced ∧ s.fenceFree p then { x with fenced := false, fenceBits := 0 } else x
  let x : Partition :=
    if gone ≠ 0 ∨ s.losesKennel old p ∨ s.losesEntry old p then
      { x with
        partState := 2, scrubCols := x.scrubCols ||| gone, scrubs := x.scrubs ++ [⟨s.ns, 9168 * n, n * 5760 * s.partNo.lpShare⟩]
        keys := { Keys.none with serial := x.keys.serial, lpGen := x.keys.lpGen } }
    else if x.partState = 3 ∧ !x.fenced then { x with partState := 1 } else x
  let s := ((s.setPart p x).dropOut old p).dropIn p
  let s := if (s.part p).partState = 1 then s.gainKeys p else s
  (List.finRange 16).foldl (fun s c =>
    if gone.getLsbD c.val then (List.finRange 12).foldl (fun s r => s.setCell ⟨r, c⟩ Cell.cold) s else s) s

/-- A partition becomes ACTIVE from OFF (R284). Its schedule-fault record is no object of the partition and stays until it is cleared
(R316). -/
def State.activate (s : State) (p : PartIx) : State :=
  (s.setPart p { Partition.cold with partState := 1, kennel := s.freshKennel p, sf := (s.part p).sf }).newKeys p

/-! Restart (R260) -/

/-- A command that waits reaches the same stream in a Kennel that is put back: its entry holds it, or the serial log admits it again (R158,
R260). A SEED names no stream. -/
def Kennel.reaches (k : Kennel) (log : List LogItem) (c : SqEntry) : Bool :=
  let w := k.entry (scEntry c)
  scCmd c == 7 || (eLive w && eSid w == scSid c)
    || log.any fun i => !i.fast && scCmd i.cmd == 1 && scEntry i.cmd == scEntry c && scSid i.cmd == scSid c

/-- A Kennel put back, with the rings, counters and waiting commands as they stand: what the host has seen does not move back (R261). -/
def Kennel.keepRings (k old : Kennel) (log : List LogItem) : Kennel :=
  { k with
    sqTail := old.sqTail, sqHead := old.sqHead, cqHead := old.cqHead, cqWrite := old.cqWrite, phase := old.phase, kept := old.kept
    pendingCmds := k.pendingCmds ++ (old.pendingCmds.filter (·.wait)).map fun c => { c with live := c.live && k.reaches log c.cmd }
    missCount := old.missCount, poolShort := old.poolShort, noReport := old.noReport, doorbellBad := old.doorbellBad, kenSel := old.kenSel
    slotMap := none, mapWhole := false, barkDone := 0 }

/-- The home Kennel sends every member its whole seed table, of which a spare among them knows nothing (R271). DESIGN CHOICE (log 82): as a
restart begins. -/
def State.tellSeeds (s : State) (p : PartIx) : State :=
  (s.ken p).seeds.zipIdx.foldl (fun s k => s.tellMembers p (.seed (BitVec.ofNat 12 k.2) k.1)) s

/-- Steps run again from `n`, whose boundary was scheduled at `was` (R260, R262, R268). Before a plan switch the former plan, which stays
retained, runs again; what the aborted step has received is given up. -/
def State.restart (s : State) (p : PartIx) (n was : BitVec 64) : State :=
  let s := s.cutTest
  let x := s.part p
  let start : BitVec 64 := BitVec.ofNat 64 (s.pnum p 0x72)
  let back : Bool := decide (n.toNat < s.pnum p 0x35) && s.pnum p 0x35 != 2 ^ 64 - 1
  match x.images.find? fun i => i.step == n with
  | none => s
  | some i =>
    let x := { x with
      kennel := i.kennel.keepRings x.kennel x.log, variant := i.variant, hooks := i.hooks
      jobState := 4, starting := true, running := false, barrier := Barrier.none, early := Barrier.none
      frozen := none, diagLost := false, hold := none, front := false, pendFaults := [], doneWrites := [], written := [], poisoned := false
      stopDelay := if x.jobState = 3 ∧ later start was then start - was else 0
      vc0In := [], rxKth := [] }
    let s := match x.oldPlan with
      | some o =>
        if back && x.loadedPlan.isNone then (s.setPart p { x with loadedPlan := x.runPlan, runPlan := some o }).newCode p
        else s.setPart p x
      | none => s.setPart p x
    ((s.dropVc0 p).absorb p).tellSeeds p

/-! Keys (R242, R279) -/

/-- Key material of a wrap. -/
def Partition.unwrap (x : Partition) (v : Bytes) (l : Nat) : BitVec l :=
  let d := x.keys.kem.getD 0
  let ss := Config.mlKemDecaps d ((v.drop 16).take 1568)
  let ctx := v.take 16 ++ leBytes 64 (Config.sha3_512 (Config.mlKemEk d)).toNat
  Config.kmac256 (leBytes 32 ss.toNat) ctx l "CLR PARTITION KEY"

/-- Senders use the key of a phase from here on; the other phase goes at the next boundary (R242). -/
def Keys.switchTo (k : Keys) (ph : Bool) : Keys :=
  { k with linkActive := ph, linkNext := Option.none, oldPhase := if k.linkKey[two (!ph)].isSome then some (!ph) else Option.none }

/-- A link key goes into its phase (R242): between a boundary and the release that it leads to, senders switch at that release, else at
once. A partition that has no decapsulation key any more installs none. -/
def Partition.installLink (x : Partition) (v : Bytes) : Partition :=
  if x.keys.kem.isNone then x else
  let ph := recField v 4 1 == 1
  let k := { x.keys with
    linkKey := x.keys.linkKey.set (two ph) (some (x.unwrap v 256))
    ctr := x.keys.ctr.set (two ph) (Vector.replicate 4 0) }
  let k := if x.between then { k with linkNext := some ph } else k.switchTo ph
  { x with keys := { k with
    serial := if k.serial.toNat < recField v 64 32 then BitVec.ofNat 32 (recField v 64 32) else k.serial } }

/-- An IDE key set goes into its place (R280). -/
def Partition.installIde (x : Partition) (v : Bytes) : Partition :=
  if x.keys.kem.isNone then x else
  let k := x.keys
  { x with keys := { k with
    ideSet := k.ideSet.set (two (recField v 4 1 == 1)) (some (x.unwrap v 1536))
    serial := if k.serial.toNat < recField v 64 32 then BitVec.ofNat 32 (recField v 64 32) else k.serial } }

/-! Effects of single objects -/

/-- Sessions of a role whose key has been erased end (R294). -/
def State.closeRole (s : State) (role : BitVec 4) (p : Option PartIx) : State :=
  (s.sessions.filter fun x => x.role == role && (p.isNone || p == some x.part)).foldl (fun (s : State) x => s.closeSession x.sid) s

/-- An object of a partition. DESIGN CHOICE (log 34): a ring whose base or size changes starts again at index 0 with PHASE 1. -/
def State.partEffect (old s : State) (p : PartIx) (sub : Nat) (v : Bytes) : State :=
  let moved := v != old.pobj p sub
  match sub with
  | 0x11 => if v.isEmpty then s.closeRole roleT (some p) else s
  | 0x12 => if (s.part p).keys.kem.isNone then s else (s.dropPhase p (recField v 4 1 == 1)).modPart p fun x => x.installLink v
  | 0x13 => s.modPart p fun x => x.installIde v
  | 0x42 | 0x43 => if moved then s.modKen p fun k => { k with sqTail := 0, sqHead := 0 } else s
  | 0x44 | 0x45 => if moved then s.modKen p fun k => { k with cqHead := 0, cqWrite := 0, phase := true } else s
  | 0x57 => if moved then (s.modPart p fun x => { x with
      mirrorState := if leNat v = 0 then 0 else 1, mirrorStep := BitVec.allOnes 64, mirrorWait := false, mirrorDue := none,
      mirrorBegun := false }).mirrorBegin p
    else s
  | 0x60 | 0x61 => if moved then s.modPart p fun x => { x with vc2 := { x.vc2 with mqTail := 0, mqHead := 0 } } else s
  | 0x62 | 0x63 => if moved then s.modPart p fun x => { x with vc2 := { x.vc2 with mcHead := 0, mcWrite := 0, phase := true } } else s
  | 0x71 => s.modPart p fun x => { x with startWritten := x.startWritten ||| 1 }
  | 0x72 => s.modPart p fun x => { x with startWritten := x.startWritten ||| 2 }
  | 0x77 =>
    let n : BitVec 64 := BitVec.ofNat 64 (leNat v)
    if n = BitVec.allOnes 64 then s else s.restart p n (old.boundaryAt p n)
  | _ => s

/-- Number of uncorrectable flits in a port's window. -/
def Port.windowCount (x : Port) : Nat := x.win.foldl (· + ·) 0

/-- Effect of one object that a commit has set. -/
def State.objEffect (old s : State) (o : StagedObj) : State :=
  let i := o.index.toNat
  match partOfIndex i, portOfIndex i with
  | some p, _ => old.partEffect s p o.sub.toNat o.value
  | none, some n => if o.sub = 1 then s.portCommit n false
      else if o.value ≠ old.obj i 0x10 then (s.dropEntries old n).portCommit n true else s
  | none, none =>
    match i, o.sub.toNat with
    | 0x3400, 1 => (List.finRange 24).foldl (fun s n =>
        if (s.port n).state = 3 ∧ s.num 0x3400 1 < (s.port n).windowCount then s.portDown n 1 else s) s
    | 0x8000, 3 => if leNat o.value = 1 then s.becomeRoot else s
    | 0x8000, 4 | 0x8000, 5 => { s with heel := { s.heel with onBackup := false, t1 := none } }
    | _, _ => s

/-! A set takes effect -/

/-- Every value of a set takes effect at once. -/
def State.applySet (s : State) (objs : List StagedObj) : State :=
  let up := s.risen objs
  let down := (List.finRange 16).filter fun p => s.structural objs p && !up.contains p
  let keyed := up.filter fun p => !(s.pobj p 0x11).isEmpty && !(objs.any fun o => o.key == pkey p 0x11)
  let t := (s.toDefaults up).overlay objs
  let t := up.foldl State.activate t
  let t := keyed.foldl (fun (t : State) p => t.closeRole roleT (some p)) t
  let t := down.foldl (fun (t : State) p => t.tearDown s p) t
  objs.foldl (fun t o => s.objEffect t o) t

/-! Pending commits (R305) -/

def State.modStaging (s : State) (sid : BitVec 32) (f : Staging → Staging) : State :=
  s.modSession sid fun x => { x with staging := x.staging.map f }

/-- A commit has taken effect at step `n`. -/
def Staging.effected (g : Staging) (n ht : BitVec 64) : Staging := { g with state := 4, effect := n, ht := ht, reserved := false }

/-- The pending commit of an order is decided: the repeated check, then every value or none (R305). -/
def State.takeCommit (s : State) (order : Nat) (n : BitVec 64) : State :=
  match s.pends.find? fun q => q.order == order with
  | none => s
  | some q =>
    let sid : Option (BitVec 32) := (s.sessions.find? fun x => match x.staging with
      | some g => g.state == 3 && g.order == order
      | none => false).map (·.sid)
    let mark (s : State) (f : Staging → Staging) : State := match sid with
      | some i => s.modStaging i f
      | none => { s with orphans := s.orphans.filter fun o => o.order != order }
    match s.checkSet q.objs (some order) q.role with
    | some f => mark s fun g => { g with
        state := 5, report := checkReport q.role q.part (some f) q.step, reserved := false }
    | none => (mark s fun g => g.effected n s.heelNow).applySet q.objs

/-- Pending commits whose clock partition has become IDLE take effect (R305). -/
def State.settleIdle : Nat → State → State
  | 0, s => s
  | k + 1, s =>
    match s.pends.find? fun q => (s.part q.clock).jobState == 0 with
    | none => s
    | some q => (s.takeCommit q.order (BitVec.allOnes 64)).settleIdle k

/-- A staged set takes effect now, outside a boundary. -/
def State.applyNow (s : State) (objs : List StagedObj) : State :=
  let t := s.applySet objs
  t.settleIdle (t.pends.length + 1)

/-- Commits pending for a step of `p`. -/
def State.pendsFor (s : State) (p : PartIx) (n : BitVec 64) : List Pend := s.pends.filter fun q => q.clock == p && q.step == n

/-- Pending commits at the start of boundary processing before step `n`: all but those that change `p` structurally, which wait for the release
(R281, R305); one of those that fails its check now is decided now. -/
def State.commitsAtBoundary (s : State) (p : PartIx) (n : BitVec 64) : State :=
  let t := (s.pendsFor p n).foldl (fun s q =>
    if s.structural q.objs p ∧ s.checkSet q.objs (some q.order) q.role = none then s else s.takeCommit q.order n) s
  t.settleIdle (t.pends.length + 1)

/-- Commits left for the release of step `n`. -/
def State.commitsAtRelease (s : State) (p : PartIx) (n : BitVec 64) : State :=
  let t := (s.pendsFor p n).foldl (fun s q => s.takeCommit q.order n) s
  t.settleIdle (t.pends.length + 1)

/-! Staging requests (R302 to R306, R369) -/

/-- The last step whose boundary processing has begun, or that has been released. A restart takes this back to the step before the one that runs
again first (R260, R305). -/
def State.begun (s : State) (p : PartIx) : Option (BitVec 64) :=
  let x := s.part p
  let ended : Option Release := if x.barrier.processed then x.barrier.release else none
  match ended with
  | some r => some (r.step + 1)
  | none =>
    let start := s.pnum p 0x71
    if x.starting then (if x.jobState = 4 ∧ start ≠ 0 then some (BitVec.ofNat 64 (start - 1)) else none)
    else if x.jobState = 1 then none else some x.stepNow

/-- Boundary processing before step `n` has begun, or the step has been released (R304, R306). -/
def State.hasBegun (s : State) (p : PartIx) (n : BitVec 64) : Bool :=
  match s.begun p with
  | some b => decide (n ≤ b)
  | none => false

/-- The reservation of R303: another staging session whose check completed earlier holds one of the objects. -/
def State.conflict (s : State) (sid : BitVec 32) (g : Staging) : Bool :=
  s.sessions.any fun x => x.sid != sid && (match x.staging with
    | some h => h.reserved && decide (h.order < g.order) && h.objs.any fun o => g.objs.any fun q => q.key == o.key
    | none => false)

/-- STG_CHECK = 1 (R302). -/
def State.stgCheck (s : State) (x : Session) : Status × State :=
  match x.staging with
  | none => (stNoSession, s)
  | some g =>
    if g.state = 3 then (stBusy, s)
    else if g.state = 4 then (stNoSession, s)
    else
      match s.checkSet g.objs none x.role with
      | some f => (stRefused, s.modStaging x.sid fun g => { g with
          state := 1, report := checkReport x.role x.part (some f) (BitVec.allOnes 64), reserved := false })
      | none => (stOk, { s with checks := s.checks + 1 }.modStaging x.sid fun g => { g with
          state := 2, report := 0, reserved := true, order := s.checks + 1, core := x.core })

/-- Partitions of a set whose jobs run. -/
def State.running (s : State) (objs : List StagedObj) : List PartIx := (s.touched objs).filter fun p => (s.part p).busy

/-- The clock partition of a commit (R304). -/
def State.clockOf (s : State) (g : Staging) : Option PartIx :=
  if h : g.clock.toNat < 16 then some ⟨g.clock.toNat, h⟩ else (s.running g.objs).head?

/-- STG_COMMIT = n (R304). -/
def State.stgCommit (s : State) (x : Session) (n : BitVec 64) : Status × State :=
  match x.staging with
  | none => (stNoSession, s)
  | some g =>
    let refuse (f : CheckFail) : Status × State := (stRefused, s.modStaging x.sid fun g => { g with
      state := 1, report := checkReport x.role x.part (some f) n, reserved := false })
    if g.state = 3 then (stBusy, s)
    else if g.state ≠ 2 then (stNoSession, s)
    else
      let run := s.running g.objs
      let clock := s.clockOf g
      if decide (1 < run.length) || run.any fun p => some p != clock then refuse ⟨0xB, 0, objKey 0x1100 4, 0, 0⟩
      else
        match s.checkSet g.objs none x.role with
        | some f => refuse f
        | none =>
          if s.conflict x.sid g then (stConflict, s)
          else
            let now := (s.modStaging x.sid fun g => g.effected (BitVec.allOnes 64) s.heelNow).applyNow g.objs
            match clock with
            | none => (stOk, now)
            | some p =>
              if !(s.part p).busy then (stOk, now)
              else if n = BitVec.allOnes 64 ∨ s.hasBegun p n then (stTooLate, s)
              else (stOk, s.modStaging x.sid fun g => { g with state := 3, step := n, on := some p })

/-- STG_ABORT = 1 (R306). -/
def State.stgAbort (s : State) (x : Session) : Status × State :=
  match x.staging with
  | none => (stNoSession, s)
  | some g =>
    if g.state = 4 ∨ g.state = 5 then (stTooLate, s)
    else if g.state ≠ 3 then (stNoSession, s)
    else
      let late : Bool := match g.on with
        | some p => s.hasBegun p g.step
        | none => false
      if late then (stTooLate, s)
      else (stOk, s.modStaging x.sid fun g => { g with state := 6, reserved := false })

end Sys2Proof.Machine
end

