-- ==== Sys2Proof/Machine/FaultRows.lean ====
section
/-!
DEFINITION. Commands of the fault collector (R314 to R324): error lines and their immediate actions (Table 13-3), grace timers and escalation (R317 to
R319), ACK, CLEAR and UNFENCE (R317, R320, R321), the Shepherd watchdogs (R324).
-/

namespace Sys2Proof.Machine

/-! Fences and the Muzzle (R319, Table 13-6) -/

/-- The fence scope of a bit (Table 13-3). -/
def State.fenceScope (s : State) (b : Fin 50) : List PartIx :=
  (List.finRange 16).filter fun p =>
    if b.val < 16 then s.ownsCol p b.val
    else if b.val < 24 then s.onStack p (b.val - 16)
    else if b.val < 30 then s.onGroup p (b.val - 24)
    else if b.val < 36 then s.onOe p (b.val - 30)
    else match b.val with
      | 37 => s.bothDies p
      | 36 | 38 | 39 | 43 | 49 => s.faults.scope[b].getLsbD p.val
      | 40 | 41 => s.pnum p 0x47 != 0
      | 42 | 44 | 46 | 47 => true
      | 48 => (s.part p).sf.getLsbD 0
      | _ => false

/-- The fence of a bit covers a partition: an ACTIVE one becomes FENCED. -/
def State.fence (s : State) (b : Fin 50) (p : PartIx) : State :=
  let x := s.part p
  let bits := x.fenceBits ||| BitVec.twoPow 64 b.val
  if x.partState = 3 then s.setPart p { x with fenceBits := bits }
  else if x.partState ≠ 1 then s
  else
    let k := { x.kennel with entries := x.kennel.entries.map fun w => if eState w = stRunning then withMuz w true else w }
    let s := s.setPart p { (x.freeze .fence) with partState := 3, fenced := true, fenceBits := bits, kennel := k }
    (s.loseVc2 p).arrive p

/-- FENCED (0x6011.04). -/
def State.fencedMask (s : State) : Nat :=
  (List.finRange 16).foldl (fun a p => if (s.part p).fenced then a + 2 ^ p.val else a) 0

/-- ESC_LEVEL: the highest level in force. -/
def State.escLevel (s : State) : Nat :=
  let bits := (List.finRange 50).foldl (fun a b => if s.faults.fsw.getLsbD b.val then max a s.faults.level[b].toNat else a) 0
  let fence := if s.fencedMask = 0 then 0 else 1
  let esc := if s.faults.fsw.getLsbD 63 then (if s.pins.faultN then 2 else 3) else 0
  max bits (max fence esc)

/-- Body of an ALARM notice (R322). -/
def State.alarmBody (s : State) (b : Fin 50) (level : Nat) : Bytes :=
  leBytes 16 (packFields [(64, s.faults.fsw.toNat), (8, b.val), (2, level), (6, 0), (16, s.fencedMask), (32, 0)])

/-- A bit reaches a level. -/
def State.reachLevel (s : State) (b : Fin 50) (level : Nat) : State :=
  let s := (if level = 1 then s.fenceScope b else List.finRange 16).foldl (fun s p => s.fence b p) s
  let s := if level < 2 then s
    else { s with faults := { s.faults with muzzle := true, fsw := s.faults.fsw ||| BitVec.twoPow 64 63 } }
  let s := if level < 3 then s else { s with pins := { s.pins with faultN := false } }
  s.notify 4 (s.alarmBody b level)

/-- The grace timer of an unacknowledged bit expires, at the GRACE it was started with; it starts again at GRACE as it stands now
(R317, R318). -/
def execGraceExpiry (bit : Fin 50) (s : State) : Host.Outcome State Fault Refusal :=
  match s.faults.timer[bit] with
  | none => done s
  | some t =>
    let s := s.passTo (65536 * t.toNat)
    let stop (s : State) : State := { s with faults := { s.faults with timer := s.faults.timer.set bit none } }
    let l := s.faults.level[bit].toNat
    if s.escMax bit.val ≤ l then done (stop s)
    else
      let s := { s with faults := { s.faults with level := s.faults.level.set bit (BitVec.ofNat 2 (l + 1)) } }
      let s := s.reachLevel bit (l + 1)
      if s.escMax bit.val ≤ l + 1 then done (stop s)
      else done { s with faults := { s.faults with timer := s.faults.timer.set bit (some (s.ns + BitVec.ofNat 64 s.grace)) } }

/-! Error lines (Table 13-3) -/

/-- A cause of this bit persists by the unit's own state, whatever the line says: a stopped Bark unit, Kennel sequencer or crypto engine. -/
def alwaysPersists (e : ErrEvent) : Bool := e.bit.val == 40 || e.bit.val == 41 || ((e.bit.val == 38 || e.bit.val == 43) && e.whole)

/-- The ingests under way of a partition fail with ERROR 7 (bit 39). -/
def State.failRetriever (s : State) (p : PartIx) : State :=
  (((s.part p).ingests.filter fun g => !g.done).foldl (fun s g => s.failIngest p g.key 7) s).slotsNow p

/-- The two cores disagree in the repeated check of the first commit pending on a partition's clock: it fails (R324). The spec gives its
report no value here. -/
def State.coresDisagree (s : State) (p : PartIx) : State :=
  match s.pends.find? fun q => q.clock == p with
  | none => s
  | some q =>
    let d := s.draw 256
    { d.2 with
      sessions := d.2.sessions.map fun x => { x with staging := x.staging.map fun g =>
        if g.state = 3 ∧ g.order = q.order then { g with state := 5, report := d.1, reserved := false } else g }
      orphans := d.2.orphans.filter fun o => o.order != q.order }

/-- The hub's own hash of a partition's load does not match the loader's measurement: the load is discarded (R324). -/
def State.discardLoad (s : State) (p : PartIx) : State :=
  s.modPart p fun x => { x with loadedPlan := none, load := none, loadStatus := 0xFF }

/-- The immediate action of an event. DESIGN CHOICE (log 59): an event of bit 44 with a partition is the cores' disagreement over a commit
where DETAIL is 1, and a load's mismatch where it is 2; an event of bit 42 is a failure of the time-stamp unit; one of bit 36 is an uncorrectable
TLP error on link INSTANCE, whose functions stand still until it trains again. -/
def State.immediate (s : State) (e : ErrEvent) : State :=
  let freeze (s : State) (f : PartIx → Bool) : State :=
    (List.finRange 16).foldl (fun s p => if f p then s.modPart p fun x => x.freeze .unit else s) s
  if e.bit.val < 16 then freeze s fun p => s.ownsCol p e.bit.val && (s.part p).running
  else match e.bit.val, e.part with
    | 36, _ => { s with power := { s.power with dead := s.power.dead ||| BitVec.twoPow 2 (e.inst.toNat % 2) } }
    | 37, _ => freeze s fun p => s.bothDies p && (s.part p).busy
    | 38, some p => if e.whole then freeze s fun q => (s.part q).busy else s.faultStream p e.entry.toNat
    | 38, none => if e.whole then freeze s fun q => (s.part q).busy else s
    | 39, some p => s.failRetriever p
    | 42, _ => (List.finRange 16).foldl (fun s p => if (s.part p).running then s.modPart p fun x => { x with stampBad := true } else s) s
    | 44, some p => if e.detail = 1 then s.coresDisagree p else if e.detail = 2 then s.discardLoad p else s
    | _, _ => s

/-- An error line of Table 13-3: its bit latches or counts, and hardware acts at once. -/
def execFaultLatch (e : ErrEvent) (s : State) : Host.Outcome State Fault Refusal :=
  if !s.partNo.fswBit e.bit.val ∨ !s.collects then done s
  else
    let e := { e with persists := e.persists || alwaysPersists e }
    let e := if h : e.bit.val < 16 then { e with part := s.owner ⟨e.bit.val, h⟩ } else e
    done ((s.immediate e).event e)

/-! ACK, CLEAR and UNFENCE -/

/-- Bits that a session may name in ACK and CLEAR (R320). -/
def State.clearScope (s : State) (x : Session) : BitVec 64 :=
  if x.role ≠ roleT then BitVec.allOnes 64
  else BitVec.ofNat 64 (s.pnum x.part 1 % 65536) ||| (if (s.part x.part).sf.getLsbD 0 then BitVec.twoPow 64 48 else 0)

/-- ACK (R317). -/
def State.ack (s : State) (x : Session) (v : BitVec 64) : Status × State :=
  if v &&& ~~~s.clearScope x ≠ 0 then (stDenied, s)
  else
    let f := s.faults
    let on (b : Nat) : Bool := decide (b < 50) && v.getLsbD b && f.fsw.getLsbD b
    (stOk, { s with faults := { f with
      acked := f.acked ||| (v &&& f.fsw &&& BitVec.ofNat 64 (2 ^ 50 - 1))
      timer := Vector.ofFn fun b => if on b.val then none else f.timer[b] } })

/-- Bit 48: records of the writer's scope whose freeze has ended are discarded. -/
def State.dropRecords (s : State) (x : Session) : State :=
  (List.finRange 16).foldl (fun s p =>
    if (x.role ≠ roleT ∨ p = x.part) ∧ (s.part p).frozen = none then s.modPart p fun y => { y with sf := 0 } else s) s

/-- CLEAR of one bit of 0 to 49. -/
def State.clearBit (s : State) (b : Fin 50) : State :=
  if s.causeOf b.val then s.latchBit b false
  else
    let f := s.faults
    let m := ~~~BitVec.twoPow 64 b.val
    { s with faults := { f with
      fsw := f.fsw &&& m, acked := f.acked &&& m, timer := f.timer.set b none, level := f.level.set b 0, scope := f.scope.set b 0 } }

/-- CLEAR of bit 63: the Muzzle lifts, FAULT_N is released, records that waited are written. -/
def State.clearEsc (s : State) : State :=
  if (List.finRange 50).any fun b => s.faults.fsw.getLsbD b.val && decide (2 ≤ s.faults.level[b].toNat) then s
  else
    let s := { s with
      faults := { s.faults with muzzle := false, fsw := s.faults.fsw &&& ~~~BitVec.twoPow 64 63 }
      pins := { s.pins with faultN := true } }
    (List.finRange 16).foldl (fun s p => (s.flushCq ((s.ken p).kept.length + 1) p).flushVc2 ((s.part p).vc2.kept.length + 1) p) s

/-- CLEAR (R320, R315). -/
def State.clear (s : State) (x : Session) (v : BitVec 64) : Status × State :=
  if v &&& ~~~s.clearScope x ≠ 0 then (stDenied, s)
  else if v.extractLsb' 50 13 ≠ 0 then (stRange, s)
  else
    let s := if v.getLsbD 48 then s.dropRecords x else s
    let s := (List.finRange 50).foldl (fun s b => if v.getLsbD b.val then s.clearBit b else s) s
    let s := if v.getLsbD 63 then s.clearEsc else s
    (stOk, if s.faults.fsw &&& BitVec.ofNat 64 (2 ^ 50 - 1) = 0 then { s with faults := { s.faults with firstError := 0 } } else s)

/-- UNFENCE (R321). -/
def State.unfence (s : State) (v : Nat) : Status × State :=
  if h : v < 16 then
    let p : PartIx := ⟨v, h⟩
    if (s.part p).partState = 3 ∧ s.fenceFree p then
      (stOk, s.modPart p fun x => { x with partState := 1, fenced := false, fenceBits := 0 })
    else (stRange, s)
  else (stRange, s)

/-! The Shepherd cores (R324) -/

/-- A core's watchdog expires: bit 44, and its sessions close, their pending commits staying. -/
def execWatchdogExpiry (core : Fin 2) (s : State) : Host.Outcome State Fault Refusal :=
  if !s.collects then done s
  else
  let s := { s with faults := { s.faults with coresDown := s.faults.coresDown ||| BitVec.twoPow 2 core.val } }
  let s := s.event (ErrEvent.of 44 0x0C 0 none (BitVec.ofNat 8 core.val))
  done ((s.sessions.filter fun x => x.core == (core.val == 1)).foldl (fun s x => s.closeSession x.sid) s)

/-- The other core has restarted it. -/
def execCoreRestartDone (core : Fin 2) (s : State) : Host.Outcome State Fault Refusal :=
  done (if s.collects then { s with faults := { s.faults with coresDown := s.faults.coresDown &&& ~~~BitVec.twoPow 2 core.val } } else s)

end Sys2Proof.Machine
end

