-- ==== Sys2Proof/Machine/PartRows.lean ====
section
/-!
DEFINITION. The end of a scrub (R282) and the switch of IDE key sets (R280).
-/

namespace Sys2Proof.Machine

/-- Physical ranges of a column-share: HBM3E, then LPDDR5X (R180). -/
def State.shareRanges (s : State) (c : Nat) : List (Nat × Nat) :=
  [(2097152 * (9168 * c), 9168 * 2097152), (2097152 * (16 * 9168 + 34560 * c), 2097152 * (5760 * s.partNo.lpShare))]

/-- A physical range is written with zeros; an uncorrectable error in it is gone (R204). -/
def State.zeroPhys (s : State) (r : Nat × Nat) : State :=
  { s with mem := Memory.clear s.mem r.1 r.2, damaged := s.damaged.filter fun g => !decide (r.1 ≤ g ∧ g < r.1 + r.2) }

/-- The last frame of a scrub is written: memory of the released shares is zero; the partition is OFF, or FENCED where
its fence remains, or ACTIVE (R321). DEDUCED (log 48): one that
keeps columns and becomes ACTIVE again gets keys of its own as R284 gives them, since the scrub has erased its keys. -/
def execScrubDone (p : PartIx) (s : State) : Host.Outcome State Fault Refusal :=
  let x := s.part p
  if x.partState ≠ 2 then done s
  else
    let s := (List.range 16).foldl (fun s c => if x.scrubCols.getLsbD c then (s.shareRanges c).foldl State.zeroPhys s else s) s
    if s.pnum p 1 = 0 then
      done (s.setPart p { x with scrubCols := 0, scrubs := [], fenced := false, fenceBits := 0, partState := 0 })
    else
      let x := { x with scrubCols := 0, scrubs := [], partState := if x.fenced then 3 else 1 }
      done ((s.setPart p x).newKeys p)

/-- The host's set switch: the other key set becomes the active one, and the old one is erased. -/
def execIdeKeySetSwitch (p : PartIx) (s : State) : Host.Outcome State Fault Refusal :=
  let k := (s.part p).keys
  if k.ideSet[two (!k.ideActive)].isNone then done s
  else done (s.modPart p fun x => { x with keys := { x.keys with
    ideSet := x.keys.ideSet.set (two x.keys.ideActive) none, ideActive := !x.keys.ideActive } })

end Sys2Proof.Machine
end

