-- ==== Sys2Proof/Machine/Vc2Rows.lean ====
section
/-!
DEFINITION. VC2 commands (R235 to R239, R352): the request ring, requests at their target, responses. Log 35: layouts of the messages.
-/

namespace Sys2Proof.Machine

/-! Requests at the requester (Table 9-7) -/

def mqOp (e : BitVec 512) : Nat := (e.extractLsb' 0 8).toNat
def mqDev (e : BitVec 512) : BitVec 14 := e.extractLsb' 32 14
def mqRaddr (e : BitVec 512) : Nat := (e.extractLsb' 64 64).toNat
def mqLaddr (e : BitVec 512) : Nat := (e.extractLsb' 128 64).toNat
def mqLen (e : BitVec 512) : Nat := (e.extractLsb' 192 16).toNat

/-- A range lies within one translation page. -/
def inOnePage (a n : Nat) : Bool := a / 2097152 == (a + n - 1) / 2097152

/-- LEN and alignment of an operation. -/
def lenOk (op raddr len : Nat) : Bool :=
  match op with
  | 1 | 2 => decide (1 ≤ len ∧ len ≤ 4096) && inOnePage raddr len
  | 3 | 4 => len == 8 && raddr % 8 == 0
  | _ => len == 0

/-- A request breaks Table 9-7 (status 5). -/
def State.badRequest (s : State) (p : PartIx) (e : BitVec 512) : Bool :=
  let op := mqOp e
  op == 0 || decide (5 < op) || e.extractLsb' 8 8 != 0 || e.extractLsb' 46 18 != 0 || e.extractLsb' 208 48 != 0 || e.extractLsb' 448 64 != 0
    || decide (s.packMap p 0 16 ≤ (mqDev e).toNat) || !lenOk op (mqRaddr e) (mqLen e)
    || (decide (op ≤ 2) && !inOnePage (mqLaddr e) (mqLen e)) || (vc2Opid e == 0) != (op == 1)

/-- The first damaged granule of which a write of `n` bytes covers a part (R204). -/
def State.partDamage (s : State) (p : PartIx) (a n : Nat) : Option Nat :=
  [a, a + n].findSome? fun x => if x % 256 ≠ 0 then (s.firstDamage p (x / 256 * 256) 256) else none

/-- A transaction identifier is free: not outstanding, and not within twice the timeout after a LINK_LOST (R237). -/
def State.txidFree (s : State) (p : PartIx) (t : BitVec 12) : Bool :=
  let v := (s.part p).vc2
  !(v.out.any fun r => r.txid == t) && !(v.resting.any fun r => r.1 == t && decide (s.ns.toNat < r.2.toNat + 2000 * s.num 0x3400 0xC))

/-- The next free identifier after the last one given. -/
def State.freshTxid (s : State) (p : PartIx) : Option (BitVec 12) :=
  let c := (s.part p).vc2.nextTxid
  ((List.range 4096).map fun i => c + BitVec.ofNat 12 i).find? (s.txidFree p)

/-- A request read from the ring: refused at once, or sent (R235, R239). -/
def State.issueVc2 (s : State) (p : PartIx) (e : BitVec 512) : State :=
  let refuse (st : Nat) : State := s.completeVc2 p (vc2Record st (vc2Tag e) (vc2Opid e) 0 0)
  let op := mqOp e
  let local_ := decide (op ≤ 2)
  if s.badRequest p e then refuse 5
  else if local_ && !s.mapped p (mqLaddr e) (mqLen e) then refuse 2
  else if s.vc2Limit p ≤ (s.part p).vc2.out.length then refuse 4
  else match s.portTo p (mqDev e), s.freshTxid p with
    | none, _ => refuse 8
    | _, none => refuse 4
    | some n, some t =>
      let s := if op = 2 then s.swapsProgress p (mqLaddr e) else s
      match if op = 2 then s.firstDamage p (mqLaddr e) (mqLen e) else none with
      | some g => (s.metError p g .vc2).completeVc2 p (vc2Record 9 (vc2Tag e) (vc2Opid e) 0 0)
      | none =>
        let det := match s.transitOf (s.jobTag p) (mqDev e) with
          | some r => r.2
          | none => n
        let data := if op = 2 then s.readV p (mqLaddr e) (mqLen e) else []
        let s := s.modPart p fun x => { x with vc2 := { x.vc2 with nextTxid := t + 1, out := x.vc2.out ++ [⟨t, e, none⟩] } }
        s.sendMessage p 2 n det none (mqDev e) 0 (t.setWidth 16) (leBytes 64 e.toNat ++ data) (.vc2 p t)

/-- Requests are read while the ring holds some, the completion ring has a free record and the device Muzzle is not in force. -/
def State.readMq (s : State) (p : PartIx) (es : List (BitVec 512)) : State :=
  es.foldl (fun s e =>
    let v := (s.part p).vc2
    let full := decide ((v.mcWrite.toNat + 1) % s.pnum p 0x63 = v.mcHead.toNat % s.pnum p 0x63) || !v.kept.isEmpty
    if (s.colsOf p).isEmpty ∨ v.mqHead = v.mqTail ∨ full ∨ s.faults.muzzle then s
    else
      let h := (v.mqHead.toNat + 1) % s.pnum p 0x61
      (s.modPart p fun x => { x with vc2 := { x.vc2 with mqHead := BitVec.ofNat 12 h } }).issueVc2 p e) s

/-- An ignored doorbell write counts with those of the Kennel (R156). -/
def State.badVc2Doorbell (s : State) (p : PartIx) : State := s.modKen p fun k => { k with doorbellBad := k.doorbellBad + 1 }

/-- MQ_TAIL; `entries` is what the ring holds from its head on. -/
def execMqTail (p : PartIx) (d : HostWrite (BitVec 32)) (entries : List (BitVec 512)) (s : State) : Host.Outcome State Fault Refusal :=
  let w := d.value
  done (s.hostTakes p d.via (
    if w.toNat / 4096 ≠ 0 ∨ s.pnum p 0x61 ≤ w.toNat then s.badVc2Doorbell p
    else (s.modPart p fun x => { x with vc2 := { x.vc2 with mqTail := w.setWidth 12 } }).readMq p entries))

/-- MC_HEAD: never past the last record written; records that waited are written. -/
def execMcHead (p : PartIx) (d : HostWrite (BitVec 32)) (s : State) : Host.Outcome State Fault Refusal :=
  let w := d.value
  let size := s.pnum p 0x63
  let v := (s.part p).vc2
  let dist (a : Nat) : Nat := (a + size - v.mcHead.toNat) % size
  done (s.hostTakes p d.via (
    if w.toNat / 4096 ≠ 0 ∨ size ≤ w.toNat ∨ dist v.mcWrite.toNat < dist w.toNat then s.badVc2Doorbell p
    else (s.modPart p fun x => { x with vc2 := { x.vc2 with mcHead := w.setWidth 12 } }).flushVc2 (v.kept.length + 1) p))

/-! Requests at the target (R236, R352) -/

/-- An answer to a request: status, RESULT, RSTATUS, data. -/
structure Vc2Ans where
  status : Nat
  result : BitVec 64
  rstatus : Nat
  data : Bytes
  deriving DecidableEq, Repr

def Vc2Ans.of (status : Nat) : Vc2Ans := ⟨status, 0, 0, []⟩

/-- The answer goes back over the port and owner range through which the request came. -/
def State.answerVc2 (s : State) (p : PartIx) (r : Vc2In) (a : Vc2Ans) : State :=
  s.sendMessage p 2 r.port r.port none r.src 0 (r.txid.setWidth 16)
    (leBytes 64 (vc2Record a.status 0 r.opid.toNat a.result.toNat a.rstatus).toNat ++ a.data) (.vc2Answer p)

/-- The recorded outcome of an OPID of a requester. -/
def Vc2.recorded (v : Vc2) (src : BitVec 14) (opid : BitVec 64) : Option Vc2Done := (v.records src).find? fun d => d.opid == opid

/-- A request is applied in the partition that owns the range it came through, and answered; one for a range of no partition has no effect. -/
def State.target (s : State) (r : Vc2In) (f : State → PartIx → State × Vc2Ans) : State :=
  match s.localOf r.port r.owner with
  | none => s
  | some p => if !s.hasPort r.port then s else let a := f (s.swapsProgress p r.raddr.toNat) p; a.1.answerVc2 p r a.2

/-- An operation applied at most once per OPID: recorded outcome, STALE, else UNMAPPED, MEMORY or what `f` does, which is recorded (R236). A
malformed request is no operation and leaves no record. -/
def State.atMostOnce (s : State) (p : PartIx) (r : Vc2In) (op n : Nat) (f : State → State × BitVec 64) : State × Vc2Ans :=
  let v := (s.part p).vc2
  match v.recorded r.src r.opid with
  | some d => (s, ⟨d.status.toNat, d.result, 0, []⟩)
  | none =>
    if r.opid = 0 ∨ !lenOk op r.raddr.toNat r.len.toNat then (s, .of 5)
    else if v.stale r.src r.opid then (s, .of 3)
    else
      let record (s : State) (status : BitVec 8) (v : BitVec 64) : State × Vc2Ans :=
        (s.modPart p fun x => { x with vc2 := x.vc2.keep ⟨r.src, r.opid, status, v⟩ }, ⟨status.toNat, v, 0, []⟩)
      if !s.mapped p r.raddr.toNat n then record s 2 0
      else match if op = 2 then s.partDamage p r.raddr.toNat n else s.firstDamage p r.raddr.toNat n with
        | some g => record (s.metError p g .vc2) 9 0
        | none => let a := f s; record a.1 0 a.2

/-- READ. -/
def execVc2Read (r : Vc2In) (s : State) : Host.Outcome State Fault Refusal :=
  done (s.target r fun s p =>
    let a := r.raddr.toNat
    let n := r.len.toNat
    if !lenOk 1 a n then (s, .of 5)
    else if !s.mapped p a n then (s, .of 2)
    else match s.firstDamage p a n with
      | some g => (s.metError p g .vc2, .of 9)
      | none => (s, ⟨0, 0, 0, s.readV p a n⟩))

/-- WRITE. -/
def execVc2Write (r : Vc2In) (s : State) : Host.Outcome State Fault Refusal :=
  done (s.target r fun s p => s.atMostOnce p r 2 r.len.toNat fun s =>
    (s.writeV p r.raddr.toNat (r.data.take r.len.toNat ++ List.replicate (r.len.toNat - r.data.length) 0), 0))

/-- The 64-bit word at an address. -/
def State.word64 (s : State) (p : PartIx) (a : Nat) : BitVec 64 := BitVec.ofNat 64 (leNat (s.readV p a 8))

/-- FADD. -/
def execVc2Fadd (r : Vc2In) (s : State) : Host.Outcome State Fault Refusal :=
  done (s.target r fun s p => s.atMostOnce p r 3 8 fun s =>
    let old := s.word64 p r.raddr.toNat
    (s.writeV p r.raddr.toNat (leBytes 8 (old + r.operand1).toNat), old))

/-- CAS. -/
def execVc2Cas (r : Vc2In) (s : State) : Host.Outcome State Fault Refusal :=
  done (s.target r fun s p => s.atMostOnce p r 4 8 fun s =>
    let old := s.word64 p r.raddr.toNat
    (if old = r.operand1 then s.writeV p r.raddr.toNat (leBytes 8 r.operand2.toNat) else s, old))

/-- QUERY: APPLIED with the recorded outcome; STALE while cold or below what the record can tell; else NOT_SEEN. -/
def execVc2Query (r : Vc2In) (s : State) : Host.Outcome State Fault Refusal :=
  done (s.target r fun s p =>
    let v := (s.part p).vc2
    match v.recorded r.src r.opid with
    | some d => (s, ⟨6, d.result, d.status.toNat, []⟩)
    | none => if (v.first r.src).isNone ∨ v.stale r.src r.opid then (s, .of 3) else (s, .of 7))

/-! Responses (R237) -/

/-- A response completes its request; one that comes after its request has completed is discarded. -/
def execVc2Response (p : PartIx) (r : Vc2Out) (s : State) : Host.Outcome State Fault Refusal :=
  match (s.part p).vc2.out.find? fun q => q.txid == r.txid with
  | none => done s
  | some q =>
    if mqOp q.entry = 1 ∧ r.status = 0 then
      let a := mqLaddr q.entry
      let n := mqLen q.entry
      let s := s.swapsProgress p a
      match s.partDamage p a n with
      | some g => done ((s.metError p g .vc2).endVc2 p r.txid 9 0 0)
      | none => done ((s.writeV p a (r.data.take n)).endVc2 p r.txid 0 r.result.toNat 0)
    else done (s.endVc2 p r.txid r.status.toNat r.result.toNat r.rstatus.toNat)

/-- No response within VC2_TIMEOUT of the first sending: LINK_LOST. -/
def execVc2Timeout (p : PartIx) (txid : BitVec 12) (s : State) : Host.Outcome State Fault Refusal :=
  match (s.part p).vc2.out.find? fun q => q.txid == txid with
  | some q =>
    match q.sentAt with
    | some t => done ((s.passTo (65536 * (t.toNat + 1000 * s.num 0x3400 0xC))).endVc2 p txid 1 0 0)
    | none => done s
  | none => done s

end Sys2Proof.Machine
end

