-- ==== Sys2Proof/Machine/Values.lean ====
section
/-!
DEFINITION. Values of objects as a READ returns them (the object tables of all chapters), records of images (Table 14-7), the attestation
report (Table 14-10, R344), and the diagnostic layouts (Table 12-16).
-/

namespace Sys2Proof.Machine

/-! Identity and part -/

/-- Bytes of a part number string (0x1008.01). -/
def PartNo.name : PartNo → Bytes
  | .x192 => [0x43, 0x4C, 0x52, 0x2D, 0x4B, 0x52, 0x47, 0x2D, 0x31, 0x39, 0x32, 0x58]
  | .l192 => [0x43, 0x4C, 0x52, 0x2D, 0x4B, 0x52, 0x47, 0x2D, 0x31, 0x39, 0x32, 0x4C]
  | .s096 => [0x43, 0x4C, 0x52, 0x2D, 0x4B, 0x52, 0x47, 0x2D, 0x30, 0x39, 0x36, 0x53]

/-- A byte string of fixed length, filled with zeros. -/
def padTo (n : Nat) (b : Bytes) : Bytes := b.take n ++ List.replicate (n - b.length) 0

/-- SERIAL (0x1018.01). -/
def serialBytes : Bytes := leBytes 24 Config.serial.toNat

/-- ID_PUBLIC (R342). -/
def idPublic : Bytes := Config.mlDsaPublic identitySeed

/-- ID_ENDORSE (Table 14-9). -/
def State.endorse (s : State) : Bytes :=
  leBytes 4 0x4E454C43 ++ leBytes 2 1 ++ leBytes 2 Config.endorsement.1.toNat ++ serialBytes ++ padTo 16 s.partNo.name
    ++ leBytes 8 Config.endorsement.2.1.toNat ++ List.replicate 8 0 ++ idPublic ++ Config.endorsement.2.2

/-- A stepping (0x1010.01 to .03): 0 for the second tensor die of a part that has one. -/
def PartNo.stepping (n : PartNo) (i : Fin 3) : BitVec 8 := if i.val = 1 ∧ n.cols = 8 then 0 else Config.stepping i

/-- HARVEST_MAP (R141). -/
def PartNo.harvestMap (n : PartNo) : Bytes :=
  (List.finRange 192).flatMap fun v => if v.val % 16 < n.cols then leBytes 2 (harvestOf v).toNat else leBytes 2 0xFFFF

/-! Images (Table 14-7) -/

/-- The image of a bank. -/
def Banks.image (b : Banks) (bank : Bool) : Option Image := if bank then b.b else b.a

/-- The banks of a KIND from 1 to 6. -/
def State.fwBanks (s : State) (k : Nat) : Option Banks := s.fw.banks.toList[k - 1]?

/-- The active image of a KIND present on the part. -/
def State.activeImage (s : State) (k : Nat) : Option Image :=
  if s.partNo.kind k then (s.fwBanks k).bind fun b => b.image b.active else none

/-- A 16-byte record of FW_ACTIVE for the image in a bank. -/
def State.imageRecord (s : State) (k : Nat) (bank : Bool) : Bytes :=
  match s.fwBanks k with
  | none => List.replicate 16 0
  | some b =>
    match if s.partNo.kind k then b.image bank else none with
    | none => List.replicate 16 0
    | some i => leBytes 16 (packFields [(8, i.kind.toNat), (8, i.vmaj.toNat), (8, i.vmin.toNat), (16, i.vpatch.toNat), (6, i.svn.toNat), (2, 0),
        (1, bank.toNat), (15, 0), (32, b.gen.toNat), (32, 0)])

/-- FW_ACTIVE, or FW_FALLBACK. -/
def State.imageRecords (s : State) (fallback : Bool) : Bytes :=
  [1, 2, 3, 4, 5, 6].flatMap fun k => match s.fwBanks k with
    | some b => s.imageRecord k (b.active != fallback)
    | none => []

/-- CRATE_STATE (Table 14-8). -/
def Crate.word (c : Crate) : BitVec 64 :=
  BitVec.ofNat 64 (packFields [(4, c.state.toNat), (4, c.kind.toNat), (8, c.result.toNat), (16, c.detail.toNat), (32, c.data.length)])

/-! Measurements (R344) -/

/-- A staged object as a measurement takes it. -/
def State.measured (s : State) (i sub : Nat) : Bytes :=
  match objDef i sub with
  | some d =>
    if d.staged then
      let v := s.obj i sub
      leBytes 2 i ++ leBytes 1 sub ++ leBytes 4 v.length ++ v
    else []
  | none => []

/-- CFG_PART. -/
def State.cfgPart (s : State) (p : PartIx) : BitVec 512 :=
  Config.sha3_512 ((List.range 256).flatMap fun sub => s.measured (0x2000 + p.val) sub)

/-- Indices of CFG_MOD; ports that the part number lacks are left out. -/
def PartNo.cfgIndices (n : PartNo) : List Nat :=
  [0x1050, 0x1060] ++ (List.range n.ports).map (0x3000 + ·) ++ [0x3400, 0x4000, 0x5000, 0x6010, 0x6011, 0x8000, 0x9000, 0x9010]

/-- CFG_MOD. -/
def State.cfgMod (s : State) : BitVec 512 :=
  Config.sha3_512 (s.partNo.cfgIndices.flatMap fun i => (List.range 256).flatMap fun sub => s.measured i sub)

/-- KEY_STATE (0x2000+p.14). -/
def Keys.word (k : Keys) : BitVec 64 :=
  BitVec.ofNat 64 (packFields [(1, k.linkKey[0].isSome.toNat), (1, k.linkKey[1].isSome.toNat), (1, k.linkActive.toNat), (1, k.ideSet[0].isSome.toNat),
    (1, k.ideSet[1].isSome.toNat), (1, k.ideActive.toNat), (26, 0), (32, k.serial.toNat)])

/-- PART_KEM. -/
def Keys.kemKey (k : Keys) : Bytes := match k.kem with
  | some d => Config.mlKemEk d
  | none => []

/-- The attestation report of a request (Table 14-10). DEDUCED (log 39): byte 1 of the reserved part is record byte 13. -/
def State.attest (s : State) (scope : Nat) (nonce : Bytes) : Bytes :=
  let p : PartIx := ⟨scope % 16, Nat.mod_lt _ (by decide)⟩
  let x := s.part p
  let image (k : Nat) : Bytes :=
    if s.partNo.kind k then
      match s.fwBanks k with
      | some b => s.imageRecord k b.active ++ (match b.image b.active with
        | some i => leBytes 64 i.digest.toNat
        | none => List.replicate 64 0)
      | none => List.replicate 80 0
    else List.replicate 13 0 ++ [1] ++ List.replicate 66 0
  let plan (q : Option PlanRec) : Bytes := match q with
    | some pl => leBytes 64 pl.digest.toNat
    | none => List.replicate 64 0
  let head := leBytes 4 0x54414C43 ++ leBytes 2 1 ++ leBytes 1 scope ++ [0] ++ nonce ++ leBytes 8 s.heelNow.toNat ++ leBytes 8 s.ns.toNat
    ++ leBytes 4 s.fw.bootCount.toNat ++ List.replicate 4 0 ++ leBytes 8 s.partNo.features.toNat
    ++ [s.partNo.stepping 0, s.partNo.stepping 1, s.partNo.stepping 2] ++ [1] ++ leBytes 4 0x4B520001 ++ serialBytes
    ++ padTo 16 s.partNo.name ++ List.replicate 8 0 ++ leBytes 64 Config.romDigest.toNat ++ [1, 2, 3, 4, 5, 6].flatMap image
    ++ leBytes 64 s.cfgMod.toNat ++ leBytes 64 ctDigest.toNat
  let body := if scope / 16 % 2 = 0 then head
    else head ++ [BitVec.ofNat 8 p.val, x.partState, x.jobState, 0] ++ leBytes 4 x.loadStatus.toNat ++ leBytes 8 x.stepCommitted.toNat
      ++ leBytes 64 (s.cfgPart p).toNat ++ plan x.runPlan ++ plan x.loadedPlan ++ padTo 1568 x.keys.kemKey
  body ++ Config.mlDsaSign identitySeed (leBytes 64 (Config.sha3_512 body).toNat) "CLR ATTEST"

/-! Diagnostics (R309, Table 12-16) -/

/-- The record of a tracked register in space 10. -/
def Reg.diag {α : Type} (r : Reg α) : Bytes := leBytes 8 (r.land.toNat + 2 ^ 32 * r.live.toNat)

/-- A weight buffer in space 5. -/
def Wb.diag (b : Wb) : Bytes :=
  match b.tag with
  | none => 0xFF :: List.replicate 16895 0
  | some t =>
    let f := fmtD t
    let w := if f.isPalette then 16 else f.bits
    leBytes 1 t.toNat ++ List.replicate 255 0 ++ leBytes 16384 (packNat w ((List.range 8192).map fun i => elemOf b.w 16 i))
      ++ bytesOf (if f.isMx then b.scale else 0)

/-- A queue in space 9. -/
def Queue.diag (q : Queue) : Bytes :=
  leBytes 4 q.landed.length ++ q.landed.flatMap fun e =>
    bytesOf e.data ++ leBytes 2 (e.tally.toNat + 64 * e.inc.toNat) ++ leBytes 4 e.land.toNat ++ [0, 0]

/-- The layout of an item of a space; none where the space has no such item. -/
def Cell.diag (c : Cell) (space item : Nat) : Option Bytes :=
  match space with
  | 0 => c.v.toList[item]?.map fun r => bytesOf r.val
  | 1 => c.s.toList[item]?.map fun r => leBytes 8 r.val.toNat
  | 2 => c.p.toList[item]?.map fun r => leBytes 8 r.val.toNat
  | 3 => c.m.toList[item]?.map fun r => leBytes 8 r.val.toNat
  | 4 => c.a.toList[item]?.map fun r => leBytes 32768 r.val.toNat
  | 5 => c.wb.toList[item]?.map fun r => Wb.diag r.val
  | 6 => c.pal.toList[item]?.map fun r => leBytes 32 r.val.toNat
  | 7 => if item = 0 then some (c.tally.toList.flatMap fun t => leBytes 2 t.toNat) else none
  | 9 => [c.qn, c.qe, c.qs, c.qw][item]?.map Queue.diag
  | 10 => if item = 0 then some (c.a.toList.flatMap Reg.diag ++ c.wb.toList.flatMap Reg.diag ++ c.pal.toList.flatMap Reg.diag
      ++ c.v.toList.flatMap Reg.diag ++ c.m.toList.flatMap Reg.diag ++ c.p.toList.flatMap Reg.diag ++ c.s.toList.flatMap Reg.diag) else none
  | _ => none

/-- Bytes of the cell store from an offset on. DEDUCED (log 42): a granule whose WRITTEN bit is 0 shows the zeros that a load of it returns
(R39), not what an earlier step left. -/
def Cell.storeDiag (c : Cell) (off n : Nat) : Bytes :=
  (((List.range (n / 256 + 2)).flatMap fun i => bytesOf (c.loadG (BitVec.ofNat 14 (off / 256 + i)))).drop (off % 256)).take n

/-- The diagnostic selection of a session. DEDUCED (log 102): a tenant has one of its own partition, which no other tenant changes (R285). -/
def State.diagOf (s : State) (x : Session) : BitVec 64 := if x.role = roleT then (s.part x.part).diagSel else s.diagSel

/-- Partition that a selection names. -/
def selPart (sel : BitVec 64) : PartIx := ⟨sel.toNat % 16, Nat.mod_lt _ (by decide)⟩

/-- DIAG_DATA: up to `len` bytes of a selection. -/
def State.diagData (s : State) (w : BitVec 64) (len : Nat) : Status × Bytes :=
  let sel := w.toNat
  let p : PartIx := ⟨sel % 16, Nat.mod_lt _ (by decide)⟩
  let cell := sel / 16 % 256
  let space := sel / 4096 % 16
  let item := sel / 65536 % 65536
  let off := sel / 2 ^ 32
  let x := s.part p
  let n := min len 4096
  if h : cell / 16 < 12 then
    let c : CellRef := ⟨⟨cell / 16, h⟩, ⟨cell % 16, Nat.mod_lt _ (by decide)⟩⟩
    if x.frozen = none ∨ x.diagLost then (stNotFrozen, [])
    else if !s.ownsCol p c.col.val then (stRange, [])
    else if space = 8 then
      if item ≠ 0 then (stRange, []) else (stOk, (s.cell c).storeDiag off (min n (4194304 - off)))
    else match (s.cell c).diag space item with
      | none => (stRange, [])
      | some b => (stOk, (b.drop off).take n)
  else if x.frozen = none ∨ x.diagLost then (stNotFrozen, [])
  else (stRange, [])

/-! Values -/

/-- Bytes of a scrub still to be written at a time. DESIGN CHOICE (log 40): each tier's frames are written at an even rate over the whole
time that Table 11-7 allows it, as in Example 11-1. -/
def ScrubJob.left (j : ScrubJob) (now : BitVec 64) : Nat :=
  let t := (now - j.since).toNat
  let part (frames span : Nat) : Nat := frames - frames * min t span / span
  2097152 * (part j.hbm 31300000 + part j.lpddr 630000000)

/-- Objects of a partition that are not staged. -/
def State.partValue (s : State) (p : PartIx) (sub : Nat) : Bytes :=
  let x := s.part p
  let k := x.kennel
  match sub with
  | 0x02 => leBytes 1 x.partState.toNat
  | 0x05 => leBytes 8 (x.scrubs.foldl (fun a j => a + j.left s.ns) 0)
  | 0x10 => x.keys.kemKey
  | 0x14 => leBytes 8 x.keys.word.toNat
  | 0x15 => leBytes 4 x.keys.lpGen.toNat
  | 0x20 => leBytes 8 x.holdStep.toNat
  | 0x21 => leBytes 8 x.holdItem.toNat
  | 0x22 => leBytes 8 x.holdGov.toNat
  | 0x23 => leBytes 8 x.holdLast.toNat
  | 0x24 => leBytes 8 x.holdTotal.toNat
  | 0x32 => leBytes 4 x.loadStatus.toNat
  | 0x33 => leBytes 8 x.loadWhere.toNat
  | 0x49 => leBytes 2 k.kenSel.toNat
  | 0x4A => leBytes 64 (s.entry p k.kenSel.toNat).toNat
  | 0x4B => leBytes 8 k.missCount.toNat
  | 0x4C => leBytes 8 k.poolShort.toNat
  | 0x4D => leBytes 8 k.noReport.toNat
  | 0x4F => leBytes 8 k.doorbellBad.toNat
  | 0x51 =>
    let n := (s.colsOf p).length
    leBytes 8 (9168 * n + 2 ^ 32 * (n * s.partNo.lpShare * 5760))
  | 0x52 => leBytes 2 (x.slotState[0].toNat + 16 * x.slotState[1].toNat)
  | 0x56 => leBytes 8 x.wloadStatus.toNat ++ x.wloadModel
  | 0x59 => leBytes 8 x.mirrorStep.toNat
  | 0x5A => leBytes 1 x.mirrorState.toNat
  | 0x64 => leBytes 2 (s.vc2Limit p)
  | 0x73 => leBytes 8 x.stepNow.toNat
  | 0x74 => leBytes 8 x.stepCommitted.toNat
  | 0x78 => leBytes 1 x.jobState.toNat
  | 0x79 => leBytes 8 x.stopInfo.toNat
  | 0x7C => leBytes 8 x.barIgnored.toNat
  | 0x7D => leBytes 8 x.barLate.toNat
  | _ => s.pobj p sub

/-- Objects of a port that are not staged (Table 9-10). -/
def State.portValue (s : State) (n : PortIx) (sub : Nat) : Bytes :=
  let x := s.port n
  match sub with
  | 0x02 => leBytes 1 x.state.toNat
  | 0x03 => leBytes 1 x.cause.toNat
  | 0x04 => leBytes 4 x.downCount.toNat
  | 0x05 => leBytes 2 x.errNow
  | 0x06 => leBytes 8 x.uncorr.toNat
  | 0x07 => leBytes 8 x.corrected.toNat
  | 0x08 => leBytes 8 x.replayed.toNat
  | 0x09 => leBytes 8 x.spilledN.toNat
  | 0x0A => leBytes 4 x.leashed.toNat
  | 0x0B => leBytes 2 x.prbs.toNat
  | 0x0C => leBytes 4 x.rtt.toNat
  | 0x0D => leBytes 8 x.discarded.toNat
  | 0x0E => leBytes 8 x.noSpace.toNat
  | 0x0F => leBytes 8 x.tagFail.toNat
  | 0x11 => s.ownerDigest n
  | _ => s.obj (0x3000 + n.val) sub

/-- Objects of a session (Tables 12-8 and 12-12). -/
def Session.stagingValue (x : Session) (sub : Nat) : Bytes :=
  let g := x.staging.getD { Staging.opened with state := 0 }
  match sub with
  | 0x01 => leBytes 1 x.staging.isSome.toNat
  | 0x04 => leBytes 1 g.clock.toNat
  | 0x06 => leBytes 32 g.report.toNat
  | 0x07 => leBytes 1 g.state.toNat
  | 0x08 => leBytes 8 g.effect.toNat
  | 0x09 => leBytes 8 g.ht.toNat
  | _ => []

/-- STRAPS and PCIE_LINKS. -/
def State.straps (s : State) : Bytes :=
  leBytes 2 (s.pins.geo.toNat + 64 * s.pins.bifurN.toNat + 128 * s.pins.recoveryN.toNat)

/-- The current value of an object of no partition and no port. -/
def State.moduleValue (s : State) (x : Session) (i sub : Nat) : Bytes :=
  let view (w : BitVec 64) : Bytes := leBytes 8 (if x.role = roleT then s.view x.part w else w).toNat
  match i, sub with
  | 0x1008, 1 => s.partNo.name
  | 0x1010, 1 => leBytes 1 (s.partNo.stepping 0).toNat
  | 0x1010, 2 => leBytes 1 (s.partNo.stepping 1).toNat
  | 0x1010, 3 => leBytes 1 (s.partNo.stepping 2).toNat
  | 0x1018, 1 => serialBytes
  | 0x1030, 1 => leBytes 8 s.partNo.features.toNat
  | 0x1040, 1 => s.partNo.harvestMap
  | 0x1050, 0x10 => leBytes 1 s.sessions.length
  | 0x1050, 0x11 => leBytes 8 s.authFail.toNat
  | 0x1060, 1 => leBytes 6 (Config.mac 0).toNat
  | 0x1060, 2 => leBytes 6 (Config.mac 1).toNat
  | 0x1060, 0x20 => leBytes 1 x.notify.toNat
  | 0x1060, 0x21 => leBytes 8 s.noticeLost.toNat
  | 0x1100, _ => x.stagingValue sub
  | 0x4000, 3 => leBytes 1 s.partNo.lpShare
  | 0x4000, 0x10 => leBytes 8 s.corrected.toNat
  | 0x4000, 0x11 => leBytes 8 s.uncorrected.toNat
  | 0x5000, 4 => leBytes 2 s.partNo.bark
  | 0x6000, 1 => view s.faults.fsw
  | 0x6000, 2 => view s.faults.acked
  | 0x6000, 3 => view s.causes
  | 0x6002, 1 => leBytes 64 s.faults.firstError.toNat
  | 0x6003, _ => match s.parts.toList[sub - 1]? with
    | some y => leBytes 40 y.sf.toNat
    | none => []
  | 0x6004, 1 => s.faults.counts.toList.flatMap fun c => leBytes 4 c.toNat
  | 0x6011, 2 => leBytes 1 s.escLevel
  | 0x6011, 4 => leBytes 2 s.fencedMask
  | 0x7000, 0x01 => s.imageRecords false
  | 0x7000, 0x02 => s.imageRecords true
  | 0x7000, 0x03 => leBytes 8 s.fw.crate.word.toNat
  | 0x7000, 0x09 => leBytes 8 s.fw.actResult.toNat
  | 0x7000, 0x0A => leBytes 4 s.fw.bootCount.toNat
  | 0x7000, 0x0B => leBytes 1 s.start.stage.toNat
  | 0x7000, 0x0C => s.start.log.toList.flatMap fun t => leBytes 8 t.toNat
  | 0x7000, 0x0D => leBytes 1 s.start.cause.toNat
  | 0x7000, 0x10 => [0] ++ s.fw.svnFused.toList.flatMap (fun v => leBytes 1 v.toNat) ++ [0]
  | 0x7000, 0x12 => leBytes 1 s.fw.revoked.toNat
  | 0x7000, 0x20 => idPublic
  | 0x7000, 0x21 => s.endorse
  | 0x7000, 0x31 => x.report
  | 0x8000, 0x01 => leBytes 8 s.heelNow.toNat
  | 0x8000, 0x02 => leBytes 1 s.heel.state.toNat
  | 0x8000, 0x08 => leBytes 8 s.heel.offset.toNat
  | 0x8000, 0x09 => leBytes 1 s.heel.hops.toNat
  | 0x8000, 0x0C => leBytes 4 s.heel.epoch.toNat
  | 0x8000, 0x20 => leBytes 4 s.openReports.length
  | 0x8000, 0x23 => leBytes 1 s.selfVerdict.toNat
  | 0x8000, 0x24 => leBytes 8 s.selfTime.toNat
  | 0x9000, 0x03 => leBytes 4 s.power.now.toNat
  | 0x9000, 0x04 => leBytes 4 s.power.peak.toNat
  | 0x9000, 0x05 => leBytes 4 s.power.inputMv.toNat
  | 0x9000, 0x06 => leBytes 4 s.power.dips.toNat
  | 0x9000, 0x30 => s.straps
  | 0x9000, 0x31 => leBytes 4 (s.power.pcie[0].toNat + 256 * s.power.pcie[1].toNat)
  | 0xA000, 0x03 => leBytes 64 ctDigest.toNat
  | 0xF010, 0x01 => leBytes 8 (s.diagOf x).toNat
  | 0xF010, 0x03 => leBytes 4 (match (s.part (selPart (s.diagOf x))).frozen with
    | some f => f.cyc.toNat
    | none => 0)
  | 0xF020, 0x01 => leBytes 16 s.scentKey.toNat
  | 0xF020, 0x02 => leBytes 16 s.scentCtr.toNat
  | 0xF020, 0x03 =>
    let w := scent s.scentKey s.scentCtr
    leBytes 4 w.x0.toNat ++ leBytes 4 w.x1.toNat ++ leBytes 4 w.x2.toNat ++ leBytes 4 w.x3.toNat
  | 0x9000, _ =>
    if 0x10 ≤ sub ∧ sub ≤ 0x16 then (match s.power.temps.toList[sub - 0x10]? with
      | some t => leBytes 4 t.toNat
      | none => [])
    else s.obj i sub
  | _, _ => s.obj i sub

/-- The current value of an object. -/
def State.valueOf (s : State) (x : Session) (i sub : Nat) : Bytes :=
  match partOfIndex i, portOfIndex i with
  | some p, _ => s.partValue p sub
  | none, some n => s.portValue n sub
  | none, none => s.moduleValue x i sub

/-! The hot objects (R298, Table 12-7). No row of the table is a read of BAR0: `State.bar0Read` says what one returns. -/

/-- A mailbox's status word: DONE, OVERRUN, response length. -/
def Mailbox.word (m : Mailbox) : Nat := packFields [(1, m.done.toNat), (1, m.overrun.toNat), (14, 0), (16, m.rspLen.toNat)]

/-- The bytes of a mailbox's response buffer: the frame, then what the buffer held before, which the model reads as 0. -/
def Mailbox.buffer (m : Mailbox) : Bytes :=
  padTo 4096 (match m.rsp with
    | some f => frameHeader f ++ f.data ++ f.tag
    | none => [])

/-- What BAR0 of function `vf` of a link, or of its physical function, holds at an offset: a multiple of 8 for the 64-bit words. -/
def State.hotWord (s : State) (link : Fin 2) (vf : Option PartIx) (off : Nat) : Nat :=
  let box := s.mailboxes[match vf with
    | some p => (⟨2 + p.val, by omega⟩ : Fin 18)
    | none => ⟨link.val, by omega⟩]
  if off = 0x38 then s.heelNow.toNat
  else if off = 0x84 then box.word
  else if 0x2000 ≤ off ∧ off < 0x3000 then leNat ((box.buffer.drop (off - 0x2000)).take 8)
  else match vf with
    | some p =>
      let x := s.part p
      if off = 0x20 then x.stepNow.toNat
      else if off = 0x28 then x.stepCommitted.toNat
      else if off = 0x30 then (s.view p s.faults.fsw).toNat
      else if off = 0x40 then packFields [(8, x.jobState.toNat), (8, x.partState.toNat), (8, x.loadStatus.toNat), (8, s.heel.state.toNat)]
      else 0
    | none =>
      if off = 0x30 then s.faults.fsw.toNat
      else if off = 0x40 then packFields [(24, 0), (8, s.heel.state.toNat)]
      else 0

/-- A read of BAR0: none where no data answers it. A virtual function takes the request or does not (R276, R280, R356); the physical function
reads 0 before READY, but for the mailbox in Pup mode (R339, R349). -/
def State.bar0Read (s : State) (via : Tlp) (vf : Option PartIx) (off : Nat) : Option Nat :=
  match vf with
  | some p => if s.takes p via then some (s.hotWord via.link vf off) else none
  | none =>
    if !s.serves via.link then none
    else if s.isReady || (s.hasPhysical via.link && (off == 0x84 || (decide (0x2000 ≤ off) && decide (off < 0x3000)))) then
      some (s.hotWord via.link vf off)
    else some 0

end Sys2Proof.Machine
end

