-- ==== Sys2Proof/Machine/Bark.lean ====
section
/-!
DEFINITION. The Bark units (R174 to R178): the codecs and stages of Table 7-13, the work of a step (row BARK_WORK_DONE), and the host's accesses
to STREAMIO through BAR2.
-/

namespace Sys2Proof.Machine

/-! Codecs of ITU-T G.711. PRESUMED (log 71): laws and codes as that standard gives them. -/

/-- A sign and a magnitude as 16 bits. -/
def signed16 (neg : Bool) (m : Nat) : BitVec 16 := if neg then -BitVec.ofNat 16 m else BitVec.ofNat 16 m

/-- µ-law to 16-bit linear. -/
def ulawDecode (b : Byte) : BitVec 16 :=
  let u := (~~~b).toNat
  let t := (u % 16 * 8 + 132) * 2 ^ (u / 16 % 8)
  signed16 (u / 128 == 1) (t - 132)

/-- A-law to 16-bit linear. -/
def alawDecode (b : Byte) : BitVec 16 :=
  let a := (b ^^^ 0x55).toNat
  let g := a / 16 % 8
  let t := if g = 0 then a % 16 * 16 + 8 else (a % 16 * 16 + 264) * 2 ^ (g - 1)
  signed16 (a / 128 == 0) t

/-- Segment of a magnitude: how often it halves before it is below `top`, at most 8. -/
def g711Segment (top m : Nat) : Nat := ((List.range 8).find? fun k => decide (m < top * 2 ^ k)).getD 8

/-- 16-bit linear to µ-law. -/
def ulawEncode (x : BitVec 16) : Byte :=
  let v := x.toInt / 4
  let neg := decide (v < 0)
  let m := min v.natAbs 8159 + 33
  let g := g711Segment 64 m
  let code := if g = 8 then 127 else 16 * g + m / 2 ^ (g + 1) % 16
  BitVec.ofNat 8 code ^^^ (if neg then 0x7F else 0xFF)

/-- 16-bit linear to A-law. -/
def alawEncode (x : BitVec 16) : Byte :=
  let v := x.toInt / 8
  let neg := decide (v < 0)
  let m := if neg then (-v - 1).toNat else v.toNat
  let g := g711Segment 32 m
  let code := if g = 8 then 127 else 16 * g + (if g < 2 then m / 2 % 16 else m / 2 ^ g % 16)
  BitVec.ofNat 8 code ^^^ (if neg then 0x55 else 0xD5)

/-! Stages (Table 7-13) -/

/-- Samples of a 10 ms hop by rate code. -/
def hopSamples (rate : Nat) : Nat := if rate = 0 then 80 else if rate = 1 then 160 else if rate = 2 then 240 else 480

/-- Bytes of a sample by encoding code. -/
def sampleBytes (enc : Nat) : Nat := if enc = 0 then 2 else 1

/-- Bytes of a ring of 16,384 from sample `a` on. -/
def ringRead (ring : Bytes) (width a n : Nat) : Bytes :=
  (List.range (n * width)).map fun i => (ring[(a * width + i) % 16384]?).getD 0

/-- Decode: samples as 16-bit linear. -/
def barkDecode (enc : Nat) (bs : Bytes) : List (BitVec 16) :=
  match enc with
  | 1 => bs.map ulawDecode
  | 2 => bs.map alawDecode
  | _ => (List.range (bs.length / 2)).map fun i => BitVec.ofNat 16 (leNat ((bs.drop (2 * i)).take 2))

/-- Encode: rounded and saturated to 16 bits, then compressed if the encoding asks for it. -/
def barkEncode (enc : Nat) (v : Val) : Bytes :=
  let x : BitVec 16 := BitVec.ofNat 16 (encodeInt 16 v)
  match enc with
  | 1 => [ulawEncode x]
  | 2 => [alawEncode x]
  | _ => leBytes 2 x.toNat

/-! Features (R175): exact values in units of 2^-64, narrowed to the unit's word at each stage (log 17) -/

/-- 1 in those units. -/
def bkOne : Int := 2 ^ 64

/-- Sum of the series of arctan(1/d) from term `k`, whose power of 1/d is `t`. -/
def atanSum (d : Int) : Nat → Int → Int → Int
  | 0, _, _ => 0
  | n + 1, k, t => t / (2 * k + 1) - atanSum d n (k + 1) (t / (d * d))

/-- π: 16 arctan(1/5) - 4 arctan(1/239). -/
def bkPi : Int := 16 * atanSum 5 32 0 (bkOne / 5) - 4 * atanSum 239 32 0 (bkOne / 239)

/-- Sum of the series of the cosine from term `k`, for the square `x2`. -/
def cosSum (x2 : Int) : Nat → Int → Int → Int
  | 0, _, _ => 0
  | n + 1, k, t => t - cosSum x2 n (k + 1) (t * x2 / bkOne / ((2 * k + 1) * (2 * k + 2)))

/-- cos(2π a/b). -/
def bkCos (a b : Nat) : Int :=
  let x : Int := 2 * bkPi * (a % b : Nat) / (b : Nat)
  cosSum (x * x / bkOne) 32 0 bkOne

/-- sin(2π a/b). -/
def bkSin (a b : Nat) : Int := bkCos (4 * a + 3 * b) (4 * b)

/-- Sample `i` of a frame under the Hann window. -/
def barkWindow (aud : Nat) (frame : List (BitVec 16)) (i : Nat) : Int :=
  let x : Int := ((frame[i]?).getD 0).toInt
  Config.barkNarrow aud 0 (x * ((bkOne - bkCos i (if Config.barkPeriodic aud then 400 else 399)) / 2) / 2 ^ Config.barkShift aud)

/-- Power of bin `k` of the 512-point transform of 400 windowed samples and zeros. -/
def barkPower (aud : Nat) (ws : List Int) (k : Nat) : Int :=
  let sum (f : Nat → Nat → Int) : Int := ws.zipIdx.foldl (fun a w => a + w.1 * f (w.2 * k) 512 / bkOne) 0
  let re := Config.barkNarrow aud 1 (sum bkCos)
  let im := Config.barkNarrow aud 2 (-sum bkSin)
  Config.barkNarrow aud 3 ((re * re + im * im) / bkOne)

/-- Corner `i` of the mel filters: 0, then 80 between, then 8 kHz. -/
def melCorner (aud i : Nat) : Int := if i = 0 then 0 else if i = 81 then 8000 * 65536 else Config.barkCorner aud i

/-- Weight of triangular filter `i` at bin `k`, which lies at k/512 of 16 kHz. -/
def melWeight (aud i k : Nat) : Int :=
  let f : Int := k * 16000 * 65536 / 512
  let a := melCorner aud i
  let b := melCorner aud (i + 1)
  let c := melCorner aud (i + 2)
  if f ≤ a ∨ c ≤ f then 0 else if f < b then bkOne * (f - a) / (b - a) else bkOne * (c - f) / (c - b)

/-- Natural log of a positive value. -/
def bkLog (x : Nat) : Int :=
  let l := lnParts x (-64)
  let m : Int := l.2 / 2 ^ (trP - 64)
  if l.1 then -m else m

/-- The 80 features of a frame: the natural log of each filter's sum, floored at 2^-40, as BF16. -/
def barkFeatures (aud : Nat) (frame : List (BitVec 16)) : List (BitVec 16) :=
  let ws := (List.range 400).map (barkWindow aud frame)
  let ps := (List.range 257).map (barkPower aud ws)
  (List.range 80).map fun i =>
    let sum := Config.barkNarrow aud 4 (ps.zipIdx.foldl (fun a p => a + p.1 * melWeight aud i p.2 / bkOne) 0)
    let l := Config.barkNarrow aud 5 (bkLog (max (2 ^ 24) sum).toNat)
    BitVec.ofNat 16 (bf16.encode (.fin (decide (l < 0)) l.natAbs (-64)) false)

/-- One hop of input: its 160 samples at 16 kHz complete a frame of 400, of which the 80 features are written; the next state. -/
def barkHop (aud rate : Nat) (b : BarkStream) (xs : List (BitVec 16)) : Bytes × BarkStream :=
  let ys := (List.range 160).map fun i => Config.barkDown aud rate b.inSt xs i
  let frame := b.past ++ ys
  ((barkFeatures aud frame).flatMap fun v => leBytes 2 v.toNat,
    { b with inSt := Config.barkDownState aud rate b.inSt xs, past := frame.drop (frame.length - 240) })

/-- One frame of output: its first half completes the frame before it; the 240 samples go to the output rate. -/
def barkFrame (aud rate enc : Nat) (b : BarkStream) (frame : Bytes) : List Bytes × BarkStream :=
  let v (i : Nat) : Val := b16 (BitVec.ofNat 16 (leNat ((frame.drop (2 * i)).take 2)))
  let sum := (List.range 240).map fun i => match b.tail[i]? with
    | some t => t.add (v i)
    | none => v i
  ((List.range (hopSamples rate)).map fun i => barkEncode enc (Config.barkUp aud rate b.outSt sum i),
    { b with outSt := Config.barkUpState aud rate b.outSt sum, tail := (List.range 240).map fun i => v (240 + i) })

/-! Work of a step (R176) -/

/-- Major version of the AUD interface that the BARK image offers (R175). -/
def State.audMajor (s : State) : Nat :=
  match s.activeImage 5 with
  | some i => (i.ifs.filter fun e => !e.needs && e.ifid == 4).foldl (fun a e => max a e.maj.toNat) 0
  | none => 0

/-- A 64-bit counter of a stream block, which never moves backwards (R261). -/
def State.bump (s : State) (p : PartIx) (a v : Nat) : State :=
  if leNat (s.readV p a 8) < v then s.writeP p a (leBytes 8 v) .vc2 else s

/-- Input of a stream: every whole hop up to IN_WR becomes a feature frame. -/
def State.barkInput (s : State) (p : PartIx) (b : BarkStream) : State × BarkStream :=
  let cfg := (eBarkCfg (s.entry p b.entry.toNat)).toNat
  let blk := s.block p b.entry.toNat
  let hop := hopSamples (cfg % 16)
  let width := sampleBytes (cfg / 16 % 16)
  let hops := (b.inWr.toNat - b.inDone.toNat) / hop
  let r := (List.range hops).foldl (fun (r : State × BarkStream) _ =>
    let xs := barkDecode (cfg / 16 % 16) (ringRead (r.1.readV p (blk + 0x8000) 16384) width r.2.inDone.toNat hop)
    let h := barkHop s.audMajor (cfg % 16) r.2 xs
    (r.1.writeP p (blk + 0x2000 + r.2.featWr.toNat % 32 * 160) h.1 .vc2,
      { h.2 with inDone := h.2.inDone + BitVec.ofNat 64 hop, featWr := h.2.featWr + 1 })) (s, b)
  (r.1.bump p (blk + 0x1020) r.2.featWr.toNat, r.2)

/-- One output sample goes to the ring, or is dropped and counted where the ring is full. -/
def State.barkSample (p : PartIx) (blk width : Nat) (r : State × BarkStream) (d : Bytes) : State × BarkStream :=
  let used := r.2.outWr.toNat - leNat (r.1.readV p (blk + 0x1018) 8)
  if used < 16384 / width then
    (r.1.writeP p (blk + 0xC000 + r.2.outWr.toNat * width % 16384) d .vc2, { r.2 with outWr := r.2.outWr + 1 })
  else (r.1, { r.2 with dropped := r.2.dropped + 1 })

/-- Output of a stream that ran in step n: its frames, overlap-added at 240 times their index. -/
def State.barkOutput (s : State) (p : PartIx) (b : BarkStream) (n : Nat) : State × BarkStream :=
  if !b.outDue then (s, b)
  else
    let cfg := (eBarkCfg (s.entry p b.entry.toNat)).toNat
    let blk := s.block p b.entry.toNat
    let enc := cfg / 4096
    let k := match (s.part p).runPlan with
      | some pl => pl.period.toNat / 10000
      | none => 0
    let r := (List.range k).foldl (fun (r : State × BarkStream) i =>
      let f := barkFrame s.audMajor (cfg / 256 % 16) enc r.2 (r.1.readV p (blk + 0x4000 + 4096 * (n % 2) + 960 * i) 960)
      f.1.foldl (State.barkSample p blk (sampleBytes enc)) (r.1, f.2)) (s, b)
    (r.1.bump p (blk + 0x1010) r.2.outWr.toNat, r.2)

/-! The host's accesses to STREAMIO (R174) -/

/-- What the host reads through BAR2 of a virtual function: zeros beyond the region; none where the function does not take the request, which
before READY it never does (R276, R280, R349, R356). -/
def State.bar2Read (s : State) (p : PartIx) (via : Tlp) (o n : Nat) : Option Bytes :=
  let r := s.region p 8
  if s.takes p via then some (s.readV p (r.addr + o) (min n (r.size - o)) ++ List.replicate (n - min n (r.size - o)) 0) else none

/-- The effect of a write of the host through BAR2: what lies beyond the region is ignored (R356). -/
def State.bar2Write (s : State) (p : PartIx) (w : StreamWrite) : State :=
  let r := s.region p 8
  s.writeP p (r.addr + w.offset.toNat) (w.data.take (r.size - w.offset.toNat)) .vc2

/-- A Bark unit's work of a step is done, with what the host has written to the partition's STREAMIO since the last such row. DESIGN CHOICE (log 17): unit u serves the entries of parity u. DESIGN CHOICE (log 72): host writes reach memory with this row. -/
def execBarkWorkDone (p : PartIx) (work : BarkWork) (s : State) : Host.Outcome State Fault Refusal :=
  let unit := work.unit
  let s := work.host.foldl (fun s w => s.hostTakes p w.via (s.bar2Write p w)) s
  let x := s.part p
  if !(s.barkUnits p).contains unit ∨ !x.running ∨ x.kennel.barkDone.getLsbD unit.val ∨ s.faults.persist.getLsbD (40 + unit.val) then done s
  else
    let n := (x.stepNow - 1).toNat
    let r := x.kennel.bark.foldl (fun (r : State × List BarkStream) b =>
      let w := r.1.entry p b.entry.toNat
      if b.entry.toNat % 2 = unit.val ∧ eBark w ∧ eLive w ∧ !eMuz w then
        let a := r.1.barkInput p b
        let c := a.1.barkOutput p a.2 n
        (c.1, r.2 ++ [c.2])
      else (r.1, r.2 ++ [b])) (s, [])
    done (r.1.modKen p fun k => { k with bark := r.2, barkDone := k.barkDone ||| BitVec.twoPow 2 unit.val })

end Sys2Proof.Machine
end

