-- ==== Sys2Proof/Machine/Cycle.lean ====
section
/-!
DEFINITION. The cells of a partition as one unit: the phases of a cell cycle over all its cells (R146, R147, R368), holds (R15 to R17, R35,
R127), staging (R123), arrivals of lines and fills (R40, R43), completions (R32), the governor (R19). Rows 0 to 2, 50 to 53, 62, 63.
-/

namespace Sys2Proof.Machine

/-- What the cells of a partition see of the step (Table 5-11, R131). -/
def State.ctx (s : State) (p : PartIx) : StepCtx :=
  let x := s.part p
  let pl := x.runPlan
  { part := p
    cols := BitVec.ofNat 16 (s.pnum p 1)
    plan := match pl with | some q => q.scentId | none => 0
    step := x.stepNow, variant := x.variant, releaseHt := x.releaseHt
    slots := x.hooks, seeds := x.kennel.seeds
    routes := match pl with | some q => q.routes | none => []
    map := s.regions p
    cyc := x.cyc, free := s.free }

/-- Run a function over every cell of a partition, gathering faults. -/
def State.overCells (s : State) (p : PartIx) (f : CellRef → Cell → Cell × List SchedFault) : State × List SchedFault :=
  (s.cellsOf p).foldl (fun r c => let q := f c (r.1.cell c); (r.1.setCell c q.1, r.2 ++ q.2)) (s, [])

/-! Phases 1 to 3 -/

/-- DWRs whose completion this cycle applies (R122). -/
def State.endingWrites (s : State) (p : PartIx) : List Race :=
  (s.cellsOf p).flatMap fun c =>
    let k := s.cell c
    k.completions.filterMap fun i =>
      match k.txs[i] with
      | some t => if t.kind = .dwr ∧ t.legal then some ⟨c, t.serial, t.mem, 256 * t.g⟩ else none
      | none => none

/-- AUDIT_STOP freezes a step that is run again, before phase 4 of its cycle (R264). -/
def State.auditStop (s : State) (p : PartIx) : State :=
  let x := s.part p
  if x.jobState = 4 ∧ s.pnum p 0x7B ≠ 0xFFFFFFFF ∧ s.pnum p 0x7B = x.cyc.toNat then s.setPart p (x.freeze .audit) else s

/-- Phase 3 over all cells: a hold, which changes no tally and asks for the missing lines; or static misses, beside which
every due wait that is met takes effect (R368); or every due wait met. -/
def State.phase3 (s : State) (p : PartIx) : State :=
  let x := s.part p
  let evs := (s.cellsOf p).map fun c => (c, (s.cell c).phase3 c x.cyc)
  let causes := evs.flatMap fun e => e.2.causes
  if !causes.isEmpty then
    let s := evs.foldl (fun s e => s.modCell e.1 fun k => k.requestMisses x.cyc e.2.cell) s
    s.modPart p fun x => { x with hold := some ⟨causes, match x.hold with | some h => h.len | none => 0⟩ }
  else
    let faults := evs.flatMap fun e => e.2.faults
    let s := evs.foldl (fun s e => s.setCell e.1 e.2.cell) s
    if !faults.isEmpty then s.schedule p faults
    else
      (s.modPart p fun x => { x with front := true, hold := none }).auditStop p

/-- Phases 1 to 3 of the current cycle, each over all cells; a fault ends the cycle at the end of its phase (R368). -/
def State.front (s : State) (p : PartIx) : State :=
  let cyc := (s.part p).cyc
  let s := s.modPart p fun x => { x with doneWrites := x.doneWrites ++ s.endingWrites p }
  let r1 := s.overCells p fun _ c => c.phase1 cyc
  if !r1.2.isEmpty then r1.1.schedule p r1.2
  else
    let r2 := r1.1.overCells p fun _ c => c.phase2 cyc
    if !r2.2.isEmpty then r2.1.schedule p r2.2 else r2.1.phase3 p

/-! Races in memory (R122) -/

/-- Two byte ranges meet. -/
def bytesMeet (a : BitVec 64) (n : Nat) (b : BitVec 64) (m : Nat) : Bool :=
  decide (a.toNat < b.toNat + m ∧ b.toNat < a.toNat + n)

/-- Outstanding transactions of a kind in other cells. -/
def State.others (s : State) (p : PartIx) (c : CellRef) (k : TxKind) : List (CellRef × Fin 64 × Tx) :=
  ((s.cellsOf p).filter fun d => d != c).flatMap fun d =>
    (List.finRange 64).filterMap fun i =>
      match (s.cell d).txs[i] with
      | some t => if t.kind = k ∧ t.legal then some (d, i, t) else none
      | none => none

/-- A DRD gains a race: a write that meets its range. -/
def Tx.race (t : Tx) (w : Race) : Tx :=
  if bytesMeet t.mem (256 * t.g) w.mem w.bytes then { t with raced := t.raced ++ [w] } else t

/-- A transaction of a cell changed. -/
def Cell.setTx (k : Cell) (i : Fin 64) (t : Tx) : Cell := { k with txs := k.txs.set i (some t) }

/-- A new transaction of a cell: a DRD races with the DWRs of other cells that are outstanding or whose completion was applied at this CYC,
and a DWR with their outstanding DRDs (R122). -/
def State.noteRace (s : State) (p : PartIx) (c : CellRef) (i : Fin 64) (t : Tx) : State :=
  if !t.legal then s
  else if t.kind = .drd then
    let open_ := (s.others p c .dwr).map fun o => (⟨o.1, o.2.2.serial, o.2.2.mem, 256 * o.2.2.g⟩ : Race)
    let ended := (s.part p).doneWrites.filter fun w => w.cell != c
    s.modCell c fun k => k.setTx i ((ended ++ open_).foldl Tx.race t)
  else if t.kind = .dwr then
    (s.others p c .drd).foldl (fun s o =>
      s.modCell o.1 fun k => k.setTx o.2.1 (o.2.2.race ⟨c, t.serial, t.mem, 256 * t.g⟩)) s
  else s

/-- Seeds that a cell has drawn by their own entry since `before` join those of the step (R264). -/
def State.noteSeeds (s : State) (p : PartIx) (c : CellRef) (before : Cell) : State :=
  let new := (s.cell c).drawn.drop before.drawn.length
  if new.isEmpty then s
  else s.modPart p fun x => { x with images := x.images.map fun i =>
    if i.step = x.stepNow then { i with seedsUsed := i.seedsUsed ++ new.filter fun e => !i.seedsUsed.contains e } else i }

/-- Transactions that a cell has started since `before`. -/
def State.noteRaces (s : State) (p : PartIx) (c : CellRef) (before : Cell) : State :=
  (List.finRange 64).foldl (fun s i =>
    match (s.cell c).txs[i] with
    | some t => if before.txs[i].isNone then s.noteRace p c i t else s
    | none => s) s

/-! Phases 4 and 5 -/

/-- Outcome of phase 4 over all cells. -/
structure Issued where
  state : State
  faults : List SchedFault
  deriving DecidableEq, Repr

/-- Phase 4: every cell issues (R25, R45). -/
def State.issueCells (s : State) (p : PartIx) : Issued :=
  let x := s.ctx p
  (s.cellsOf p).foldl (fun r c =>
    let k := r.state.cell c
    let e := k.phase4 { x with free := r.state.free } c
    let s := { r.state.setCell c e.cell with free := e.free }
    ⟨(s.noteRaces p c k).noteSeeds p c k, r.faults ++ e.faults⟩) ⟨s, []⟩

/-- A push reaches the neighbour, if that is a cell of the same partition (R47). -/
def State.push (s : State) (p : PartIx) (o : PushOut) : State :=
  match CellRef.next o.entry.by_.cell o.dir with
  | some d => if s.ownsCol p d.col.val then s.modCell d fun k => k.receive o.dir.facing o.entry else s
  | none => s

/-- Phase 5 over all cells. -/
def State.banks (s : State) (p : PartIx) : State × List SchedFault :=
  let cyc := (s.part p).cyc
  let r := (s.cellsOf p).foldl (fun (r : State × List SchedFault × List PushOut) c =>
    let e := (r.1.cell c).phase5 cyc
    (r.1.setCell c e.cell, r.2.1 ++ e.faults, r.2.2 ++ e.out)) (s, [], [])
  (r.2.2.foldl (fun s o => s.push p o) r.1, r.2.1)

/-! Staging (R123): how many granules leave in a cell cycle is a free value -/

/-- A DWR granule waits behind an earlier DRD of its cell that overlaps it and has not arrived (R122). -/
def Cell.dwrWaits (c : Cell) (t : Tx) : Bool :=
  (c.txs.toList.filterMap id).any fun u =>
    u.kind == .drd && u.legal && decide (u.serial < t.serial) && bytesMeet u.mem (u.g * 256) t.mem (t.g * 256)
      && (List.range u.g).any fun j => !u.arrived.getLsbD j

/-- A DWR of cell `c` changes a granule: kept for the DRDs that race with it (R122). -/
def State.noteWrite (s : State) (p : PartIx) (c : CellRef) (t : Tx) (a : Nat) (d : Granule) : State :=
  s.modPart p fun x => { x with written := x.written ++ [⟨c, t.serial, a, granuleOf (s.readV p a 256), d⟩] }

/-- A DWR granule reaches a LOADING slot: bytes that the copy writes stay as the copy writes them, others are free (R192). -/
def State.loadingWrite (s : State) (p : PartIx) (i : Fin 2) (a : Nat) : State :=
  if s.copyWrote p i a then s
  else
    let d := s.draw 2048
    d.2.writeV p a (bytesOf d.1)

/-- A DWR granule of cell `c` reaches memory; the Muzzle of a cancelled stream discards it (R121, R170). -/
def State.dwrGranule (s : State) (p : PartIx) (c : CellRef) (t : Tx) (j : Nat) (d : Granule) : State :=
  let a := t.mem.toNat + 256 * j
  if !t.legal ∨ s.muzzledAt p a then s
  else
    let s := s.swapsProgress p a
    match s.loadingAt p a with
    | some i => s.loadingWrite p i a
    | none =>
    let s := s.noteWrite p c t a d
    let s := s.writeV p a (bytesOf d)
    if s.inRegion p rgKv a then
      let g : BitVec 64 := BitVec.ofNat 64 (65536 * (a / 65536))
      s.modPart p fun x => if x.changed.contains g then x else { x with changed := x.changed ++ [g] }
    else s

/-- A granule of a DSND has left the staging buffer: the flits of its message that are whole with it join the queue, sealed as one message
(R124, R210, R215). -/
def State.sendTransfer (s : State) (p : PartIx) (c : CellRef) (tx : Fin 64) (t : Tx) : State :=
  let data := ((s.cell c).outbox.filter fun g => g.tx == tx).flatMap fun g => bytesOf g.data
  let s := if t.drained = t.g then s.modCell c fun k => { k with outbox := k.outbox.filter fun g => g.tx != tx } else s
  match (s.ctx p).route c t.route with
  | none => s
  | some e =>
    if h : e.pport.toNat < 24 ∧ e.dport.toNat < 24 then
      let n : PortIx := ⟨e.pport.toNat, h.1⟩
      match s.ownerIx n p with
      | none => s
      | some _ =>
        let r := match t.sealed with
          | some r => (r, s)
          | none => s.sealNext p 0
        let m : Message := ⟨p, 0, n, ⟨e.dport.toNat, h.2⟩, some (e.slot0, e.slotCnt), e.farDev, e.farCell, e.tag, 256 * t.g, .dsnd c t.serial⟩
        let q := r.2.sendPart m r.1 data
        q.2.modCell c fun k => k.setTx tx { t with sealed := some q.1 }
    else s

/-- The oldest staged granule of a cell leaves, unless it waits. -/
def State.unstage (s : State) (p : PartIx) (c : CellRef) : State :=
  let k := s.cell c
  match k.staging with
  | [] => s
  | g :: gs =>
    match k.txs[g.tx] with
    | none => s.setCell c { k with staging := gs }
    | some t =>
      let t' := { t with drained := t.drained + 1 }
      let k' := { k with staging := gs, txs := k.txs.set g.tx (some t') }
      if t.kind = .dwr then
        if k.dwrWaits t then s else (s.setCell c k').dwrGranule p c t g.j g.data
      else
        (s.setCell c { k' with outbox := k'.outbox ++ [g] }).sendTransfer p c g.tx t'

/-- Granules leave the staging buffer of a cell. -/
def State.drainCell (s : State) (p : PartIx) (c : CellRef) : State :=
  let k := s.cell c
  if k.staging.isEmpty then s
  else
    let d := s.draw 7
    (List.range (min d.1.toNat k.staging.length)).foldl (fun s _ => s.unstage p c) d.2

def State.drain (s : State) (p : PartIx) : State := (s.cellsOf p).foldl (fun s c => s.drainCell p c) s

/-- Units of the receive pools whose VC0 data now stands in the cell store go back (R218). -/
def State.freeWritten (s : State) (p : PartIx) (c : CellRef) : State :=
  (List.finRange 64).foldl (fun s i =>
    match (s.cell c).txs[i] with
    | none => s
    | some t =>
      if t.kind ≠ .drcv then s
      else
        let tag := (s.ctx p).tag c t.route
        let stored (f : MsgFlit) : Bool :=
          let lo := max (236 * f.off.toNat) 16 - 16
          let hi := min (236 * f.off.toNat + f.data.length) (16 + 256 * t.g) - 16
          let n := if hi ≤ lo then t.g else (hi + 255) / 256
          (List.range n).all fun j => t.written.getLsbD j || (decide (lo < hi) && decide (j < lo / 256))
        let mine (m : RxMsg) : Bool := m.part == p && m.vc == 0 && m.whole && m.cell.toNat == c.ix.val && m.tag == tag && m.kth == t.kth
        match s.msgs.find? mine with
        | none => s
        | some m =>
          let now := m.flits.filter fun f => f.units != 0 && stored f
          let s := s.freeMsg 0 now
          { s with msgs := s.msgs.map fun q =>
              if mine q then { q with flits := q.flits.map fun f => if stored f then { f with units := 0 } else f } else q }) s

/-! Holds -/

/-- Time reaches the end of the cycles run and held since the release (log 2). -/
def State.passCycles (s : State) (p : PartIx) : State :=
  let x := s.part p
  s.passToHeel (x.startHt + BitVec.ofNat 64 ((655360 * (x.cyc.toNat + x.holdStep.toNat)) / 36))

/-- Cause code of a hold (Table 13-4, DETAIL2 [9:8]) and its tally. -/
def HoldWhy.code : HoldWhy → Nat × Nat
  | .wait t => (0, t.toNat)
  | .line => (1, 0)
  | .tx65 => (2, 0)
  | .staging => (3, 0)

/-- A cause comes first in the order of R49. -/
def HoldCause.before (a b : HoldCause) : Bool :=
  decide (a.cell.col.val < b.cell.col.val) || (a.cell.col == b.cell.col &&
    (decide (a.cell.row.val < b.cell.row.val) || (a.cell.row == b.cell.row && decide (a.eng.code ≤ b.eng.code))))

/-- The cause that a hold limit is charged to. -/
def chargedCause : List HoldCause → Option HoldCause
  | [] => none
  | c :: cs =>
    match chargedCause cs with
    | some d => some (if c.before d then c else d)
    | none => some c

/-- The oldest transaction outstanding in a cell. -/
def Cell.oldestTx (c : Cell) : Option Tx :=
  (c.txs.toList.filterMap id).foldl (fun a t => match a with
    | some u => if t.serial < u.serial then some t else a
    | none => some t) none

/-- ACCESS and ADDR of a transaction in FIRST_ERROR. -/
def Tx.errFields (t : Tx) : BitVec 4 × BitVec 64 :=
  match t.kind with
  | .drd => (1, t.mem)
  | .dwr => (2, t.mem)
  | .dsnd => (5, t.route.setWidth 64)
  | .drcv => (4, t.route.setWidth 64)

/-- A hold has lasted HOLD_LIMIT: the partition freezes, the column's bit latches with its first-error record, and a DRCV that is the oldest
transaction brings a report about its sender (R127, R269 cause 2). -/
def State.holdLimit (s : State) (p : PartIx) (h : HoldRec) : State :=
  match chargedCause h.causes with
  | none => s
  | some c =>
    let k := s.cell c.cell
    let f : BitVec 4 × BitVec 64 := match k.oldestTx with
      | some t => t.errFields
      | none => (0, 0)
    let d2 := packFields [(6, c.why.code.2), (2, c.eng.code.val), (2, c.why.code.1)]
    let s := s.modPart p fun x => x.freeze .holdLimit
    let s := s.event { ErrEvent.of (colBit c.cell.col) 0 f.1 (some p) (BitVec.ofNat 8 c.cell.ix.val) with
      addr := f.2, detail := c.pc, detail2 := BitVec.ofNat 32 d2 }
    match k.oldestTx with
    | some t =>
      if t.kind = .drcv then
        match (s.ctx p).route c.cell t.route with
        | some e => s.report p e.farDev 2 1
        | none => s
      else s
    | none => s

/-- HOLD_LIMIT in cycles. -/
def State.limitCycles (s : State) (p : PartIx) : Nat := 3600 * s.pnum p 0x25

/-- One held cycle: counters by cause (R16); fill ports and staging go on (R15). -/
def State.heldCycle (s : State) (p : PartIx) (gov : Bool) : State :=
  let x := s.part p
  let item := x.hold.isSome
  let b (c : Bool) : BitVec 64 := if c then 1 else 0
  let s := s.setPart p { x with
    holdStep := x.holdStep + 1, holdTotal := x.holdTotal + 1
    holdItem := x.holdItem + b item, holdGov := x.holdGov + b gov
    hold := x.hold.map fun h => { h with len := h.len + 1 } }
  let s := s.modCells p fun _ k => k.fillPorts []
  let s := (s.cellsOf p).foldl (fun s c => s.freeWritten p c) s
  let s := (s.drain p).passCycles p
  match (s.part p).hold with
  | some h => if s.limitCycles p ≤ h.len then s.holdLimit p h else s
  | none => s

/-- Completions are applied in a cycle that the governor holds, as in every cycle (R32). -/
def State.governed (s : State) (p : PartIx) : State :=
  let x := s.part p
  if x.hold.isSome then
    let s := s.front p
    (s.modPart p fun y => { y with front := false })
  else
    let s := s.modPart p fun x => { x with doneWrites := x.doneWrites ++ s.endingWrites p }
    let r := s.overCells p fun _ c => c.takeCompletions x.cyc
    if r.2.isEmpty then r.1 else r.1.schedule p r.2

/-- Phases 4 and 5 and the end of the cycle. -/
def State.back (s : State) (p : PartIx) : Host.Outcome State Fault Refusal :=
  let i := s.issueCells p
  let fs := (s.part p).pendFaults ++ i.faults
  let s := i.state.modPart p fun x => { x with pendFaults := [] }
  if !fs.isEmpty then done (s.schedule p fs)
  else
    let b := s.banks p
    let s := (s.cellsOf p).foldl (fun s c => s.freeWritten p c) b.1
    if !b.2.isEmpty then done (s.schedule p b.2)
    else
      let s := s.modPart p fun x => { x with cyc := x.cyc + 1, front := false, doneWrites := [] }
      done ((s.drain p).passCycles p)

/-- The partition's cells run: a step has been released and nothing has frozen them. -/
def Partition.runs (x : Partition) : Bool := x.running && x.frozen.isNone

/-- Every cell has arrived and the step waits for its Bark work (R176). -/
def State.barkWait (s : State) (p : PartIx) : Bool :=
  (s.cellsOf p).all (fun c => (s.cell c).arrived) && (s.barkUnits p).any fun b => !(s.ken p).barkDone.getLsbD b.val

/-- A cycle in which only Bark work is late: a hold with a late item (R16, R176). DESIGN CHOICE (log 97): HOLD_LIMIT does not end it, since no
column holds a wait or an instruction that R127 could charge. -/
def State.barkHeld (s : State) (p : PartIx) : State :=
  (s.modPart p fun x => { x with
    holdStep := x.holdStep + 1, holdItem := x.holdItem + 1, holdTotal := x.holdTotal + 1
    holdGov := if x.govHold then x.holdGov + 1 else x.holdGov }).passCycles p

/-- One cell cycle of a partition, run or held (R15, R35, R146). -/
def execCellCycle (p : PartIx) (s : State) : Host.Outcome State Fault Refusal :=
  let x := s.part p
  if !x.runs then done s
  else if s.barkWait p then done (s.barkHeld p)
  else if x.govHold ∧ !x.front then
    let s := s.governed p
    done (if (s.part p).runs then s.heldCycle p true else s)
  else
    let s := if x.front then s else s.front p
    let y := s.part p
    if !y.runs then done s
    else if y.hold.isSome then done (s.heldCycle p false)
    else s.back p

/-! Arrivals -/

/-- A line of an engine's code: its address in the half of region PLAN that the running plan occupies, how many of its bytes the record holds,
and its bytes, zeros beyond the record (R43). -/
def State.codeLine (s : State) (p : PartIx) (c : CellRef) (e : Eng) (line : BitVec 24) : Option (Nat × Nat × Bytes) :=
  match (s.part p).runPlan with
  | none => none
  | some pl =>
    match pl.code.find? fun r => r.vcell.toNat == c.ix.val && Eng.ofCode r.eng == e with
    | none => none
    | some r =>
      let rg := s.region p rgPlan
      let half := if pl.upper then rg.addr + 2097152 * (rg.pages / 2) else rg.addr
      let a := half + r.offset + 256 * line.toNat
      let n := min 256 (8 * r.ninst - 256 * line.toNat)
      some (a, n, s.readV p a n ++ List.replicate (256 - n) 0)

/-- A fetch is held for the line (R43). -/
def State.awaited (s : State) (p : PartIx) (c : CellRef) (e : Eng) (line : BitVec 24) : Bool :=
  match (s.part p).hold with
  | some h => h.causes.any fun k => k.cell == c && k.eng == e && (match k.why with | .line => k.pc.extractLsb' 8 24 == line | _ => false)
  | none => false

/-- A requested line arrives and replaces its index (R43, R133). An uncorrectable error in it freezes the partition (Table 8-14), if a fetch
waits for the line; a line that only an SPF has named raises no fault, and does not replace its index. -/
def execLineArrival (c : CellRef) (e : Eng) (line : BitVec 24) (s : State) : Host.Outcome State Fault Refusal :=
  match s.owner c.col with
  | none => done s
  | some p =>
    let k := s.cell c
    if !k.refills.contains ⟨e, line⟩ then done s
    else
      let s := s.setCell c { k with refills := k.refills.filter fun r => r != ⟨e, line⟩ }
      match s.codeLine p c e line with
      | none => done s
      | some (a, n, bs) =>
        match s.firstDamage p a n with
        | some g => done (if s.awaited p c e line then s.metError p g (.refill c e) else s.metSlot p g (.refill c e))
        | none =>
          done (s.modCell c fun k =>
            let g := k.eng e
            k.setEng e { g with icache := wr g.icache (line.extractLsb' 0 7) (some ⟨line.extractLsb' 7 17, granuleOf bs⟩) })

/-- What DWRs in a staging buffer hold for the granule at `a`, of those that a DRD races with and that no Muzzle covers. -/
def State.stagedFor (s : State) (p : PartIx) (t : Tx) (a : Nat) : List Granule :=
  if s.muzzledAt p a then []
  else t.raced.flatMap fun w =>
    let k := s.cell w.cell
    k.staging.filterMap fun g =>
      match k.txs[g.tx] with
      | some u => if u.kind = .dwr ∧ u.serial = w.serial ∧ u.mem.toNat + 256 * g.j = a then some g.data else none
      | none => none

/-- What a DRD may find in a granule that it races for: the bytes that it must observe, and of the racing writes, of which it may observe
any bytes, those that stand on them; `now` is what the last write left. -/
structure RaceView where
  base : Granule
  racing : List Granule
  now : Granule
  deriving DecidableEq, Repr

/-- Bytes that the DRD must observe: what came before stands no longer. -/
def RaceView.reset (g : Granule) : RaceView := ⟨g, [], g⟩

/-- The granule stands as `g` now: unless the last write left it so, something else than a DWR has written it. -/
def RaceView.atNow (v : RaceView) (g : Granule) : RaceView := if v.now = g then v else RaceView.reset g

/-- One more write of the granule, in the order in which they reached memory. -/
def RaceView.write (t : Tx) (v : RaceView) (w : Written) : RaceView :=
  if t.raced.any fun r => r.cell == w.cell && r.serial == w.serial then
    let v := v.atNow w.before
    { v with racing := v.racing ++ [w.data], now := w.data }
  else RaceView.reset w.data

/-- What a DRD delivers of a granule that it races for: of each racing write some bytes, which ones is free, over the bytes that it must
observe (R122). -/
def State.racedGranule (s : State) (p : PartIx) (t : Tx) (a : Nat) : Granule × State :=
  let now := granuleOf (s.readV p a 256)
  let ws := (s.part p).written.filter fun w => w.addr == a
  let first : Granule := match ws with
    | w :: _ => w.before
    | [] => now
  let v := (ws.foldl (RaceView.write t) (RaceView.reset first)).atNow now
  (v.racing ++ s.stagedFor p t a).foldl (fun r d =>
    let m := r.2.draw 256
    (mergeBytes m.1 r.1 d, m.2)) (v.base, s)

/-- The granule that memory delivers for a DRD, or nothing while an earlier DWR of its cell that overlaps it has not been applied
(R120, R122, Table 8-14): zeros for an illegal range or a damaged granule, a mixture for a granule that a write races for, a free value for
an illegal instruction (R9) and for a slot in LOADING state (R192). -/
def State.drdGranule (s : State) (p : PartIx) (c : CellRef) (tx : Fin 64) (t : Tx) (j : Nat) : Option (Granule × State) :=
  let a := t.mem.toNat + 256 * j
  let g : BitVec 64 := BitVec.ofNat 64 a
  let older := ((s.cell c).txs.toList.filterMap id).any fun u =>
    u.kind == .dwr && u.legal && decide (u.serial < t.serial) && bytesMeet u.mem (u.g * 256) g 256 && decide (u.drained < u.g)
  if !t.legal then some (0, s)
  else if older then none
  else if t.wild then some (s.draw 2048)
  else if (s.firstDamage p a 256).isSome then some (0, s.metError p a (.drd c tx))
  else if (s.loadingAt p a).isSome then some (s.draw 2048)
  else if t.raced.any fun w => bytesMeet w.mem w.bytes g 256 then some (s.racedGranule p t a)
  else some (granuleOf (s.readV p a 256), s)

/-- The granule that a received transfer delivers for a DRCV; a free value where the sizes of the two sides differ or the
DRCV is illegal (R9, R124, R148). -/
def State.drcvGranule (s : State) (p : PartIx) (c : CellRef) (t : Tx) (j : Nat) : Option (Granule × State) :=
  let tag := (s.ctx p).tag c t.route
  let mine := (s.part p).vc0In.filter fun g => g.1.toNat == c.ix.val && g.2.1 == tag && g.2.2.1 == t.kth
  match mine.find? fun g => g.2.2.2.1.toNat == j with
  | none => none
  | some g => if mine.length = t.g ∧ !t.wild then some (g.2.2.2.2, s) else some (s.draw 2048)

/-- Variable-latency data of a transaction reaches its cell (R40). -/
def execFillArrival (c : CellRef) (tx : Fin 64) (j : BitVec 12) (s : State) : Host.Outcome State Fault Refusal :=
  match s.owner c.col with
  | none => done s
  | some p =>
    match (s.cell c).txs[tx] with
    | none => done s
    | some t =>
      if t.g ≤ j.toNat ∨ t.arrived.getLsbD j.toNat then done s
      else
        let d := match t.kind with
          | .drd => s.drdGranule p c tx t j.toNat
          | .drcv => s.drcvGranule p c t j.toNat
          | _ => none
        match d with
        | none => done s
        | some r => done (r.2.modCell c fun k => k.arrive tx j r.1)

/-! Completions (R32, R121, R124) -/

/-- The completion of a transaction reaches its cell, once. -/
def State.complete (s : State) (c : CellRef) (tx : Fin 64) (t : Tx) : State :=
  s.modCell c fun k => { k with
    txs := k.txs.set tx (some { t with done := true })
    completions := k.completions ++ [tx] }

/-- Every granule of a transaction has been written to the cell store. -/
def Tx.allWritten (t : Tx) : Bool := (List.range t.g).all fun j => t.written.getLsbD j

/-- No flit of a DSND waits or is unacknowledged on any port; one that a detour carries on counts there (R231). -/
def State.acked (s : State) (c : CellRef) (serial : Nat) : Bool :=
  s.ports.toList.all fun x =>
    let mine (o : OutFlit) : Bool := o.from_ == .dsnd c serial
    !(x.q0.any mine) && !(x.qDetour.any mine) && !(x.qBulk.any mine) && !(x.replay.any fun r => !r.moved && mine r.out)

/-- A transaction of kind `k` in a cell that has not completed. -/
def State.openTx (s : State) (c : CellRef) (tx : Fin 64) (k : TxKind) : Option Tx :=
  match (s.cell c).txs[tx] with
  | some t => if t.kind = k ∧ !t.done then some t else none
  | none => none

def execDrdComplete (c : CellRef) (tx : Fin 64) (s : State) : Host.Outcome State Fault Refusal :=
  match s.openTx c tx .drd with
  | some t => done (if t.allWritten then s.complete c tx t else s)
  | none => done s

def execDwrComplete (c : CellRef) (tx : Fin 64) (s : State) : Host.Outcome State Fault Refusal :=
  match s.openTx c tx .dwr with
  | some t => done (if t.drained = t.g then s.complete c tx t else s)
  | none => done s

def execDsndComplete (c : CellRef) (tx : Fin 64) (s : State) : Host.Outcome State Fault Refusal :=
  match s.openTx c tx .dsnd with
  | some t => done (if t.drained = t.g ∧ s.acked c t.serial then s.complete c tx t else s)
  | none => done s

def execDrcvComplete (c : CellRef) (tx : Fin 64) (s : State) : Host.Outcome State Fault Refusal :=
  match s.openTx c tx .drcv with
  | some t => done (if t.allWritten then s.complete c tx t else s)
  | none => done s

/-! HOLD_LIMIT and the governor -/

/-- A hold with a late item has lasted HOLD_LIMIT: the cycles it lacked are counted, then it freezes the partition (R127). -/
def execHoldLimit (p : PartIx) (s : State) : Host.Outcome State Fault Refusal :=
  let x := s.part p
  if !x.runs then done s
  else
    match x.hold with
    | none => done s
    | some h =>
      let n := BitVec.ofNat 64 (s.limitCycles p - h.len)
      let s := s.setPart p { x with
        holdStep := x.holdStep + n, holdItem := x.holdItem + n, holdTotal := x.holdTotal + n
        holdGov := if x.govHold then x.holdGov + n else x.holdGov
        hold := some { h with len := max h.len (s.limitCycles p) } }
      done ((s.passCycles p).holdLimit p h)

/-- A partition's power is over its share of a limit: watts times the module's columns against the limit times its own (R19). -/
def overShare (total cols limit watts : Nat) : Bool := decide (cols * limit < watts * total)

/-- A governor hold begins, ends or goes on; a change is kept with its Heel time (R16). -/
def Partition.govern (x : Partition) (held : Bool) (now : BitVec 64) : Partition :=
  if held = x.govHold then x else { x with govHold := held, govMarks := x.govMarks ++ [(now, held)] }

/-- One governor sample (R19): partitions over their share are held until their average of ten samples is within it; power above the limit
that no partition accounts for holds every partition after 100 µs; above the limit for more than 1 ms, FSW bit 46 latches. DESIGN CHOICE
(log 45): such a hold of every partition ends with the first sample that is not above the limit or finds a partition over its share. While a
thermal warning persists, a sample above THERM_LIMIT holds every partition (R363). -/
def execGovernorSample (watts : BitVec 32) (attributed : List (BitVec 32)) (s : State) : Host.Outcome State Fault Refusal :=
  if !s.pins.pwrGood then done s
  else
  let limit := s.num 0x9000 1
  let w := s.power
  let att (p : PartIx) : Nat := ((attributed[p.val]?).getD 0).toNat
  let past (p : PartIx) : List (BitVec 32) := ((attributed[p.val]?).getD 0 :: (s.part p).attributed).take 10
  let total := s.partNo.cols
  let cols (p : PartIx) : Nat := (s.colsOf p).length
  let avg10 (p : PartIx) : Nat := (past p).foldl (fun a b => a + b.toNat) 0
  let tooMuch (p : PartIx) : Bool := !(s.colsOf p).isEmpty && (overShare total (cols p) limit (att p)
    || ((s.part p).govHold && overShare total (cols p) (10 * limit) (avg10 p)))
  let anyOver := (List.finRange 16).any fun p => overShare total (cols p) limit (att p) && !(s.colsOf p).isEmpty
  let high := decide (limit < watts.toNat)
  let un := if high && !anyOver then w.unattributed + 1 else 0
  let all := decide (10 < un) || (w.warn != 0 && decide (s.num 0x9000 0x20 < watts.toNat))
  let n := if high then w.highRun + 1 else 0
  let s := (List.finRange 16).foldl (fun s p => s.modPart p fun x => { x.govern (tooMuch p || all) s.heelNow with attributed := past p }) s
  let s := { s with power := { w with
    now := watts, peak := if w.peak < watts then watts else w.peak, unattributed := un, highRun := n } }
  done (if n == 101 && s.collects then s.event (ErrEvent.of 46 0x0E 7 none 0) else s)

end Sys2Proof.Machine
end

