-- ==== Sys2Proof/Machine/KennelBoundary.lean ====
section
/-!
DEFINITION. The Kennel at a step boundary (R158 to R168, R171, R187, R193, R258): reports, deadlines, pages, placement, step record; and what a
member of a multi-device job does with its home's slot map (R173).
-/

namespace Sys2Proof.Machine

/-- What a boundary works with: the step that ended, the release time, the barrier delay in ns, whether a stop delayed it, HOLD_LAST. -/
structure AtBoundary where
  n : BitVec 64
  t : BitVec 64
  delay : Nat
  stopped : Bool
  hold : Nat
  deriving DecidableEq, Repr

/-! Reports (R162 to R165, Table 7-9) -/

/-- Report word of a slot: the one of the highest issue cycle, then column, then row (R132). -/
def State.reportWord (s : State) (p : PartIx) (slot w : Nat) : BitVec 64 :=
  ((s.cellsOf p).foldl (fun (a : Nat × BitVec 64) c =>
    (s.cell c).reports.foldl (fun (a : Nat × BitVec 64) r =>
      if r.slot.toNat = slot ∧ r.word.toNat = w ∧ a.1 ≤ r.cyc.toNat then (r.cyc.toNat, r.val) else a) a) (0, 0)).2

/-- Main token i of the report words. -/
def mainToken (w : Nat → BitVec 64) (i : Nat) : BitVec 16 := ((w (i / 4)).extractLsb' (16 * (i % 4)) 16)

/-- Draft token i, from 1. -/
def draftToken (w : Nat → BitVec 64) (i : Nat) : BitVec 16 := ((w (3 + (i - 1) / 4)).extractLsb' (16 * ((i - 1) % 4)) 16)

/-- The longest agreeing prefix of a draft of width k (R162). -/
def agreed (w : Nat → BitVec 64) : Nat → Nat → Nat
  | 0, a => a
  | k + 1, a => if draftToken w (a + 1) = mainToken w a then agreed w k (a + 1) else a

/-- First accepted token with a STOP bit. -/
def stopAt (w : Nat → BitVec 64) (a : Nat) : Option Nat := (List.range (a + 1)).find? fun i => (w 5).getLsbD i

/-- A 24-bit counter, saturating. -/
def sat24 (x : Nat) : Nat := min x (2 ^ 24 - 1)

/-- REASON of a stream that its step ends (R163). -/
def endReason (w : Entry) (stop : Bool) : Option Nat :=
  if stop then some 1 else if eLen w = eMaxLen w then some 2 else if eCloseReq w then some 3 else none

/-- The g tokens from position `first` into the token ring, then TOKCOUNT (R164). -/
def State.putTokens (s : State) (p : PartIx) (e first : Nat) (toks : List (BitVec 16)) : State :=
  let b := s.block p e
  let s := toks.zipIdx.foldl (fun s t => s.writeP p (b + 2 * ((first + t.2) % 2048)) (leBytes 2 t.1.toNat) .vc2) s
  s.writeP p (b + 0x1000) (leBytes 8 (first + toks.length)) .vc2

/-- The report of step n for a RUNNING entry of slot `slot`, and its gain (R162 to R166). It is discarded where the write of its tokens meets
an error, which faults the stream (R204). -/
def State.applyReport (s : State) (p : PartIx) (e slot : Nat) : State × Nat :=
  let w : Nat → BitVec 64 := s.reportWord p slot
  let s := s.modX p e fun x => { x with word6 := w 6, word7 := w 7 }
  if !(w 5).getLsbD 63 then (s.modKen p fun k => { k with noReport := k.noReport + 1 }, 0)
  else
    let x := s.entry p e
    let keff := match (s.ken p).stepRec with
      | some r => match r.slots[slot]? with
        | some q => q.keff.toNat
        | none => 0
      | none => 0
    let k := kOf keff
    let a := agreed w k 0
    let stop := stopAt w a
    let m := match stop with
      | some i => i + 1
      | none => a + 1
    let g := min m (eMaxLen x - eLen x)
    let s := s.putTokens p e (eLen x) ((List.range g).map (mainToken w))
    if !eLive (s.entry p e) then (s, 0) else
    let x := withLen x (eLen x + g)
    let x :=
      if keff = 0 then x
      else
        let r := eRate x - eRate x / 32 + a * 2048 / k
        let x := setF (setF (withRate x r) 464 24 (sat24 (eDraftTot x + k))) 488 24 (sat24 (eAccTot x + a))
        if r < s.num 0x5000 2 then withKw x 0 else x
    let x := withMissed (withDeadline x (eDeadline x + BitVec.ofNat 64 (65536 * (g * eDlInc x)))) false
    let x := match endReason x stop.isSome with
      | some r => withReason (withState x stEnded) r
      | none => x
    let s := s.setEntry p e x
    (if eState x = stEnded then s.modX p e fun y => { y with final := 1 } else s, g)

/-! Suspension and resumption (R171, R193) -/

/-- The first page of a free list that is not held, and the list without it (R258). -/
def drawPage (held : List (BitVec 64 × BitVec 64)) : List (BitVec 64) → Option (BitVec 64 × List (BitVec 64))
  | [] => none
  | a :: l =>
    if held.any fun h => h.1 == a then (drawPage held l).map fun r => (r.1, a :: r.2) else some (a, l)

/-- `n` pages, or none if the list cannot give them. -/
def drawPages (held : List (BitVec 64 × BitVec 64)) : Nat → List (BitVec 64) → Option (List (BitVec 64) × List (BitVec 64))
  | 0, l => some ([], l)
  | n + 1, l =>
    match drawPage held l with
    | none => none
    | some r => (drawPages held n r.2).map fun q => (r.1 :: q.1, q.2)

/-- POOL_SHORT grows. -/
def State.poolShort (s : State) (p : PartIx) : State := s.modKen p fun k => { k with poolShort := k.poolShort + 1 }

/-- A copy of the entry is under way. -/
def Kennel.copying (k : Kennel) (e : Nat) : Bool := k.copies.any fun c => c.entry.toNat == e

/-- Answers a SUSPEND or RESUME that waited. -/
def State.answerTags (s : State) (p : PartIx) (e : Nat) : State :=
  let w := s.entry p e
  let s := ((s.ken p).xtra e).tags.foldl (fun s t => s.reply p rpOk t.toNat e (eSid w) (eLen w) false) s
  s.modX p e fun x => { x with tags := [] }

/-- SUSREQ on a QUEUED entry: SUSPENDED, its copy begins, once NPAGES + 1 pages of the SUSPEND list can be drawn (R193). -/
def State.suspend (s : State) (p : PartIx) (e : Nat) : State :=
  let w := s.entry p e
  let k := s.ken p
  match drawPages k.kvHeld (eNPages w + 1) k.susFree with
  | none => s.poolShort p
  | some (dst, rest) =>
    let src := s.pagesOf p e
    let s := s.modKen p fun k => { k with susFree := rest, copies := k.copies ++ [⟨BitVec.ofNat 12 e, false, 0, src, dst, false, false⟩] }
    (s.setEntry p e (withSusReq (withState w stSuspended) false)).answerTags p e

/-- A RESUME that waits: pages of KVPOOL are drawn and the copy back begins, once the copy out has ended. DESIGN CHOICE (log 69): if the pool
is too short, POOL_SHORT grows and the next boundary tries again. -/
def State.resume (s : State) (p : PartIx) (e : Nat) : State :=
  let w := s.entry p e
  let k := s.ken p
  if k.copying e then s
  else
    let s := s.tellMembers p (.resume (BitVec.ofNat 12 e))
    match drawPages k.kvHeld (eNPages w + 1) k.kvFree with
    | none => s.poolShort p
    | some (dst, rest) =>
      let src := s.pagesOf p e
      (s.modKen p fun k => { k with kvFree := rest, copies := k.copies ++ [⟨BitVec.ofNat 12 e, true, 0, src, dst, false, false⟩] }).modX p e
        fun x => { x with resume := false }

/-- A copy that is done: the entry's page list is the copy; pages of the source return at step 3. A RESUME that came while the copy back ran
is met by it. -/
def State.landCopy (s : State) (p : PartIx) (e : Nat) : State × List (BitVec 64) :=
  match (s.ken p).copies.find? fun c => c.entry.toNat == e && c.done && !c.failed with
  | none => (s, [])
  | some c =>
    let w := withPageList (s.entry p e) (match c.dst with | a :: _ => a.toNat | [] => 0)
    let s := (s.modKen p fun k => { k with copies := k.copies.filter fun d => d.entry != c.entry }).modX p e fun x => { x with listed := true }
    if c.back then
      (((s.setEntry p e (withState w stQueued)).modX p e fun x => { x with resume := false }).answerTags p e, c.src)
    else (s.setEntry p e w, c.src)

/-! Copies of suspended streams (R171, R193) -/

/-- The first page of a copy that holds a damaged granule, as the address of that granule. -/
def State.copyDamage (s : State) (p : PartIx) (src : List (BitVec 64)) : Option Nat :=
  src.findSome? fun a => s.firstDamage p a.toNat 65536

/-- The KV pages of a copy in page-list order, and a new page list that names the copies. -/
def State.copyPages (s : State) (p : PartIx) (c : CopyJob) : State :=
  let s := (c.src.drop 1).zip (c.dst.drop 1) |>.foldl (fun s g =>
    s.writeP p g.2.toNat (s.readV p g.1.toNat 65536) (.suspendCopy c.entry)) s
  match c.dst with
  | [] => s
  | l :: ps => s.writeP p l.toNat (ps.flatMap fun a => leBytes 8 a.toNat) (.suspendCopy c.entry)

/-- A copy of an entry completes, or meets an error at which it stops. -/
def State.finishCopy (s : State) (p : PartIx) (e : BitVec 12) (back : Bool) : State :=
  match (s.ken p).copies.find? fun c => c.entry == e && c.back == back && !c.done && !c.failed with
  | none => s
  | some c =>
    match s.copyDamage p c.src with
    | some a => s.metError p a (if back then .resumeCopy e else .suspendCopy e)
    | none =>
      let s := s.copyPages p c
      s.modPart p fun x => { x with
        changed := x.changed ++ c.dst.filter fun a => !x.changed.contains a
        kennel := { x.kennel with copies := x.kennel.copies.map fun d => if d.entry = e then { d with done := true } else d } }

/-! Step 2: the item of one entry -/

/-- A MISS (R167, Table 7-10). -/
def State.miss (s : State) (p : PartIx) (b : AtBoundary) (e : Nat) (ran : Bool) (due : BitVec 64) : State :=
  let w := s.entry p e
  let cause := if b.stopped then 1 else if !ran then 2 else if b.hold ≠ 0 ∨ b.delay ≠ 0 then 1 else 3
  let s := s.modKen p fun k => { k with missCount := k.missCount + 1 }
  s.pushRecord p (kenRecord 3 cause 0 e (eSid w) b.n.toNat (eLen w) ((b.t - due).toNat / 65536) b.hold b.delay 0) true

/-- Output samples that the stream's Bark unit has dropped (R174). -/
def Kennel.dropped (k : Kennel) (e : Nat) : Nat :=
  match k.bark.find? fun b => b.entry.toNat == e with
  | some b => b.dropped.toNat
  | none => 0

/-- The FINAL record of an entry that has ended goes to the ring, or is tried again at a later boundary if the 256 places are full (R157).
DESIGN CHOICE (log 70): dropped output samples, for which Table 7-7 has no field, stand in [383:320], unused in a FINAL record. -/
def State.final (s : State) (p : PartIx) (b : AtBoundary) (e : Nat) : State :=
  let w := s.entry p e
  let k := s.ken p
  let x := k.xtra e
  if (eState w = stEnded ∨ eState w = stFaulted) ∧ x.final = 1 ∧ !k.full then
    let s := s.modX p e fun y => { y with final := 2 }
    s.pushRecord p (kenRecord 2 (eReason w) 0 e (eSid w) b.n.toNat (eLen w) 0 (k.dropped e) x.word6.toNat x.word7.toNat) false
  else s

/-- A deadline more than 2^62 ht behind `t` is raised to that bound (R244). -/
def raiseDeadline (w : Entry) (t : BitVec 64) : Entry :=
  let d := t - BitVec.ofNat 64 (2 ^ 62)
  if later d (eDeadline w) then withDeadline w d else w

/-- The serial item of an entry: report, CLOSEREQ, SUSREQ and RESUME, FINAL, deadline (R158 step 2). Pages whose copy has landed are added to
`back`. -/
def State.entryItem (p : PartIx) (b : AtBoundary) (r : State × List (Nat × List (BitVec 64))) (e : Nat) :
    State × List (Nat × List (BitVec 64)) :=
  let s := r.1
  let w := raiseDeadline (s.entry p e) b.t
  if eState w = stFree then r
  else
    let due := eDeadline w
    let ran := eState w == stRunning
    let s := s.setEntry p e (if ran then withSlot (withState w stQueued) 0xFFF else withSlot w 0xFFF)
    let q := if ran then s.applyReport p e (eSlot w) else (s, 0)
    let c := q.1.landCopy p e
    let s := c.1
    let w := s.entry p e
    let waits := eState w == stAdmitted || eState w == stQueued || eState w == stSuspended
    let s :=
      if waits ∧ eCloseReq w then
        ((s.setEntry p e (withReason (withState w stEnded) 3)).modX p e fun x => { x with final := 1, resume := false }).modKen p
          fun k => k.stopCopies e
      else if eState w = stQueued ∧ eSusReq w then s.suspend p e
      else if eState w = stSuspended ∧ ((s.ken p).xtra e).resume then s.resume p e
      else s
    let s := s.final p b e
    let w := s.entry p e
    let waits := eState w == stAdmitted || eState w == stQueued || eState w == stSuspended
    let s :=
      if ran ∧ 0 < q.2 then (if later b.t due then s.miss p b e true due else s)
      else if waits ∧ !eMissed w ∧ later b.t (eDeadline w) then
        (s.setEntry p e (withMissed w true)).miss p b e ran (eDeadline w)
      else s
    (s, if c.2.isEmpty then r.2 else r.2 ++ [(e, c.2)])

/-! Step 3: pages -/

/-- An entry gives up its pages at this boundary: CANCELLED, or ended with its FINAL record written. -/
def Kennel.leaves (k : Kennel) (e : Nat) : Bool :=
  let w := k.entry e
  eState w == stCancelled
    || ((eState w == stEnded || eState w == stFaulted) && (k.xtra e).final == 2 && !k.awaits 2 (eReason w) e)

/-- Every page that an entry holds, its page list's first. -/
def State.heldPages (s : State) (p : PartIx) (e : Nat) : List (BitVec 64) :=
  s.pagesOf p e ++ ((s.ken p).copies.filter fun c => c.entry.toNat == e).flatMap (·.dst)

/-- Pages go to the heads of their lists, marked held (R158 step 3, R258). -/
def State.giveBack (s : State) (p : PartIx) (n : BitVec 64) (pages : List (BitVec 64)) : State :=
  let kv := pages.filter fun a => s.inRegion p rgKv a.toNat
  let sus := pages.filter fun a => !s.inRegion p rgKv a.toNat
  s.modKen p fun k => { k with
    kvHeld := k.kvHeld ++ pages.map fun a => (a, n)
    kvFree := kv ++ k.kvFree, susFree := sus ++ k.susFree }

/-- Pages of a boundary return, those of ended entries among them; marks of two steps ago are removed (R158 step 3, R258). -/
def State.returnPages (s : State) (p : PartIx) (n : BitVec 64) (back : List (Nat × List (BitVec 64))) : State :=
  let k := s.ken p
  let ids := List.range k.entries.length
  let pages := ids.flatMap fun e =>
    (match back.find? fun r => r.1 == e with | some r => r.2 | none => []) ++ (if k.leaves e then s.heldPages p e else [])
  let s := (s.modKen p fun k => { k with kvHeld := k.kvHeld.filter fun h => !decide (h.2 + 2 ≤ n) }).giveBack p n pages
  let s := s.modKen p fun k => { k with copies := k.copies.filter fun c => !k.leaves c.entry.toNat }
  ids.foldl (fun s e =>
    if (s.ken p).leaves e then
      (s.setEntry p e (withPageList (withNPages (s.entry p e) 0) 0)).modX p e fun x => { x with listed := false }
    else s) s

/-- Entries that become FREE at the end of the boundary (Table 7-3). -/
def State.freeEntries (s : State) (p : PartIx) : State :=
  (List.range (s.ken p).entries.length).foldl (fun s e =>
    let k := s.ken p
    let w := k.entry e
    if k.leaves e ∧ !(eState w = stCancelled ∧ k.awaits 1 rpCancelled e) then
      let s := (s.setEntry p e (freeEntry p)).modX p e fun _ => EntryX.free
      let s := s.modKen p fun k => { k with
        bark := k.bark.filter fun b => b.entry.toNat != e
        pendingCmds := k.pendingCmds.map fun c => if scEntry c.cmd = e then { c with live := false } else c }
      s.tellMembers p (.freed (BitVec.ofNat 12 e))
    else s) s

/-! Step 4 -/

/-- ADMITTED entries whose START has come draw their page-list page. -/
def State.drawLists (s : State) (p : PartIx) (n : BitVec 64) : State :=
  (List.range (s.ken p).entries.length).foldl (fun s e =>
    let k := s.ken p
    let w := k.entry e
    if eState w = stAdmitted ∧ (k.xtra e).start ≤ n + 1 then
      match drawPage k.kvHeld k.kvFree with
      | none => s.poolShort p
      | some (a, rest) =>
        ((s.modKen p fun k => { k with kvFree := rest }).setEntry p e (withPageList (withState w stQueued) a.toNat)).modX p e
          fun x => { x with listed := true }
    else s) s

/-! Step 5: variant and slots (R159, R160) -/

/-- The pages of KVPOOL and SUSPEND that the Kennel or the plan has written in the current step grow by one (R195, R196). -/
def Partition.noteChanged (x : Partition) (page : BitVec 64) : Partition :=
  { x with changed := if x.changed.contains page then x.changed else x.changed ++ [page] }

/-- Pages up to NPAGES ≥ need, each address written into the page list; false if the pool runs out, or if the page list is damaged, which
faults the stream and leaves the page in the pool (R204). -/
def State.drawTo (p : PartIx) (e : Nat) : Nat → State → State × Bool
  | 0, s => (s, true)
  | n + 1, s =>
    let k := s.ken p
    match drawPage k.kvHeld k.kvFree with
    | none => (s.poolShort p, false)
    | some (a, rest) =>
      let w := k.entry e
      let s := s.writeP p (ePageList w + 8 * eNPages w) (leBytes 8 a.toNat) .vc2
      if eLive (s.entry p e) then
        let s := s.modPart p fun x => { x.noteChanged (BitVec.ofNat 64 (ePageList w)) with kennel := { x.kennel with kvFree := rest } }
        State.drawTo p e n (s.setEntry p e (withNPages w (eNPages w + 1)))
      else (s, false)

/-- R160 for an entry at width code `keff`. -/
def State.drawFor (s : State) (p : PartIx) (e keff : Nat) : State × Bool :=
  let w := s.entry p e
  let need := ((eLen w + kOf keff + 1) * s.pnum p 0x46 + 65535) / 65536
  State.drawTo p e (need - eNPages w) s

/-- Effective priority. -/
def ePrioNow (ageSteps : Nat) (w : Entry) : Nat := min 7 (ePrio w + (if ageSteps = 0 then 0 else eAge w / ageSteps))

/-- Insert into a list of (key, entry) by rising key. -/
def insertKey (a : Nat × Nat) : List (Nat × Nat) → List (Nat × Nat)
  | [] => [a]
  | b :: l => if a.1 < b.1 then a :: b :: l else b :: insertKey a l

/-- Candidates by effective priority, deadline, `wide` first, relative index; deadlines modulo 2^64 around `t`. -/
def sortCands (k : Kennel) (ageSteps : Nat) (t : BitVec 64) (wide : Entry → Bool) (cand : List Nat) : List Nat :=
  let key (e : Nat) : Nat :=
    let w := k.entry e
    let d := (eDeadline w - t + BitVec.ofNat 64 (2 ^ 63)).toNat
    4096 * (2 * (2 ^ 64 * (7 - ePrioNow ageSteps w) + d) + (!wide w).toNat) + e
  ((cand.map fun e => (key e, e)).foldr insertKey []).map (·.2)

/-- Of two variants the better for `nc` candidates (R159). -/
def betterVar (nc : Nat) (a b : Nat × VarDesc) : Nat × VarDesc :=
  let sa := a.2.slots.toNat
  let sb := b.2.slots.toNat
  if nc ≤ sa then (if nc ≤ sb ∧ sb < sa then b else a) else if nc ≤ sb then b else if sa < sb then b else a

/-- The variant that R159 chooses, with its number. -/
def chooseVariant (pl : PlanRec) (k : Kennel) (cand : List Nat) : Nat × VarDesc :=
  let vs : List (Nat × VarDesc) := pl.vars.zipIdx.map fun v => (v.2, v.1)
  let zero : Nat × VarDesc := match vs with
    | v :: _ => v
    | [] => (0, ⟨0, false, 0, 0⟩)
  let mslot (v : Nat × VarDesc) : Nat := v.2.mslot.toNat
  match cand.find? fun e => vs.any fun v => mslot v == eMslot (k.entry e) with
  | none => zero
  | some e =>
    let ms := eMslot (k.entry e)
    let fits := vs.filter fun v => mslot v == ms && decide (v.2.kw.toNat ≤ eKw (k.entry e))
    let kv := fits.foldl (fun a v => max a v.2.kw.toNat) 0
    let nc := (cand.filter fun e => eMslot (k.entry e) == ms).length
    match fits.filter fun v => v.2.kw.toNat == kv with
    | v :: l => l.foldl (betterVar nc) v
    | [] => zero

/-- An empty slot. -/
def SlotRec.empty : SlotRec := ⟨false, 0, 0, 0, 0⟩

/-- One candidate is placed in the lowest slot that fits it, if its pages can be drawn. -/
def State.place (p : PartIx) (pl : PlanRec) (v : Nat × VarDesc) (r : State × List SlotRec) (e : Nat) : State × List SlotRec :=
  let s := r.1
  let w := s.entry p e
  if eMslot w ≠ v.2.mslot.toNat then r
  else
    let keff := min (eKw w) v.2.kw.toNat
    let fits (i : Nat) : Bool := decide (i < v.2.slots.toNat) && (match r.2[i]?, pl.slots[i]? with
      | some q, some d => !q.used && d.barkIo == eBark w && decide (eLen w + kOf keff + 1 ≤ d.maxCtx.toNat)
      | _, _ => false)
    match (List.range r.2.length).find? fits with
    | none => r
    | some i =>
      let q := s.drawFor p e keff
      if !q.2 then (q.1, r.2)
      else
        let w := q.1.entry p e
        let w := setF (withAge (withSlot (withState w stRunning) i) 0) 32 8 v.1
        (q.1.setEntry p e w,
          r.2.set i ⟨true, BitVec.ofNat 12 e, BitVec.ofNat 32 (eLen w), BitVec.ofNat 12 (eSeed w), BitVec.ofNat 2 keff⟩)

/-- Step 5 with plan `pl`: the variant's number and the slot map. `waiting` are the entries QUEUED when the boundary began. Every QUEUED entry
counts for the choice; one with SUSREQ is not placed (R193). -/
def State.fillSlots (s : State) (p : PartIx) (pl : PlanRec) (t : BitVec 64) (waiting : List Nat) : State × Nat × List SlotRec :=
  let k := s.ken p
  let ages := s.pnum p 0x48
  let cand := (List.range k.entries.length).filter fun e => eState (k.entry e) == stQueued
  let v := chooseVariant pl k (sortCands k ages t (fun _ => true) cand)
  let order := sortCands k ages t (fun w => eKw w == v.2.kw.toNat) (cand.filter fun e => !eSusReq (k.entry e))
  let none_ := List.replicate pl.nslot SlotRec.empty
  let r := if (s.part p).slotState[two v.2.mslot] = 2 then order.foldl (State.place p pl v) (s, none_) else (s, none_)
  let s := waiting.foldl (fun s e =>
    let w := s.entry p e
    if eState w = stQueued then s.setEntry p e (withAge w (min 255 (eAge w + 1))) else s) r.1
  (s, v.1, r.2)

/-! Step 6 -/

/-- IN_WR of every Bark stream as the unit takes it; `ran` had a slot in the step that ended (R176). -/
def State.takeInWr (s : State) (p : PartIx) (ran : List Nat) : State :=
  s.modKen p fun k => { k with
    barkDone := 0
    bark := k.bark.map fun b => { b with
      inWr := BitVec.ofNat 64 (leNat (s.readV p (s.block p b.entry.toNat + 0x1008) 8)), outDue := ran.contains b.entry.toNat } }

/-- Hook values and the step record of step n + 1 (R161). -/
def State.latch (s : State) (p : PartIx) (n : BitVec 64) (v : Nat) (slots : List SlotRec) : State :=
  s.modPart p fun x => { x with
    variant := BitVec.ofNat 16 v
    hooks := hooksOf x.kennel slots
    kennel := { x.kennel with stepRec := some ⟨n + 1, BitVec.ofNat 8 v, slots⟩ } }

/-- The home sends its entries and the step record to every member (R173). DESIGN CHOICE (log 30): an entry goes word by word. -/
def State.sendMap (s : State) (p : PartIx) (n : BitVec 64) (v : Nat) (slots : List SlotRec) : State :=
  let k := s.ken p
  let s := k.entries.zipIdx.foldl (fun s r =>
    if eState r.1 = stFree then s
    else ([0, 1, 2, 3, 4, 6, 7] : List Nat).foldl (fun s i => s.tellMembers p (.word (BitVec.ofNat 12 r.2) (BitVec.ofNat 3 i) (eWord r.1 i))) s) s
  let s := slots.zipIdx.foldl (fun s r => s.tellMembers p (.slot (n + 1) (BitVec.ofNat 12 r.2) r.1)) s
  s.tellMembers p (.map (n + 1) (BitVec.ofNat 8 v))

/-! The whole of R158 -/

/-- Step 1: MODIFY and SEED in ring order; other commands that waited for this boundary set their requests (R261). -/
def State.applyPending (s : State) (p : PartIx) : State :=
  let l := (s.ken p).pendingCmds
  let s := s.modKen p fun k => { k with pendingCmds := [] }
  l.foldl (fun s c =>
    let e := scEntry c.cmd
    match scCmd c.cmd with
    | 3 => if c.live then s.setEntry p e (withCloseReq (s.entry p e) true) else s
    | 4 => if c.live then s.setEntry p e (withSusReq (s.entry p e) true) else s
    | 5 => if c.live then s.modX p e fun x => { x with resume := true } else s
    | 6 => if c.live ∧ eLive (s.entry p e) then s.modify p c.cmd else s
    | 7 => s.seed p c.cmd
    | _ => s) s

/-- The home Kennel's boundary after step n, with the plan of step n + 1 (R158). -/
def State.homeBoundary (s : State) (p : PartIx) (b : AtBoundary) (pl : PlanRec) : State :=
  let k := s.ken p
  let ids := List.range k.entries.length
  let waiting := ids.filter fun e => eState (k.entry e) == stQueued
  let ran := ids.filter fun e => eState (k.entry e) == stRunning
  let s := s.applyPending p
  let r := ids.foldl (State.entryItem p b) (s, [])
  let s := r.1.returnPages p b.n r.2
  let s := s.drawLists p b.n
  let s := s.slotsAtBoundary p
  let f := s.fillSlots p pl b.t waiting
  let s := f.1.freeEntries p
  let s := (s.latch p b.n f.2.1 f.2.2).takeInWr p ran
  s.sendMap p b.n f.2.1 f.2.2

/-- The page-list page of a member's stream, as its entry first holds one. -/
def State.mirrorList (s : State) (p : PartIx) (e : Nat) : State :=
  let k := s.ken p
  let w := k.entry e
  if (k.xtra e).listed then s
  else
    match drawPage k.kvHeld k.kvFree with
    | some (a, rest) =>
      ((s.modKen p fun k => { k with kvFree := rest }).setEntry p e (withPageList w a.toNat)).modX p e fun x => { x with listed := true }
    | none => s.poolShort p

/-- A member's entry follows the home's (R173): its fields, then the pages that its state calls for. A stream that the home has suspended is
copied out here too; one that the home has queued again is copied back, in whole if that has not been done. -/
def State.mirrorEntry (p : PartIx) (n : BitVec 64) (s : State) (e : Nat) : State :=
  let own := s.entry p e
  let words := (s.ken p).homeWords.filter fun h => h.1.toNat == e
  if words.isEmpty ∨ (eState own ≠ stFree ∧ !eLive own) then s
  else
    let w := words.foldl (fun w h => mirrorWord w h.2.1.toNat h.2.2) own
    let s := s.setEntry p e w
    if eState w = stSuspended ∧ eState own ≠ stSuspended then s.suspend p e
    else if eState own = stSuspended ∧ (eState w = stQueued ∨ eState w = stRunning) then
      let s := s.setEntry p e (withState w stSuspended)
      let s := s.resume p e
      let s := match (s.ken p).copies.find? fun c => c.entry.toNat == e && c.back && !c.failed with
        | some c => if c.done then s else s.finishCopy p c.entry true
        | none => s
      let r := s.landCopy p e
      (r.1.setEntry p e (withState (r.1.entry p e) (eState w))).giveBack p n r.2
    else s

/-- A member's entry takes one slot of the home's map: it runs, with the pages that R160 draws for it. -/
def State.mirrorSlot (p : PartIx) (v : Nat) (s : State) (r : SlotRec × Nat) : State :=
  if !r.1.used then s
  else
    let e := r.1.entry.toNat
    let w := setF (setF (withLen (withSlot (withState (s.entry p e) stRunning) r.2) r.1.len.toNat) 288 12 r.1.seed.toNat) 32 8 v
    (((s.setEntry p e w).mirrorList p e).drawFor p e r.1.keff.toNat).1

/-- A member's boundary: the home's entries and step record applied as they are (R173). -/
def State.memberBoundary (s : State) (p : PartIx) (b : AtBoundary) (m : StepRec) : State :=
  let k := s.ken p
  let ids := List.range k.entries.length
  let ran := ids.filter fun e => eState (k.entry e) == stRunning
  let s := s.applyPending p
  let landed := ids.foldl (fun (r : State × List (Nat × List (BitVec 64))) e =>
    let c := if ((r.1.ken p).copies.any fun c => c.entry.toNat == e && c.back) then (r.1, []) else r.1.landCopy p e
    (c.1, if c.2.isEmpty then r.2 else r.2 ++ [(e, c.2)])) (s, [])
  let s := landed.1.returnPages p b.n landed.2
  let s := ids.foldl (fun s e =>
    let w := s.entry p e
    s.setEntry p e (withSlot (if eState w = stRunning then withState w stQueued else w) 0xFFF)) s
  let s := s.slotsAtBoundary p
  let s := ids.foldl (fun s e =>
    if eState (s.entry p e) = stSuspended ∧ ((s.ken p).xtra e).resume then s.resume p e else s) s
  let s := ids.foldl (State.mirrorEntry p b.n) s
  let s := m.slots.zipIdx.foldl (State.mirrorSlot p m.variant.toNat) s
  let s := s.freeEntries p
  let s := s.modKen p fun k => { k with slotMap := none, mapWhole := false, homeWords := [] }
  (s.latch p b.n m.variant.toNat m.slots).takeInWr p ran

end Sys2Proof.Machine
end

