-- ==== Sys2Proof/Machine/Boundary.lean ====
section
/-!
DEFINITION. Boundary processing and release of a step (R158, R195, R254, R257, R260, R265, R268): the rows BOUNDARY_PROCESSING, STEP_RELEASE,
SUSPEND_COPY_DONE, RESUME_COPY_DONE; what a KENNEL item does.
-/

namespace Sys2Proof.Machine

/-! Copies of suspended streams (R171, R193) -/

def execSuspendCopyDone (p : PartIx) (e : BitVec 12) (s : State) : Host.Outcome State Fault Refusal := done (s.finishCopy p e false)

def execResumeCopyDone (p : PartIx) (e : BitVec 12) (s : State) : Host.Outcome State Fault Refusal := done (s.finishCopy p e true)

/-! KENNEL items at a member (R173, R240, R241) -/

/-- Additional data of a KENNEL item: bytes 0 to 15 of its flit. -/
def kennelAad (k : KennelItem) : Bytes :=
  (ShortFlit.bytes ⟨6, true, k.owner, false, k.src, k.dst, leBytes 8 k.ctr.toNat⟩ k.sqn).take 16

/-- The plaintext of an item, under either key phase that is installed. -/
def Partition.openItem (x : Partition) (k : KennelItem) : Option Bytes :=
  let try_ (ph : Bool) : Option Bytes := match x.keys.linkKey[two ph] with
    | some key => Config.gcmOpen key (linkIv k.ctr k.src 3) (kennelAad k) k.ct (BitVec.ofNat 128 (leNat k.tag))
    | none => none
  (try_ x.keys.linkActive).or (try_ !x.keys.linkActive)

/-- The slot map under construction for a step. -/
def Kennel.mapFor (k : Kennel) (n : BitVec 64) (size : Nat) : StepRec :=
  match k.slotMap with
  | some m => if m.step = n then m else ⟨n, 0, List.replicate size SlotRec.empty⟩
  | none => ⟨n, 0, List.replicate size SlotRec.empty⟩

/-- Effect of an item from the home Kennel. A key that comes while a step runs is written at the next boundary (R172). -/
def State.kenMsg (s : State) (p : PartIx) (m : KenMsg) : State :=
  let size := match (s.treePlan p) with
    | some pl => pl.nslot
    | none => 0
  match m with
  | .slot n i r => s.modKen p fun k =>
      let m := k.mapFor n size
      { k with slotMap := some { m with slots := m.slots.set i.toNat r }, mapWhole := false }
  | .map n v => s.modKen p fun k => { k with slotMap := some { k.mapFor n size with variant := v }, mapWhole := true }
  | .cancel e =>
    let w := s.entry p e.toNat
    if eLive w then
      (s.setEntry p e.toNat (let c := withState w stCancelled; if eState w = stRunning then withMuz c true else c)).modKen p
        fun k => k.stopCopies e.toNat
    else s
  | .seed i key =>
    if (s.part p).seedsAtOnce then s.putSeed p i.toNat key
    else s.modKen p fun k => { k with pendingCmds := k.pendingCmds ++
      [⟨BitVec.ofNat 512 (packFields [(32, 7), (12, i.toNat), (84, 0), (128, key.toNat)]), true, false⟩] }
  | .word e i v => s.modKen p fun k => { k with homeWords := k.homeWords ++ [(e, i, v)] }
  | .resume e => if eState (s.entry p e.toNat) = stSuspended then s.modX p e.toNat fun x => { x with resume := true } else s
  | .freed e =>
    let w := s.entry p e.toNat
    if eState w = stFree then s
    else (s.setEntry p e.toNat (withSlot (withState w stEnded) 0xFFF)).modX p e.toNat fun x => { x with final := 2 }

/-- A KENNEL item, delivered in order: for this module it is opened and applied; for another it goes on, still sealed, under the JOB of its
owner entry (R249). -/
def State.takeKennel (s : State) (n : PortIx) (k : KennelItem) : State :=
  match s.forSelf n k.owner k.dst with
  | some p =>
    match (s.part p).openItem k with
    | none =>
      let s := s.modPort n fun x => { x with tagFail := x.tagFail + 1 }
      (s.event (ErrEvent.of 43 0x0B 4 (some p) (BitVec.ofNat 8 n.val))).report p k.src 7 1
    | some b =>
      match kenMsgOf b with
      | some m => if s.isHome p then s else s.kenMsg p m
      | none => s
  | none =>
    let job := (s.ownerAt n k.owner).job
    let drop (s : State) : State := s.modPort n fun x => { x with discarded := x.discarded + 1 }
    match s.transitOf job k.dst with
    | none => drop s
    | some r =>
      match s.jobIx r.1 job with
      | none => drop s
      | some w => s.sendShort r.1 ⟨6, true, w, false, k.src, k.dst, leBytes 8 k.ctr.toNat ++ k.ct ++ k.tag⟩

/-! Boundary processing -/

/-- The plan that schedules step `n + 1` (R268). -/
def State.nextPlan (s : State) (p : PartIx) (n : BitVec 64) : Option PlanRec :=
  let x := s.part p
  if x.starting then s.startPlan p
  else if x.loadedPlan.isSome ∧ BitVec.ofNat 64 (s.pnum p 0x35) = n + 1 ∧ n + 1 ≠ BitVec.allOnes 64 then x.loadedPlan
  else x.runPlan

/-- The page returns of this boundary wait for the mirror of the step before, whose header is not acknowledged (R195). -/
def State.awaitsMirror (s : State) (p : PartIx) (n : BitVec 64) : Bool :=
  let x := s.part p
  (x.mirrorState == 1 || x.mirrorState == 2) && !x.starting && x.mirrorDue == some (n - 1)

/-- A STOP: nothing of the step applies, RUNNING entries return to QUEUED, and no entry has a slot. -/
def State.stopBoundary (s : State) (p : PartIx) : State :=
  (List.range (s.ken p).entries.length).foldl (fun s e =>
    let w := s.entry p e
    if eState w = stFree then s
    else s.setEntry p e (withSlot (if eState w = stRunning then withState w stQueued else w) 0xFFF)) s

/-- The boundary of a step that has a record: K_{n+1} is put in place (R260). -/
def State.recordedBoundary (s : State) (p : PartIx) (i : BoundaryImage) : State :=
  s.modPart p fun x => { x with kennel := i.kennel.keepRings x.kennel x.log, variant := i.variant, hooks := i.hooks }

/-- What a normal boundary works with. -/
def State.atBoundary (s : State) (p : PartIx) (n rtime : BitVec 64) : AtBoundary :=
  let x := s.part p
  let due := s.boundaryAt p (n + 1)
  let late := if later rtime due then (rtime - due).toNat else 0
  ⟨n, rtime, (late + x.stopDelay.toNat) / 65536, x.stopDelay != 0, x.holdLast.toNat⟩

/-- The link key of a phase that is no longer used is erased at the boundary after the switch (R242). -/
def Partition.eraseOld (x : Partition) : Partition :=
  match x.keys.oldPhase with
  | some ph => { x with keys := { x.keys with linkKey := x.keys.linkKey.set (two ph) none, oldPhase := none } }
  | none => x

/-- A committed step's boundary: pending commits, then what R158 lays down; none of it before a member's slot map is whole. -/
def State.commitBoundary (s : State) (p : PartIx) (n rtime : BitVec 64) : State :=
  let x := s.part p
  let image : Option BoundaryImage := if x.jobState = 4 then x.images.find? fun i => i.step == n + 1 else none
  let home := s.isHome p
  let map : Option StepRec := if x.kennel.mapWhole then x.kennel.slotMap.bind fun m => if m.step = n + 1 then some m else none else none
  if image.isNone ∧ ((!home ∧ map.isNone) ∨ s.awaitsMirror p n) then
    s.modPart p fun x => { x with mirrorWait := s.awaitsMirror p n }
  else
    let s := (s.modPart p Partition.eraseOld).commitsAtBoundary p (n + 1)
    match image with
    | some i => ((s.slotsAtBoundary p).recordedBoundary p i).modPart p fun x => { x with barrier := { x.barrier with processed := true } }
    | none =>
      let b := s.atBoundary p n rtime
      let s := s.modPart p fun x => { x with jobState := if x.jobState = 4 then 2 else x.jobState, stopDelay := 0, mirrorWait := false }
      let s := match s.nextPlan p n with
        | none => s
        | some pl => if home then s.homeBoundary p b pl else
            match map with
            | some m => s.memberBoundary p b m
            | none => s
      s.modPart p fun x => { x with barrier := { x.barrier with processed := true } }

/-- BOUNDARY_PROCESSING: between the completion of the barrier and the release. -/
def execBoundaryProcessing (p : PartIx) (s : State) : Host.Outcome State Fault Refusal :=
  let x := s.part p
  match x.barrier.release with
  | none => done s
  | some r =>
    if x.barrier.processed then done s
    else if r.stop then
      done ((s.stopBoundary p).modPart p fun x => { x with barrier := { x.barrier with processed := true } })
    else done (s.commitBoundary p r.step r.rtime)

/-! Release -/

/-- Entry PCs of a variant in a cell (Table 6-6). -/
def PlanRec.entryOf (pl : PlanRec) (c : CellRef) (v : Nat) (e : Eng) : BitVec 32 :=
  match pl.code.find? fun r => r.vcell.toNat == c.ix.val && r.eng.toNat == e.code.val with
  | some r => (r.entries[v]?).getD 0
  | none => 0

/-- The plan that runs from this release on, and what becomes of the others (R265, R268): a restart that begins at the step of a plan switch
retains the former plan until STEP_COMMITTED reaches it. -/
def State.takePlan (s : State) (p : PartIx) (n : BitVec 64) : State :=
  let x := s.part p
  if x.starting then
    let keep := x.runPlan.isSome && s.startPlan p == x.runPlan
    if keep then s
    else match x.loadedPlan with
      | some pl =>
        let old := if s.pnum p 0x35 ≠ 2 ^ 64 - 1 then x.runPlan.or x.oldPlan else none
        (s.setPart p { x with runPlan := some pl, loadedPlan := none, oldPlan := old }).newCode p
      | none => s
  else
    match x.loadedPlan with
    | some pl =>
      if BitVec.ofNat 64 (s.pnum p 0x35) = n ∧ n ≠ BitVec.allOnes 64 then
        let b := s.boundaryAt p n
        let s := (s.setPart p { x with oldPlan := x.runPlan, runPlan := some pl, loadedPlan := none }).newCode p
        (s.setObj (0x2000 + p.val) 0x71 (leBytes 8 n.toNat)).setObj (0x2000 + p.val) 0x72 (leBytes 8 b.toNat)
      else s
    | none => s

/-- A cause that keeps every released step frozen (Table 13-3): a cell without its clock lock, a die-to-die lane that has failed where the
partition has both dies, a Kennel sequencer that has stopped. -/
def State.unitStopped (s : State) (p : PartIx) : Bool :=
  (s.colsOf p).any (fun c => s.faults.persist.getLsbD c.val) || (s.faults.persist.getLsbD 37 && s.bothDies p) || s.faults.persist.getLsbD 38

/-- How a released step begins: frozen by a fence, by a unit that has stopped, or by one that failed after the step before had its arrival
(Table 13-3). -/
def State.frozenAt (s : State) (p : PartIx) : Option Freeze :=
  let x := s.part p
  if x.fenced then some ⟨.fence, 0⟩
  else if s.unitStopped p || x.frozen.any (fun f => f.why == .unit) then some ⟨.unit, 0⟩ else none

/-- The boundary image of a release: a step that has a record keeps it; three are kept (R257). -/
def Partition.keepImage (x : Partition) (n : BitVec 64) (ht : BitVec 64) : Partition :=
  if x.jobState = 4 ∧ (x.images.any fun i => i.step == n) then x
  else
    let d : BitVec 512 := match x.runPlan with
      | some pl => pl.digest
      | none => 0
    let l := x.images.filter (fun i => i.step != n) ++ [⟨n, x.kennel, x.variant, x.hooks, ht, d, []⟩]
    { x with images := l.drop (l.length - 3), log := x.log.filter fun i => decide ((i.step + 1 - x.stepCommitted).toNat < 2 ^ 63) }

/-- An item of the serial log takes effect again, without a record (R260, R261). -/
def State.reapply (s : State) (p : PartIx) (i : LogItem) : State :=
  if i.fast then
    let e := (i.cmd.extractLsb' 0 12).toNat
    if eLive (s.entry p e) then s.cancel p e else s
  else s.command p i.cmd false

/-- VC0 data of the step that ends is gone, taken by a DRCV or not (Table 6-21); what has come for the next one, ahead of this module's release,
waits for its DRCVs, which count from 0 again (R124, R254). DEDUCED (log 88): no transfer of a step comes before its release time, and none of the
step that ends after it. -/
def State.carryVc0 (s : State) (p : PartIx) (rtime : BitVec 64) : State :=
  let x := s.part p
  let past (cell : BitVec 8) (tag : BitVec 16) : Nat := (x.rxKth.filter fun e => e.1 == (cell, tag) && later rtime e.2).length
  let ended (m : RxMsg) : Bool := m.part == p && m.vc == 0 && m.whole && decide (m.kth < past m.cell m.tag)
  let next (m : RxMsg) : RxMsg :=
    if ended m then m.spent
    else if m.part == p && m.vc == 0 && m.whole then { m with kth := m.kth - past m.cell m.tag } else m
  let t := (s.msgs.filter ended).foldl (fun s m => s.freeMsg 0 m.flits) s
  let t := { t with msgs := t.msgs.map next }
  t.modPart p fun x => { x with
    rxKth := x.rxKth.filter fun e => !later rtime e.2
    vc0In := (x.vc0In.filter fun g => decide (past g.1 g.2.1 ≤ g.2.2.1)).map fun (g : BitVec 8 × BitVec 16 × Nat × BitVec 12 × Granule) =>
      (g.1, g.2.1, g.2.2.1 - past g.1 g.2.1, g.2.2.2) }

/-- Time within [`t`, `until_`] that governor holds have covered, in ht, by the marks of their begin and end (R16). -/
def govTime (t until_ : BitVec 64) : List (BitVec 64 × Bool) → Nat
  | [] => 0
  | m :: ms =>
    let b := if later t m.1 then t else m.1
    let e := match ms with | n :: _ => n.1 | [] => until_
    (if m.2 && later e b then (e - b).toNat else 0) + govTime t until_ ms

/-- Heel time in 3.6 GHz cycles. -/
def cyclesOf (ht : Nat) : BitVec 64 := BitVec.ofNat 64 (ht * 36 / 655360)

/-- A released step runs (R51, R248, R254). A late release counts as held cycles, those of a governor hold by the time it covered (R16). DESIGN
CHOICE (log 87): R19 names no mechanism by which the activity ceiling of RAMP_STEPS binds a starting plan; the steps left are counted, and no
cycle is held for them. -/
def State.runStep (s : State) (p : PartIx) (r : Release) : State :=
  let n := r.step + 1
  let s := (s.takePlan p n).carryVc0 p r.rtime
  let x := s.part p
  let late := if later s.heelNow r.rtime then cyclesOf (s.heelNow - r.rtime).toNat else 0
  let gov := if later s.heelNow r.rtime then cyclesOf (govTime r.rtime s.heelNow x.govMarks) else 0
  let replayed : Option BoundaryImage := if x.jobState = 4 then x.images.find? fun i => i.step == n else none
  let ht := match replayed with
    | some i => i.releaseHt
    | none => s.heelNow
  let s := s.setPart p { x with
    stepNow := n, cyc := 0, front := false, pendFaults := [], doneWrites := [], written := [], hold := none, frozen := s.frozenAt p, running := x.jobState != 3
    holdStep := late, holdItem := late, holdTotal := x.holdTotal + late, holdGov := gov
    govMarks := if x.govHold then [(s.heelNow, true)] else []
    poisoned := false, starting := false, releaseHt := ht, startHt := r.rtime
    holdLast := if x.early.own.isSome then 0 else x.holdLast
    rampSteps := if x.starting then x.rampSteps else x.rampSteps - (if x.rampSteps = 0 then 0 else 1)
    prevBoundary := s.ns, barrier := x.early, early := Barrier.none, reported := []
    lastChanged := x.changed, changed := []
    keys := match x.keys.linkNext with | some ph => x.keys.switchTo ph | none => x.keys }
  let s := s.modPart p fun x => x.keepImage n ht
  let v := (s.part p).variant.toNat
  let s : State := match (s.part p).runPlan with
    | some pl => s.modCells p fun c k => k.boundary (pl.entryOf c v)
    | none => s
  let s : State := match replayed with
    | some _ => ((s.part p).log.filter fun (i : LogItem) => i.step == n).foldl (fun (s : State) i => s.reapply p i) s
    | none => s
  let since := x.prevBoundary
  let s := (List.finRange 24).foldl (fun s m => match s.ownerIx m p with
    | some w => s.ownerBoundary m w since
    | none => s) s
  (s.sendMirror p r.step).absorb p

/-- STEP_RELEASE: at RTIME, or at once if that has passed (R254); a structural change pending for the step ends the job instead (R281). -/
def execStepRelease (p : PartIx) (s : State) : Host.Outcome State Fault Refusal :=
  let x := s.part p
  match x.barrier.release with
  | none => done s
  | some r =>
    if r.stop ∨ !x.barrier.processed then done s
    else
      let s := s.passToHeel r.rtime
      let s := s.commitsAtRelease p (r.step + 1)
      if (s.part p).jobState = 0 then done s else done (s.runStep p r)

end Sys2Proof.Machine
end

