-- ==== Sys2Proof/Machine/EngineRows.lean ====
section
/-!
DEFINITION. The rows of engine instructions (04, 05): an instruction enters the instruction queue of its engine and issues in the current
cycle once it stands at the head, no hold is raised and the engine's interval has elapsed (R25, R27, R35). What each one does stands in its
plan (Issue.lean). A cell whose partition does not run takes no instruction.
-/

namespace Sys2Proof.Machine

/-- Instructions that a queue holds (R27). -/
def queueDepth : Nat := 16

/-- The head of an engine's queue is a DPOP and the VXE may still pop in this cycle: the VXE's pop comes first (R44, R118). -/
def Cell.popWaits (k : Cell) (e : Eng) (cyc : BitVec 32) : Bool :=
  (match k.fetch e with | .op (.dpop _) _ => true | _ => false) && k.vxe.canIssue cyc

/-- The head of an engine's queue issues in the current cycle, if nothing holds the partition and the engine is free. A head that would
hold it, or a pop that comes after the VXE's, is left to the partition's cell cycle, which evaluates the holds of every cell and
issues its engines in their order. -/
def State.issueHead (s : State) (p : PartIx) (c : CellRef) (e : Eng) : Host.Outcome State Fault Refusal :=
  let x := s.part p
  let k := s.cell c
  if !x.runs ∨ !x.front ∨ !(k.eng e).canIssue x.cyc then done s
  else if k.popWaits e x.cyc then done s
  else if (k.holdOf e).isSome then done (s.modPart p fun x => { x with front := false })
  else
    let r := issueEng { s.ctx p with free := s.free } c ⟨k, [], s.free⟩ e
    let s := { s.setCell c r.cell with free := r.free }
    done (((s.noteRaces p c k).noteSeeds p c k).modPart p fun x => { x with pendFaults := x.pendFaults ++ r.faults })

/-- An instruction reaches an engine. -/
def State.engine (s : State) (c : CellRef) (e : Eng) (o : EngOp) : Host.Outcome State Fault Refusal :=
  match s.owner c.col with
  | none => done s
  | some p =>
    let x := s.part p
    let g := (s.cell c).eng e
    if !x.runs ∨ g.ended ∨ queueDepth ≤ g.iq.length then done s
    else
      let s := s.modCell c fun k => let g := k.eng e; k.setEng e { g with iq := g.iq ++ [o] }
      let s := if (s.part p).front ∨ (s.part p).govHold then s else s.front p
      s.issueHead p c e

/-! MXE (Tables 4-3 to 4-9) -/

def execMpal (c : CellRef) (f : MpalF) (s : State) : Host.Outcome State Fault Refusal := s.engine c .mxe (.mpal f)

def execMldw (c : CellRef) (f : MldwF) (s : State) : Host.Outcome State Fault Refusal := s.engine c .mxe (.mldw f)

def execMacc (c : CellRef) (f : MaccF) (s : State) : Host.Outcome State Fault Refusal := s.engine c .mxe (.macc f)

def execMdrn (c : CellRef) (f : MdrnF) (s : State) : Host.Outcome State Fault Refusal := s.engine c .mxe (.mdrn f)

/-! VXE (Tables 4-10 to 4-17) -/

def execVld (c : CellRef) (f : VmemF) (s : State) : Host.Outcome State Fault Refusal := s.engine c .vxe (.vld f)

def execVst (c : CellRef) (f : VmemF) (s : State) : Host.Outcome State Fault Refusal := s.engine c .vxe (.vst f)

def execVpop (c : CellRef) (f : VqF) (s : State) : Host.Outcome State Fault Refusal := s.engine c .vxe (.vpop f)

def execVimm (c : CellRef) (f : ViF) (s : State) : Host.Outcome State Fault Refusal := s.engine c .vxe (.vimm f)

def execVadd (c : CellRef) (f : VrF) (s : State) : Host.Outcome State Fault Refusal := s.engine c .vxe (.vadd f)

def execVsub (c : CellRef) (f : VrF) (s : State) : Host.Outcome State Fault Refusal := s.engine c .vxe (.vsub f)

def execVmul (c : CellRef) (f : VrF) (s : State) : Host.Outcome State Fault Refusal := s.engine c .vxe (.vmul f)

def execVfma (c : CellRef) (f : VrF) (s : State) : Host.Outcome State Fault Refusal := s.engine c .vxe (.vfma f)

def execVmin (c : CellRef) (f : VrF) (s : State) : Host.Outcome State Fault Refusal := s.engine c .vxe (.vmin f)

def execVmax (c : CellRef) (f : VrF) (s : State) : Host.Outcome State Fault Refusal := s.engine c .vxe (.vmax f)

def execVdiv (c : CellRef) (f : VrF) (s : State) : Host.Outcome State Fault Refusal := s.engine c .vxe (.vdiv f)

def execVsqrt (c : CellRef) (f : VrF) (s : State) : Host.Outcome State Fault Refusal := s.engine c .vxe (.vsqrt f)

def execVtrn (c : CellRef) (f : VrF) (s : State) : Host.Outcome State Fault Refusal := s.engine c .vxe (.vtrn f)

def execVbit (c : CellRef) (f : VrF) (s : State) : Host.Outcome State Fault Refusal := s.engine c .vxe (.vbit f)

def execVlane (c : CellRef) (f : VrF) (s : State) : Host.Outcome State Fault Refusal := s.engine c .vxe (.vlane f)

def execVcmp (c : CellRef) (f : VkF) (s : State) : Host.Outcome State Fault Refusal := s.engine c .vxe (.vcmp f)

def execVsel (c : CellRef) (f : VrF) (s : State) : Host.Outcome State Fault Refusal := s.engine c .vxe (.vsel f)

def execVmop (c : CellRef) (f : VmF) (s : State) : Host.Outcome State Fault Refusal := s.engine c .vxe (.vmop f)

def execVcvt (c : CellRef) (f : VcF) (s : State) : Host.Outcome State Fault Refusal := s.engine c .vxe (.vcvt f)

def execVqmx (c : CellRef) (f : VcF) (s : State) : Host.Outcome State Fault Refusal := s.engine c .vxe (.vqmx f)

def execVred (c : CellRef) (f : VrF) (s : State) : Host.Outcome State Fault Refusal := s.engine c .vxe (.vred f)

def execVscan (c : CellRef) (f : VrF) (s : State) : Host.Outcome State Fault Refusal := s.engine c .vxe (.vscan f)

def execVsort (c : CellRef) (f : VrF) (s : State) : Host.Outcome State Fault Refusal := s.engine c .vxe (.vsort f)

def execVmrg (c : CellRef) (f : VrF) (s : State) : Host.Outcome State Fault Refusal := s.engine c .vxe (.vmrg f)

def execVselk (c : CellRef) (f : VkF) (s : State) : Host.Outcome State Fault Refusal := s.engine c .vxe (.vselk f)

def execVfirst (c : CellRef) (f : VrF) (s : State) : Host.Outcome State Fault Refusal := s.engine c .vxe (.vfirst f)

def execVrnd (c : CellRef) (f : VsF) (s : State) : Host.Outcome State Fault Refusal := s.engine c .vxe (.vrnd f)

/-! Sequencing, on any engine (Tables 5-2, 5-3) -/

def execWaitTally (c : CellRef) (e : Eng) (f : WaitF) (s : State) : Host.Outcome State Fault Refusal := s.engine c e (.wait f)

def execLoopPush (c : CellRef) (e : Eng) (f : LoopF) (s : State) : Host.Outcome State Fault Refusal := s.engine c e (.loop f)

def execSig (c : CellRef) (e : Eng) (f : SigTwoF) (s : State) : Host.Outcome State Fault Refusal := s.engine c e (.sig f)

def execDly (c : CellRef) (e : Eng) (f : DlyF) (s : State) : Host.Outcome State Fault Refusal := s.engine c e (.dly f)

def execStepend (c : CellRef) (e : Eng) (s : State) : Host.Outcome State Fault Refusal := s.engine c e .stepend

/-! DME (Tables 5-4 to 5-8) -/

def execPset (c : CellRef) (f : PsetF) (s : State) : Host.Outcome State Fault Refusal := s.engine c .dme (.pset f)

def execPadd (c : CellRef) (f : PaddF) (s : State) : Host.Outcome State Fault Refusal := s.engine c .dme (.padd f)

def execPld (c : CellRef) (f : PldF) (s : State) : Host.Outcome State Fault Refusal := s.engine c .dme (.pld f)

def execPush (c : CellRef) (f : PushF) (s : State) : Host.Outcome State Fault Refusal := s.engine c .dme (.push f)

def execDpop (c : CellRef) (f : DpopF) (s : State) : Host.Outcome State Fault Refusal := s.engine c .dme (.dpop f)

def execDcpy (c : CellRef) (f : DcpyF) (s : State) : Host.Outcome State Fault Refusal := s.engine c .dme (.dcpy f)

def execDrd (c : CellRef) (f : DmemF) (s : State) : Host.Outcome State Fault Refusal := s.engine c .dme (.drd f)

def execDwr (c : CellRef) (f : DmemF) (s : State) : Host.Outcome State Fault Refusal := s.engine c .dme (.dwr f)

def execDsnd (c : CellRef) (f : DlinkF) (s : State) : Host.Outcome State Fault Refusal := s.engine c .dme (.dsnd f)

def execDrcv (c : CellRef) (f : DlinkF) (s : State) : Host.Outcome State Fault Refusal := s.engine c .dme (.drcv f)

/-! SQE (Tables 5-9, 5-10) -/

def execSalu (c : CellRef) (f : SaluF) (s : State) : Host.Outcome State Fault Refusal := s.engine c .sqe (.salu f)

def execSimm (c : CellRef) (f : SimmF) (s : State) : Host.Outcome State Fault Refusal := s.engine c .sqe (.simm f)

def execSld (c : CellRef) (f : SmemF) (s : State) : Host.Outcome State Fault Refusal := s.engine c .sqe (.sld f)

def execSst (c : CellRef) (f : SmemF) (s : State) : Host.Outcome State Fault Refusal := s.engine c .sqe (.sst f)

def execShk (c : CellRef) (f : ShkF) (s : State) : Host.Outcome State Fault Refusal := s.engine c .sqe (.shk f)

def execSrpt (c : CellRef) (f : SrptF) (s : State) : Host.Outcome State Fault Refusal := s.engine c .sqe (.srpt f)

def execSbr (c : CellRef) (f : SbrF) (s : State) : Host.Outcome State Fault Refusal := s.engine c .sqe (.sbr f)

def execSpf (c : CellRef) (f : SpfF) (s : State) : Host.Outcome State Fault Refusal := s.engine c .sqe (.spf f)

def execSrnd (c : CellRef) (f : SrndF) (s : State) : Host.Outcome State Fault Refusal := s.engine c .sqe (.srnd f)

end Sys2Proof.Machine
end

