-- ==== Sys2Proof/Machine/Firmware.lean ====
section
/-!
DEFINITION. Firmware images (14): their format (R328), signatures (R330), the compatibility matrix (R331), the checks of the crate (R334), the banks
and selectors (R327, R336, R337). Log 36: what the status words show where the manual leaves it open.
-/

namespace Sys2Proof.Machine

/-! Results (Table 14-8) -/

def rcOk : Nat := 0
def rcFormat : Nat := 1
def rcKey : Nat := 2
def rcSignature : Nat := 3
def rcPart : Nat := 4
def rcSvn : Nat := 5
def rcCompat : Nat := 6
def rcExternal : Nat := 7
def rcFlash : Nat := 8
def rcProbation : Nat := 9

/-! Image format (R328) -/

/-- Largest image of a KIND (Table 14-1). -/
def imageLimit (kind : Nat) : Nat := match kind with
  | 1 => 8388608
  | 5 => 2097152
  | _ => 1048576

/-- An interface entry (Table 14-4); none where a reserved field is not zero. -/
def parseIf (b : Bytes) : Option IfEntry :=
  if recField b 18 6 ≠ 0 ∨ recField b 40 24 ≠ 0 then none
  else some ⟨BitVec.ofNat 16 (recField b 0 16), recField b 16 1 == 1, recField b 17 1 == 1, BitVec.ofNat 8 (recField b 24 8),
    BitVec.ofNat 8 (recField b 32 8)⟩

/-- Interface entries, in order. -/
def parseIfs (b : Bytes) : Nat → Option (List IfEntry)
  | 0 => some []
  | n + 1 => (parseIf (b.take 8)).bind fun e => (parseIfs (b.drop 8) n).map (e :: ·)

/-- An image of the right form: what the module keeps of it, and what its verification needs. -/
structure Parsed where
  image : Image
  key : Bytes
  sig : Bytes
  deriving DecidableEq, Repr

/-- The five parts of R328; none is FORMAT. -/
def parseImage (b : Bytes) : Option Parsed :=
  let f (lo n : Nat) : Nat := recField (b.take 64) lo n
  let kind := f 48 8
  let nif := f 112 8
  let body := f 128 32
  let signed := 64 + 8 * nif + body + 2592
  if b.length < 64 ∨ f 0 32 ≠ 0x46574C43 ∨ f 32 16 ≠ 1 ∨ kind < 1 ∨ 6 < kind ∨ f 59 5 ≠ 0 ∨ f 102 2 ≠ 0 ∨ f 106 6 ≠ 0 ∨ nif < 1 ∨ 16 < nif
      ∨ f 120 8 ≠ 0 ∨ body % 8 ≠ 0 ∨ f 160 352 ≠ 0 ∨ b.length ≠ signed + 4627 ∨ imageLimit kind < b.length then none
  else (parseIfs (b.drop 64) nif).map fun ifs =>
    { image := ⟨BitVec.ofNat 8 kind, BitVec.ofNat 3 (f 56 3), BitVec.ofNat 8 (f 64 8), BitVec.ofNat 8 (f 72 8), BitVec.ofNat 16 (f 80 16),
        BitVec.ofNat 6 (f 96 6), ⟨f 104 2 % 4, Nat.mod_lt _ (by decide)⟩, ifs, Config.sha3_512 (b.take signed), true⟩
      key := (b.drop (signed - 2592)).take 2592
      sig := b.drop signed }

/-! The compatibility matrix (R331) -/

/-- An image of a set, with its KIND. -/
abbrev ImageSet := List (Nat × List IfEntry)

/-- BOOT needs MTRN 1.0 (Table 14-5). -/
def bootIfs : Nat × List IfEntry := (0, [⟨2, true, false, 1, 0⟩])

/-- KIND that offers an interface (Table 14-5). -/
def offeringKind (ifid : Nat) : Option Nat := match ifid with
  | 1 => some 2
  | 2 => some 3
  | 3 => some 4
  | 4 => some 5
  | 5 => some 6
  | 6 => some 2
  | 7 => some 1
  | 8 => some 1
  | _ => none

/-- The offers of a set, with the KIND that makes each. -/
def offersOf (l : ImageSet) : List (Nat × IfEntry) := l.flatMap fun i => (i.2.filter fun e => !e.needs).map fun e => (i.1, e)

/-- Rule 1: a need is met, or need not be. -/
def needMet (n : PartNo) (l : ImageSet) (e : IfEntry) : Bool :=
  (offersOf l).any (fun o => o.2.ifid == e.ifid && o.2.maj == e.maj && decide (e.min ≤ o.2.min))
    || (e.opt && (match offeringKind e.ifid.toNat with
      | some k => !n.kind k
      | none => false))

/-- Rule 3: at most two majors of one interface, and consecutive. -/
def majorsOk (ifs : List IfEntry) (ifid : BitVec 16) : Bool :=
  let ms := (ifs.filter fun e => !e.needs && e.ifid == ifid).map fun e => e.maj.toNat
  ms.all fun a => ms.all fun b => decide (a ≤ b + 1 ∧ b ≤ a + 1)

/-- IFIDs that break rules 1, 2 or 3. -/
def badIfs (n : PartNo) (l : ImageSet) : List Nat :=
  ((bootIfs :: l).flatMap fun i => (i.2.filter fun e => e.needs && !needMet n l e).map (·.ifid.toNat))
  ++ ((offersOf l).filter fun o => (offersOf l).any fun q => q.1 != o.1 && q.2.ifid == o.2.ifid).map (·.2.ifid.toNat)
  ++ l.flatMap fun i => (i.2.filter fun e => !e.needs && !majorsOk i.2 e.ifid).map (·.ifid.toNat)

/-- The first failing IFID in ascending order. -/
def firstBadIf (n : PartNo) (l : ImageSet) : Option Nat := (badIfs n l).min?

/-- The majors of an interface that a set offers. -/
def majorsOf (l : ImageSet) (ifid : Nat) : List (BitVec 8) := ((offersOf l).filter fun o => o.2.ifid.toNat == ifid).map fun o => o.2.maj

/-- The BARK image of a set. -/
def barkOf (l : ImageSet) : ImageSet := l.filter fun i => i.1 == 5

/-- Rules 4 and 5, of a set against the active one; rule 5 compares BARK images only. -/
def externalOk (active l : ImageSet) : Bool :=
  let old := majorsOf (barkOf active) 4
  let new := majorsOf (barkOf l) 4
  [6, 7].all (fun i => (majorsOf active i).all fun m => (majorsOf l i).contains m)
    && (majorsOf l 8).contains 1
    && ((barkOf active).isEmpty || (old.all (fun m => new.contains m) && new.all fun m => old.contains m))

/-- An image may be selected: it verifies, under a key that is not revoked, and meets its SVN minimum (R330, R338). -/
def State.usable (s : State) (k : Nat) (i : Image) : Bool :=
  i.good && !s.fw.revoked.getLsbD i.keyId.val && decide ((s.fw.svnFused.toList[k - 1]?).getD 0 ≤ i.svn)

/-- The image of a bank, where it may be selected. -/
def State.usableIn (s : State) (k : Nat) (bank : Bool) : Option Image :=
  ((s.fwBanks k).bind fun b => b.image bank).filter fun i => s.usable k i

/-- The image of a bank verifies, whatever its SVN (R330). -/
def State.verifiesIn (s : State) (k : Nat) (bank : Bool) : Bool :=
  ((s.fwBanks k).bind fun b => b.image bank).any fun i => i.good && !s.fw.revoked.getLsbD i.keyId.val

/-- The active images that may run. -/
def State.activeSet (s : State) : ImageSet :=
  [1, 2, 3, 4, 5, 6].filterMap fun k => (s.activeImage k).bind fun i => if s.usable k i then some (k, i.ifs) else none

/-- A set with one image replaced by the candidate of its KIND. -/
def replaceImage (l : ImageSet) (k : Nat) (ifs : List IfEntry) : ImageSet := l.filter (fun i => i.1 != k) ++ [(k, ifs)]

/-! The checks (R334) -/

/-- What the checks say: RESULT, DETAIL and the image, once its form is right. -/
structure ImageVerdict where
  result : Nat
  detail : Nat
  image : Option Image
  deriving DecidableEq, Repr

/-- Steps 1 to 4: FORMAT, KEY, SIGNATURE, PART, SVN. -/
def State.verifyImage (s : State) (b : Bytes) : ImageVerdict :=
  match parseImage b with
  | none => ⟨rcFormat, 0, none⟩
  | some p =>
    let i := p.image
    let say (r : Nat) : ImageVerdict := ⟨r, 0, some i⟩
    if Config.sha3_512 p.key ≠ Config.romKeyDigest i.keyId ∨ s.fw.revoked.getLsbD i.keyId.val then say rcKey
    else if !Config.mlDsaVerify p.key (leBytes 64 i.digest.toNat) "CLR FIRMWARE" p.sig then say rcSignature
    else if !i.parts.getLsbD s.partNo.bit ∨ !s.partNo.kind i.kind.toNat then say rcPart
    else if i.svn < (s.fw.svnFused.toList[i.kind.toNat - 1]?).getD 0 then say rcSvn
    else say rcOk

/-- All five steps, against the active set. -/
def State.checkImage (s : State) (b : Bytes) : ImageVerdict :=
  let v := s.verifyImage b
  match v.image with
  | none => v
  | some i =>
    if v.result ≠ rcOk then v
    else
      let l := replaceImage s.activeSet i.kind.toNat i.ifs
      match firstBadIf s.partNo l with
      | some d => ⟨rcCompat, d, some i⟩
      | none => if externalOk s.activeSet l then v else ⟨rcExternal, 0, some i⟩

/-! Banks and selectors (R327, R336) -/

def State.modBanks (s : State) (k : Nat) (f : Banks → Banks) : State :=
  { s with fw := { s.fw with banks := Vector.ofFn fun j => if j.val + 1 = k then f s.fw.banks[j] else s.fw.banks[j] } }

def Banks.put (b : Banks) (bank : Bool) (i : Option Image) : Banks := if bank then { b with b := i } else { b with a := i }

/-- The selector record that names a bank, with GENERATION one higher. -/
def Banks.next (b : Banks) (bank : Bool) : Selector :=
  { b.sel with bank := bank, gen := b.gen + 1, intact := true, digest := match b.image bank with
    | some i => i.digest
    | none => b.sel.digest }

/-- The selector names a bank: its record is written in FL0, then in FL1. -/
def Banks.select (b : Banks) (bank : Bool) : Banks := { b with sel0 := b.next bank, sel1 := b.next bank }

/-- An image goes into the fallback bank. -/
def Banks.copy (b : Banks) (i : Image) : Banks := b.put (!b.active) (some i)

/-- An image goes into the fallback bank and becomes the active one. -/
def Banks.activate (b : Banks) (i : Image) : Banks := (b.copy i).select (!b.active)

/-- The same, as far as a power loss lets the selector records be written (R336). -/
def Banks.cut (b : Banks) (i : Image) (w : FlashWrite) : Banks :=
  let c := b.copy i
  let r := c.next (!b.active)
  let torn : Selector := { r with intact := false }
  match w with
  | .cutFirst => { c with sel0 := torn }
  | .cutBetween => { c with sel0 := r }
  | _ => { c with sel0 := r, sel1 := torn }

/-- An image of a bank is not verified any more. -/
def Banks.spoil (b : Banks) (bank : Bool) : Banks := b.put bank ((b.image bank).map fun i => { i with good := false })

/-- The active image is marked invalid and the fallback selected (R337). -/
def Banks.revert (b : Banks) : Banks := (b.spoil b.active).select (!b.active)

/-- ACT_RESULT (Table 14-8). -/
def actWord (state kind result detail : Nat) : BitVec 64 :=
  BitVec.ofNat 64 (packFields [(4, state), (4, kind), (8, result), (16, detail), (32, 0)])

/-- A verification failure latches bit 45 (R334, R337). -/
def State.flashEvent (s : State) : State := s.event (ErrEvent.of 45 0x0D 7 none 0)

/-! The crate (R333, R334) -/

/-- Some session other than `sid` fills the crate, or the crate is ARMED. -/
def Crate.busy (c : Crate) (sid : BitVec 32) : Bool := c.state == 4 || (c.state == 1 && c.owner != some sid)

/-- A segment with OFFSET 0 claims the crate. -/
def State.claimCrate (s : State) (sid : BitVec 32) (total : BitVec 32) : State :=
  { s with fw := { s.fw with crate := ⟨1, 0, 0, 0, [], total, some sid⟩ } }

/-- The crate holds a whole image. -/
def State.fillCrate (s : State) (b : Bytes) : State :=
  { s with fw := { s.fw with crate := ⟨2, 0, 0, 0, b, BitVec.ofNat 32 b.length, none⟩ } }

/-- CRATE_CHECK = 1: a crate that passes is VERIFIED, another REFUSED. -/
def State.checkCrate (s : State) : State :=
  let c := s.fw.crate
  let v := s.checkImage c.data
  let kind : BitVec 4 := match v.image with
    | some i => i.kind.setWidth 4
    | none => 0
  let s := { s with fw := { s.fw with crate := { c with
    state := if v.result = rcOk then 3 else 5, kind := kind, result := BitVec.ofNat 8 v.result, detail := BitVec.ofNat 16 v.detail } } }
  if v.result = rcSignature then s.flashEvent else s

/-- The largest value of CRATE_DATA. -/
def crateMax : Nat := 16777216

end Sys2Proof.Machine
end

