-- ==== Sys2Proof/Machine/StartRows.lean ====
section
/-!
DEFINITION. Start-up (15): what a start clears and keeps (R351, R366), the stages of Table 15-1, stage limits (R347), probation (R337), units that fail
their first test (R348), Pup mode (R339 to R341). Log 37: what a start does where the manual leaves it open.
-/

namespace Sys2Proof.Machine

/-! The cold state -/

/-- Objects of the persistent store (Table 14-2). -/
def persistent (key : Nat) : Bool :=
  [objKey 0x1050 1, objKey 0x1050 2, objKey 0x1050 3, objKey 0x1060 3, objKey 0x1060 4, objKey 0x1060 5, objKey 0x1060 6].contains key

/-- The crate across a start: one that was being filled is EMPTY (R333). -/
def Crate.kept (c : Crate) : Crate := if c.state = 1 then Crate.empty else { c with owner := none }

/-- Power readings across a start that leaves the rails up: the governor's history and the PCIe links go. -/
def Power.kept (w : Power) : Power :=
  { w with unattributed := 0, highRun := 0, pcie := Vector.replicate 2 0, trained := 0, dead := 0 }

/-- Everything that a start takes back to its seed (R351): flash, fuses, pins, time since PWR_GOOD, sensors, draws of the entropy source and the
frames of memory stay. -/
def State.cold (s : State) : State :=
  { State.reset with
    pending := s.pending, partNo := s.partNo, up := s.up, start := s.start, pins := s.pins, power := s.power.kept
    fw := { s.fw with crate := s.fw.crate.kept }
    dict := s.dict.filter fun e => persistent e.1
    authFail := s.authFail, mem := s.mem, draws := s.draws, free := s.free, out := s.out }

/-- The start sequence stands still until PERST_N is released. -/
def State.await (s : State) (cause : BitVec 8) : State :=
  { s with start := { s.start with stage := 0, cause := cause, stalled := false, pup := none, waiting := true } }

/-- Stage ROM begins: cold state, the fault collector starts, FAULT_N is released; conditions of bits 46 and 47 that stand latch at once (R350).
DESIGN CHOICE (log 86): what flash will answer in this start is a free value. -/
def State.beginRom (s : State) (cause : BitVec 8) : State :=
  let d := s.cold.draw 15
  let s := d.2
  let s : State := { s with
    start := ⟨1, cause, Vector.ofFn fun i => if i.val = 5 then s.start.log[5] else 0, false, none, false, s.ns, RomRead.ofBits d.1⟩
    pins := { s.pins with faultN := true }
    fw := { s.fw with bootCount := s.fw.bootCount + 1 } }
  let s : State := if s.power.excursion.isSome then s.event (ErrEvent.of 46 0x0E 0 none 0) else s
  if s.power.warn ≠ 0 then s.event (ErrEvent.of 47 0x0F 0 none 0) else s

/-- RESTART (R335): a start with the rails up and PERST_N high. -/
def State.restartModule (s : State) (cause : BitVec 8) : State := s.beginRom cause

/-- The rails go off: only flash and fuses are kept (R346, R366). `retry` says that PWR_EN is low, so that its next rise begins a power-up. -/
def State.railsOff (s : State) (retry : Bool) : State :=
  let s := s.cold
  { s with
    up := 0, mem := [], authFail := 0
    start := ⟨0, 0, Vector.replicate 6 0, !retry, none, false, 0, RomRead.clean⟩
    pins := { s.pins with pwrGood := false, faultN := true }
    power := { Power.cold with inputMv := s.power.inputMv, input := s.power.input, temps := s.power.temps, warn := s.power.warn } }

/-! Probation (R337) -/

/-- A failed image is marked invalid, its selector goes back, and ROM starts again from the previous image. An image of another KIND stays on
probation. -/
def State.revertImage (s : State) (k : BitVec 8) : State :=
  let s := (s.modBanks k.toNat Banks.revert).beginRom 4
  { s with fw := { s.fw with
    probation := if s.fw.probation = some k then none else s.fw.probation, actResult := actWord 3 k.toNat rcProbation 0 } }.flashEvent

/-- The 10 s window of a probationary start ends (R337). -/
def execProbationTimeout (s : State) : Host.Outcome State Fault Refusal :=
  match s.fw.probation with
  | none => done s
  | some k =>
    if !s.pins.pwrGood ∨ s.start.stage = 0 ∨ s.start.stage = 5 ∨ s.start.stage = 7 then done s
    else done ((s.passTo (65536 * (s.start.romAt.toNat + 10000000000))).revertImage k)

/-! The stages (Table 15-1) -/

/-- Time of the completion of a stage, the stage after it. -/
def State.nextStage (s : State) (stage : BitVec 8) (i : Fin 6) : State :=
  { s with start := { s.start with stage := stage, log := s.start.log.set i s.ns } }

/-- A stage runs. -/
def State.inStage (s : State) (k : BitVec 8) : Bool := s.pins.pwrGood && s.start.stage == k && !s.start.stalled && !s.start.waiting

/-- Some bank of every KIND present holds an image that may be selected (R339). -/
def State.selectable (s : State) : Bool :=
  [1, 2, 3, 4, 5, 6].all fun k => !s.partNo.kind k || (s.usableIn k false).isSome || (s.usableIn k true).isSome

/-- The set that the selectors name, with images among it that may not run. -/
def State.namedSet (s : State) : ImageSet :=
  [1, 2, 3, 4, 5, 6].filterMap fun k => (s.activeImage k).map fun i => (k, i.ifs)

/-- An active image does not verify, and its fallback does and meets R331 with the rest of the set that the selectors name (R337; log 36). -/
def State.gives (s : State) (k : Nat) : Bool :=
  match s.fwBanks k with
  | none => false
  | some b =>
    s.partNo.kind k && (s.usableIn k b.active).isNone && (match s.usableIn k (!b.active) with
      | none => false
      | some i =>
        let l := replaceImage s.namedSet k i.ifs
        (firstBadIf s.partNo l).isNone && externalOk s.namedSet l)

/-- The first KIND whose active image gives way to its fallback. -/
def State.givesWay (s : State) : Option Nat := [1, 2, 3, 4, 5, 6].find? s.gives

/-- What becomes of the crate at a start: nothing more than its state shows, an activation of a KIND, or one cut short by a power loss. -/
inductive Activation where
  | none | made (k : BitVec 8) | cut
  deriving DecidableEq, Repr

/-- An ARMED crate is activated, or REFUSED (R336). A write error or a read-back mismatch leaves the old image active and the crate ARMED; DESIGN
CHOICE (log 36): ACT_RESULT then reads STATE 2 with RESULT FLASH, and the fallback bank holds no verifying image. A power loss leaves the
crate ARMED. -/
def State.activateCrate (s : State) (w : FlashWrite) : State × Activation :=
  let c := s.fw.crate
  if c.state ≠ 4 then (s, .none)
  else
    let v := s.checkImage c.data
    match v.image with
    | none =>
      ({ s with fw := { s.fw with
        crate := { c with state := 5, result := BitVec.ofNat 8 v.result, detail := 0 }, actResult := actWord 2 0 v.result 0 } }, .none)
    | some i =>
      let k := i.kind.toNat
      if v.result ≠ rcOk then
        let t := { s with fw := { s.fw with
          crate := { c with state := 5, result := BitVec.ofNat 8 v.result, detail := BitVec.ofNat 16 v.detail }
          actResult := actWord 2 k v.result v.detail } }
        (if v.result = rcSignature then t.flashEvent else t, .none)
      else
        match w with
        | .error =>
          let t := s.modBanks k fun b => (b.copy i).spoil (!b.active)
          ({ t with fw := { t.fw with actResult := actWord 2 k rcFlash 0 } }, .none)
        | .good | .bad =>
          let t := s.modBanks k fun b => b.activate i
          ({ t with fw := { t.fw with crate := Crate.empty, actResult := actWord 1 k rcOk 0, probation := some i.kind } }, .made i.kind)
        | c => (s.modBanks k fun b => b.cut i c, .cut)

/-- Every KIND present has an active image that may run, and the set is compatible. -/
def State.setReady (s : State) : Bool :=
  [1, 2, 3, 4, 5, 6].all (fun k => !s.partNo.kind k || s.activeSet.any fun i => i.1 == k) && (firstBadIf s.partNo s.activeSet).isNone

/-- ROM enters Pup mode (R339). -/
def State.enterPup (s : State) (byPin : Bool) : State :=
  { s with start := { s.start with stage := 7, pup := some ⟨byPin, 0, [], 0, 0⟩ }, mailboxes := Vector.replicate 18 Mailbox.cold }

/-- Images that fail their measurement do not verify. -/
def Banks.measure (b : Banks) (badA badB : Bool) : Banks :=
  let b := if badA then b.spoil false else b
  if badB then b.spoil true else b

/-- ROM measures the images of every bank. -/
def State.measureBanks (s : State) (bad : BitVec 12) : State :=
  { s with fw := { s.fw with banks := Vector.ofFn fun j => s.fw.banks[j].measure (bad.getLsbD j.val) (bad.getLsbD (6 + j.val)) } }

/-- The active image of a KIND may not run. -/
def State.activeFails (s : State) (k : Nat) : Bool := match s.fwBanks k with
  | some b => (s.usableIn k b.active).isNone
  | none => true

/-- ROM's last step: the set that is to run fits together. -/
def State.leaveRom (s : State) : State := if s.setReady then s.nextStage 2 0 else s

/-- The rest of ROM, once no active image gives way: activation (R336, R337). After a power loss stage ROM does not end. -/
def State.selectSet (s : State) (w : FlashWrite) : State :=
  let t := if s.start.cause = 4 then s else { s with fw := { s.fw with actResult := 0 } }
  let u := t.activateCrate w
  match u.2 with
  | .none => u.1.leaveRom
  | .made k => if w = .bad then (u.1.modBanks k.toNat fun b => b.spoil b.active).revertImage k else u.1.leaveRom
  | .cut => u.1

/-- ROM ends: Pup mode, or a compatible set of verified images is selected (R336, R337, R339). An image on probation that fails its measurement,
and any active image that does not verify, gives way to the other bank's, from which ROM starts again. -/
def execRomDone (s : State) : Host.Outcome State Fault Refusal :=
  let r := s.start.rom
  if !s.inStage 1 then done s
  else if !s.pins.recoveryN ∧ s.start.cause ≤ 1 then done (s.enterPup true)
  else
    let s := s.measureBanks r.bad
    if !s.selectable then done (s.enterPup false)
    else match (s.fw.probation.filter fun k => s.activeFails k.toNat) <|> s.givesWay.map (BitVec.ofNat 8) with
      | some k => done (s.revertImage k)
      | none => done (s.selectSet r.write)

/-- A unit that fails its first test latches its bit, its cause persisting (R348). -/
def State.unitFails (s : State) (bit : Fin 50) (master : BitVec 8) (inst : Nat) (whole : Bool) : State :=
  s.event { ErrEvent.of bit master 7 none (BitVec.ofNat 8 inst) with persists := true, whole := whole }

/-- Crypto engines that failed and that the part number has, as INSTANCE numbers: ports, channels, links in turn, each kind numbered from 0.
DESIGN CHOICE (log 77): one event for each engine. -/
def State.badEngines (s : State) (b : CryptoFail) : List Nat :=
  ((List.range s.partNo.ports).filter fun n => b.ports.getLsbD n)
    ++ ((List.range (s.partNo.lpShare * s.partNo.cols)).filter fun c => b.chans.getLsbD c)
    ++ (List.range 2).filter fun l => b.links.getLsbD l

/-- POST ends. -/
def execPostDone (badColumns : BitVec 16) (badCrypto : CryptoFail) (badOe : BitVec 6) (s : State) : Host.Outcome State Fault Refusal :=
  if !s.inStage 2 then done s
  else
    let cols : List (Fin 16) := (List.finRange 16).filter fun g => badColumns.getLsbD g.val && decide (g.val < s.partNo.cols)
    let s := cols.foldl (fun (s : State) g => s.unitFails (colBit g) 0 g.val false) s
    let s := (List.finRange 6).foldl (fun (s : State) e =>
      if badOe.getLsbD e.val && decide (4 * e.val < s.partNo.ports) then
        let t := (List.finRange 24).foldl (fun (t : State) n =>
          if n.val / 4 = e.val then t.modPort n fun x => { x with state := 5, postFailed := true } else t) s
        t.event (ErrEvent.of ⟨30 + e.val, by omega⟩ 4 7 none (BitVec.ofNat 8 e.val))
      else s) s
    let s := (s.badEngines badCrypto).foldl (fun (s : State) i => s.unitFails 43 0x0B i true) s
    let bad : BitVec 16 := BitVec.ofNat 16 (cols.foldl (fun a g => a + 2 ^ g.val) 0)
    done ({ s with post := { s.post with badCols := bad, badCrypto := badCrypto } }.nextStage 3 1)

/-- Column-shares that hold pseudo-channels of a failed stack or a channel of a failed device (R180, R348). -/
def State.sharesOf (s : State) (badStacks : BitVec 8) (badDevices : BitVec 24) : BitVec 16 :=
  let n := s.partNo.lpShare
  BitVec.ofNat 16 ((List.range 16).foldl (fun a c =>
    if (List.range 8).any (fun k => badStacks.getLsbD k && c / 8 == k / 4)
      || (List.range n).any (fun j => badDevices.getLsbD ((n * c + j) / 4)) then a + 2 ^ c else a) 0)

/-- Every controller is trained or failed, every frame written as a scrub writes it. -/
def execMemoryDone (badStacks : BitVec 8) (badDevices : BitVec 24) (s : State) : Host.Outcome State Fault Refusal :=
  if !s.inStage 3 then done s
  else
    let s := (List.finRange 8).foldl (fun (s : State) k =>
      if badStacks.getLsbD k.val then s.unitFails ⟨16 + k.val, by omega⟩ 1 k.val false else s) s
    let s := (List.finRange 24).foldl (fun (s : State) d =>
      if badDevices.getLsbD d.val then s.unitFails ⟨24 + d.val / 4, by omega⟩ 2 d.val false else s) s
    done ({ s with mem := [], damaged := [], post := { s.post with badShares := s.sharesOf badStacks badDevices } }.nextStage 4 2)

/-- Grace timers of bits latched before READY start (R350). -/
def State.startTimers (s : State) : State :=
  (List.finRange 50).foldl (fun (s : State) b =>
    if s.faults.fsw.getLsbD b.val ∧ !s.faults.acked.getLsbD b.val ∧ s.faults.timer[b] = none then s.armTimer b else s) s

/-- Every processor runs its image: READY. The governor's averages begin (Table 15-4). -/
def execFirmwareDone (s : State) : Host.Outcome State Fault Refusal :=
  if !s.inStage 4 then done s
  else
    let s := (s.nextStage 5 3).nextStage 5 4
    let s := { s with
      mailboxes := Vector.replicate 18 Mailbox.cold, fw := { s.fw with probation := none }
      parts := s.parts.map fun (x : Partition) => ({ x with attributed := [] } : Partition) }
    let s := s.startTimers.emit (.readiness 0)
    done (if s.pins.bifurN then s else s.emit (.readiness 1))

/-- When the running stage began and its limit, in ns. -/
def State.stageLimit (s : State) : Option (Nat × Nat) :=
  match s.start.stage.toNat with
  | 1 => some (s.start.romAt.toNat, 2000000000)
  | 2 => some (s.start.log[0].toNat, 1000000000)
  | 3 => some (s.start.log[1].toNat, 3000000000)
  | 4 => some (s.start.log[2].toNat, 2000000000)
  | _ => none

/-- A stage passes its limit: it stalls with FAULT_N low, or, on probation, ROM starts again from the previous image (R347). In stage RAILS
PWR_GOOD stays low until PWR_EN has gone low (R346). -/
def execStageTimeout (s : State) : Host.Outcome State Fault Refusal :=
  let stall (s : State) : State := { s with start := { s.start with stalled := true }, pins := { s.pins with faultN := false } }
  if !s.pins.pwrGood then done (if s.pins.pwrEn ∧ !s.start.stalled then stall s else s)
  else if s.start.stalled ∨ s.start.waiting then done s
  else
    match s.stageLimit with
    | none => done s
    | some l =>
      let s := s.passTo (65536 * (l.1 + l.2))
      match s.fw.probation with
      | some k => done (s.revertImage k)
      | none => done (stall s)

/-! Pup mode (R339 to R341) -/

/-- PUP_STATUS answers a Pup frame. -/
def State.answerPup (s : State) (f : Frame) : State :=
  let w : BitVec 64 := match s.start.pup with
    | some x => x.status
    | none => 0
  let body := leBytes 8 w.toNat ++ serialBytes ++ leBytes 64 (Config.sha3_512 idPublic).toNat
    ++ [1, 2, 3, 4, 5, 6].flatMap (fun k => s.imageRecord k false) ++ [1, 2, 3, 4, 5, 6].flatMap fun k => s.imageRecord k true
  s.answer (moduleFrame f.path 0x21 0 f.seq 0 0 0 f.sub false 0 288 body)

/-- A Pup request: the module is in Pup mode, and the frame is of its KIND with SID 0 and no tag. -/
def State.pupFrame (s : State) (f : Frame) (kind : BitVec 8) : Option Pup :=
  let way : Bool := match f.path with
    | .vf _ => false
    | _ => true
  if s.start.stage = 7 ∧ way ∧ s.hears f.path ∧ wellFramed f ∧ f.kind = kind ∧ f.sid = 0 ∧ f.tag.all (· == 0) then s.start.pup else none

/-- A Pup frame that is none is discarded; where the dictionary answers, it counts (R290). -/
def State.notPup (s : State) (f : Frame) : State := if s.start.stage = 5 ∧ s.hears f.path then s.discard else s

/-- The state word of Pup mode (Table 14-8). -/
def Pup.word (x : Pup) (state kind result bytes : Nat) : Pup :=
  { x with status := BitVec.ofNat 64 (packFields [(4, state), (4, kind), (8, result), (16, 0), (32, bytes)]) }

/-- A checked image goes to the bank of its KIND that no verifying image occupies, else to the fallback bank, and is selected (R340). -/
def State.pupStore (s : State) (i : Image) : State :=
  let k := i.kind.toNat
  match s.fwBanks k with
  | none => s
  | some b =>
    let bank := if s.verifiesIn k (!b.active) ∧ !s.verifiesIn k b.active then b.active else !b.active
    s.modBanks k fun b => (b.put bank (some i)).select bank

/-- PUP_PUT: one segment; the last one has the image checked and written (R340). -/
def execPupPut (f : Frame) (s : State) : Host.Outcome State Fault Refusal :=
  match s.pupFrame f 0x20 with
  | none => done (s.notPup f)
  | some x =>
    let say (s : State) (y : Pup) : Host.Outcome State Fault Refusal := done ({ s with start := { s.start with pup := some y } }.answerPup f)
    let fresh := f.offset = 0
    let d : Bytes := if fresh then [] else x.data
    let total := if fresh then f.total else x.total
    let kind := if fresh then f.sub else x.kind
    let bad (r : Nat) : Pup := { x with data := [], kind := 0, total := 0 }.word 5 (kind.toNat % 16) r 0
    if f.offset.toNat ≠ d.length ∨ f.total ≠ total ∨ f.sub ≠ kind ∨ crateMax < f.total.toNat then say s (bad rcFormat)
    else
      let d := d ++ f.data
      if f.more then say s ({ x with data := d, kind := kind, total := total }.word 1 (kind.toNat % 16) 0 d.length)
      else if d.length ≠ total.toNat then say s (bad rcFormat)
      else
        let v := s.verifyImage d
        match v.image with
        | none => say s (bad rcFormat)
        | some i =>
          if i.kind ≠ kind then say s (bad rcFormat)
          else if v.result ≠ rcOk then say (if v.result = rcSignature then s.flashEvent else s) (bad v.result)
          else say (s.pupStore i) ({ x with data := [], kind := 0, total := 0 }.word 3 (kind.toNat % 16) rcOk d.length)

/-- PUP_ERASE, only where RECOVERY_N led to Pup mode: the persistent store and the crate (R341). -/
def execPupErase (f : Frame) (s : State) : Host.Outcome State Fault Refusal :=
  match s.pupFrame f 0x22 with
  | none => done (s.notPup f)
  | some x =>
    let say (s : State) (y : Pup) : Host.Outcome State Fault Refusal := done ({ s with start := { s.start with pup := some y } }.answerPup f)
    if x.byPin then
      say { s with dict := s.dict.filter fun e => !persistent e.1, fw := { s.fw with crate := Crate.empty } } (x.word 0 0 rcOk 0)
    else say s (x.word 0 0 rcFormat 0)

/-- PUP_EXIT: rules 1 to 3 of R331 over the whole set, then a restart (R340). -/
def execPupExit (f : Frame) (s : State) : Host.Outcome State Fault Refusal :=
  match s.pupFrame f 0x23 with
  | none => done (s.notPup f)
  | some x =>
    match firstBadIf s.partNo s.activeSet with
    | some d =>
      let w : BitVec 64 := BitVec.ofNat 64 (packFields [(4, 0), (4, 0), (8, rcCompat), (16, d), (32, 0)])
      done ({ s with start := { s.start with pup := some { x with status := w } } }.answerPup f)
    | none =>
      done (({ s with start := { s.start with pup := some (x.word 0 0 rcOk 0) } }.answerPup f).restartModule 3)

end Sys2Proof.Machine
end

