-- ==== Sys2Proof/Machine/PinRows.lean ====
section
/-!
DEFINITION. The module connector (16): power and reset pins (R345 to R347, R355, R357, R358), input voltage (R361), temperatures (R363, R364), PCIe links
(R356, R357), the tray controller bus (R360), the management ports' other packets (R308), the online self-test's end (Table 10-7).
-/

namespace Sys2Proof.Machine

/-! Power and reset -/

/-- PWR_EN rises: stage RAILS begins, the thermal latch clears (R345, R364). -/
def execPwrEnRise (s : State) : Host.Outcome State Fault Refusal :=
  if s.pins.pwrEn then done s
  else done { s with pins := { s.pins with pwrEn := true, thermLatch := false }, start := { s.start with stage := 0, stalled := false } }

/-- PWR_EN falls: the rails go off, whatever runs (R346, R366). -/
def execPwrEnFall (s : State) : Host.Outcome State Fault Refusal :=
  let s := s.railsOff true
  done { s with pins := { s.pins with pwrEn := false } }

/-- Sensor 4, the coolant inlet (Table 16-5). -/
def inletIx : SensorIx := 4

/-- Warning limits in 1/16 °C, in the order of objects 0x9000.10 to .16 (Table 16-5). -/
def warnLimit (k : SensorIx) : Int := 16 * ([95, 95, 95, 90, 45, 68, 80][k.val]?).getD 0

/-- Critical limits. -/
def criticalLimit (k : SensorIx) : Int := 16 * ([105, 105, 105, 100, 50, 75, 90][k.val]?).getD 0

/-- Every rail in its window for 1 ms: PWR_GOOD rises, BIFUR_N and GEO_ADDR are sampled (R346, R355); not while the coolant inlet is beyond its
warning limit (R364), nor with the input below 42 V or above 58 V (R361). An excursion that the input is in counts its 10 ms from here on
(DESIGN CHOICE, log 103). ROM begins once PERST_N is high. -/
def execRailsDone (geo : BitVec 6) (bifurHigh : Bool) (s : State) : Host.Outcome State Fault Refusal :=
  if !s.pins.pwrEn ∨ s.pins.pwrGood ∨ s.start.stalled ∨ warnLimit inletIx < s.power.temps[inletIx].toInt ∨ s.power.input = InputRange.out then done s
  else
    let s := { s with
      up := 0, pins := { s.pins with pwrGood := true, geo := geo, bifurN := bifurHigh }
      power := { s.power with excursion := if s.power.input = InputRange.short then some 0 else none } }
    done (if s.pins.perstN then s.beginRom 0 else s.await 0)

/-- PERST_N asserted: whatever runs is abandoned, every partition stops; its release begins the start (R335, R347, R357). -/
def execPerstAssert (s : State) : Host.Outcome State Fault Refusal :=
  let low (s : State) : State := { s with pins := { s.pins with perstN := false } }
  if !s.pins.pwrGood then done (low s)
  else if s.start.waiting then done (low s)
  else
    let s := s.cold.await 1
    done (low { s with pins := { s.pins with faultN := true } })

/-- PERST_N released: RECOVERY_N is sampled and stage ROM begins (R345, R355). -/
def execPerstRelease (recoveryHigh : Bool) (s : State) : Host.Outcome State Fault Refusal :=
  if s.pins.perstN then done s
  else
    let s := { s with pins := { s.pins with perstN := true, recoveryN := recoveryHigh } }
    if s.pins.pwrGood ∧ s.start.waiting then
      done ({ s with start := { s.start with log := s.start.log.set 5 s.ns } }.beginRom s.start.cause)
    else done s

/-- PERST1_N asserted: link 1's PCIe state and that of its functions; nothing latches (R357). -/
def execPerst1Assert (s : State) : Host.Outcome State Fault Refusal :=
  if s.pins.bifurN ∨ !s.pins.pwrGood then done s
  else
    let gone (b : Nat) : Bool := b == 1 || (decide (2 ≤ b) && s.num (0x2000 + (b - 2)) 3 == 1)
    done { s with
      pins := { s.pins with perst1N := false }
      power := { s.power with pcie := s.power.pcie.set 1 0, trained := s.power.trained &&& 1, dead := s.power.dead &&& 1 }
      mailboxes := Vector.ofFn fun b => if gone b.val then Mailbox.cold else s.mailboxes[b] }

/-- A rail leaves its window (R346). -/
def execRailFault (s : State) : Host.Outcome State Fault Refusal :=
  if s.pins.pwrGood then done (s.railsOff false) else done s

/-- REFCLK is absent or out of range: as a rail fault (R358). In stage RAILS too the rails go off, and PWR_GOOD stays low until PWR_EN has gone
low (R346): the stage does not complete without a valid REFCLK. -/
def execRefclkLoss (s : State) : Host.Outcome State Fault Refusal :=
  if s.pins.pwrEn then done (s.railsOff false) else done s

/-! Input voltage (R361) -/

/-- A cause of a bit ends. -/
def State.endCause (s : State) (b : Nat) : State := { s with faults := { s.faults with persist := s.faults.persist &&& ~~~BitVec.twoPow 64 b } }

/-- The row of Table 16-3 for an input voltage. -/
def inputRange (mv : BitVec 32) : InputRange :=
  let v := mv.toNat
  if 46000 ≤ v ∧ v ≤ 56000 then .full else if 42000 ≤ v ∧ v ≤ 58000 then .short else .out

/-- The input voltage is measured. -/
def State.setInput (s : State) (mv : BitVec 32) : State := { s with power := { s.power with inputMv := mv, input := inputRange mv } }

/-- The input leaves 46 to 56 V: bit 46, or, below 42 V or above 58 V, the rails go off. -/
def execInputExcursion (mv : BitVec 32) (s : State) : Host.Outcome State Fault Refusal :=
  let s := s.setInput mv
  if !s.pins.pwrGood then done s
  else match s.power.input with
    | .full => done s
    | .out => done (s.railsOff false)
    | .short =>
      if s.power.excursion.isSome then done s
      else
        let s := { s with power := { s.power with excursion := some s.ns } }
        done (if s.collects then s.event (ErrEvent.of 46 0x0E 0 none 0) else s)

/-- A dip below 42 V of at most 100 µs is counted. -/
def execInputDip (s : State) : Host.Outcome State Fault Refusal :=
  if s.pins.pwrGood then done { s with power := { s.power with dips := s.power.dips + 1 } } else done s

/-- The input is back within 46 to 56 V. -/
def execInputReturn (mv : BitVec 32) (s : State) : Host.Outcome State Fault Refusal :=
  let s := s.setInput mv
  if s.power.input ≠ InputRange.full then done s
  else done ({ s with power := { s.power with excursion := none } }.endCause 46)

/-- An excursion has lasted 10 ms: the rails go off. -/
def execInputExcursionTimeout (s : State) : Host.Outcome State Fault Refusal :=
  match s.power.excursion with
  | none => done s
  | some t => done ((s.passTo (65536 * (t.toNat + 10000000))).railsOff false)

/-! Temperatures (R363, R364) -/

/-- A sensor that the part number has: CLR-KRG-096S lacks tensor die 1 (Table 16-5). -/
def State.hasSensor (s : State) (k : SensorIx) : Bool := k.val != 1 || s.partNo != .s096

/-- A sensor is beyond its warning limit: THERM_N, bit 47. -/
def State.warm (s : State) (k : SensorIx) (t : BitVec 32) : State :=
  let s := { s with power := { s.power with temps := s.power.temps.set k t } }
  if t.toInt ≤ warnLimit k ∨ s.power.warn.getLsbD k.val then s
  else
    let s := { s with power := { s.power with warn := s.power.warn ||| BitVec.twoPow 7 k.val } }
    if !s.collects then s
    else s.event { ErrEvent.of 47 0x0F 0 none (BitVec.ofNat 8 k.val) with detail := t }

/-- A sensor is at its critical limit: the rails go off, in stage RAILS too, and the input stage's latch holds THERM_N low. -/
def State.critical (s : State) (k : SensorIx) (t : BitVec 32) : State :=
  let s := s.warm k t
  if t.toInt < criticalLimit k ∨ !s.pins.pwrEn then s
  else
    let s := s.railsOff false
    { s with pins := { s.pins with thermLatch := true } }

/-- A sensor goes beyond its warning limit. -/
def execThermalWarning (k : SensorIx) (t : BitVec 32) (s : State) : Host.Outcome State Fault Refusal :=
  done (if s.hasSensor k then s.critical k t else s)

/-- A sensor reaches its critical limit. -/
def execThermalCritical (k : SensorIx) (t : BitVec 32) (s : State) : Host.Outcome State Fault Refusal :=
  done (if s.hasSensor k then s.critical k t else s)

/-- Every sensor lies 3 °C below its warning limit: THERM_N is released, the cause of bit 47 ends. `temps` are the seven readings. -/
def execThermalWarningClear (temps : List (BitVec 32)) (s : State) : Host.Outcome State Fault Refusal :=
  let now : Vector (BitVec 32) 7 := Vector.ofFn fun i => if s.hasSensor i then (temps[i.val]?).getD s.power.temps[i] else s.power.temps[i]
  let s := { s with power := { s.power with temps := now } }
  if (List.finRange 7).all fun k => !s.hasSensor k || decide (now[k].toInt ≤ warnLimit k - 48) then
    done ({ s with power := { s.power with warn := 0 } }.endCause 47)
  else done s

/-- THERM_N is low (R363, R364). -/
def State.thermLow (s : State) : Bool := s.pins.thermLatch || (s.pins.pwrGood && s.power.warn != 0)

/-! PCIe links -/

/-- A rate and a width at which a link trains: codes 1 to 6, and x16 or, with BIFUR_N low, x8 (R356, 0x9000.31). -/
def State.trains (s : State) (link : Fin 2) (rate width : BitVec 4) : Bool :=
  s.pins.pwrGood && s.pins.perstN && (link.val == 0 || !s.pins.bifurN) && decide (1 ≤ rate.toNat ∧ rate.toNat ≤ 6)
    && width == (if s.pins.bifurN then 4 else 3)

/-- A link has trained: the cause of bit 36 ends, and its functions complete requests again. -/
def execPcieLinkUp (link : Fin 2) (rate width : BitVec 4) (s : State) : Host.Outcome State Fault Refusal :=
  if !s.trains link rate width then done s
  else
    let s := { s with
      pins := if link.val = 1 then { s.pins with perst1N := true } else s.pins
      power := { s.power with
        pcie := s.power.pcie.set link (BitVec.ofNat 8 (rate.toNat + 16 * width.toNat))
        trained := s.power.trained ||| BitVec.twoPow 2 link.val
        dead := s.power.dead &&& ~~~BitVec.twoPow 2 link.val } }
    done (if (List.finRange 2).any fun l => s.power.trained.getLsbD l.val && s.power.pcie[l] == 0 then s else s.endCause 36)

/-- A trained link is lost: bit 36 (R357). -/
def execPcieLinkDown (link : Fin 2) (s : State) : Host.Outcome State Fault Refusal :=
  if !s.pins.pwrGood ∨ s.power.pcie[link] = 0 then done s
  else
    let s := { s with power := { s.power with pcie := s.power.pcie.set link 0 } }
    done (if s.collects then s.event (ErrEvent.of 36 5 0 none (BitVec.ofNat 8 link.val)) else s)

/-! The tray controller bus (Table 16-2) -/

/-- One bit of the packet error code: polynomial x^8 + x^2 + x + 1. -/
def pecBit (c : Byte) : Byte := if c.getLsbD 7 then (c <<< 1) ^^^ 0x07 else c <<< 1

/-- Packet error code of the answer `b` to a command at address 0x5A: the write address, the command, the read address, the bytes (R360).
PRESUMED (log 60): as SMBus 3.1 computes it. -/
def smbPec (cmd : Byte) (b : Bytes) : Byte :=
  ([0xB4, cmd, 0xB5] ++ b).foldl (fun c x => (List.range 8).foldl (fun c _ => pecBit c) (c ^^^ x)) 0

/-- The target answers only while PWR_GOOD is high (R360). -/
def State.smbus (s : State) (cmd : Byte) (b : Bytes) : State := if s.pins.pwrGood then s.emit (.smbus b (smbPec cmd b)) else s

/-- A block read: the number of bytes, then the bytes. -/
def smbBlock (b : Bytes) : Bytes := BitVec.ofNat 8 b.length :: b

def execSmbStatus (s : State) : Host.Outcome State Fault Refusal :=
  let gov := (List.finRange 16).any fun p => (s.part p).govHold
  done (s.smbus 0x00 (leBytes 1 (packFields [(3, s.start.stage.toNat), (1, s.thermLow.toNat), (1, (!s.pins.faultN).toNat), (1, gov.toNat), (2, 0)])))

def execSmbPower (s : State) : Host.Outcome State Fault Refusal := done (s.smbus 0x10 (leBytes 2 s.power.now.toNat))

def execSmbVoltage (s : State) : Host.Outcome State Fault Refusal := done (s.smbus 0x11 (leBytes 2 (s.power.inputMv.toNat / 10)))

/-- The hottest of the sensors that the part number has. -/
def State.hottest (s : State) : BitVec 32 :=
  ((List.finRange 7).filter s.hasSensor).foldl (fun a k => if a.toInt < s.power.temps[k].toInt then s.power.temps[k] else a) s.power.temps[0]

def execSmbHottest (s : State) : Host.Outcome State Fault Refusal := done (s.smbus 0x20 (leBytes 2 s.hottest.toNat))

def execSmbInlet (s : State) : Host.Outcome State Fault Refusal := done (s.smbus 0x21 (leBytes 2 s.power.temps[4].toNat))

def execSmbOutlet (s : State) : Host.Outcome State Fault Refusal := done (s.smbus 0x22 (leBytes 2 s.power.temps[5].toNat))

def execSmbFsw (s : State) : Host.Outcome State Fault Refusal := done (s.smbus 0x30 (smbBlock (leBytes 8 s.faults.fsw.toNat)))

def execSmbSerial (s : State) : Host.Outcome State Fault Refusal := done (s.smbus 0x40 (smbBlock serialBytes))

def execSmbPartNumber (s : State) : Host.Outcome State Fault Refusal := done (s.smbus 0x41 (smbBlock (padTo 16 s.partNo.name)))

/-! Other packets of the management ports (R308) -/

/-- Neighbor Discovery and Echo are answered; anything else is discarded. An address
is 16 bytes, the first one lowest. -/
def execIcmpv6Message (port : Fin 2) (m : Icmp) (s : State) : Host.Outcome State Fault Refusal :=
  match m with
  | .neighborSolicit a => done (if s.answersOn port a then s.emit (.icmp port (some a) a []) else s)
  | .echoRequest peer a d => done (if s.answersOn port a ∧ (s.nextHop port peer).isSome then s.emit (.icmp port (s.nextHop port peer) a d) else s)
  | .other => done s

/-! The online self-test (Table 10-7) -/

/-- The self-test ends: the verdict and its time, and every cell at zero; the diagnostic view of frozen cells is over. -/
def execSelfTestDone (pass : Bool) (s : State) : Host.Outcome State Fault Refusal :=
  if s.selfVerdict ≠ 1 then done s
  else done { s.endTest (if pass then 2 else 3) with selfTime := s.heelNow }

end Sys2Proof.Machine
end

