-- ==== Sys2Proof/Machine/Receive.lean ====
section
/-!
DEFINITION. Sequenced flits received: acceptance and delivery in order (R218, R223), messages rebuilt and opened (R234, R240, R241), transit
(R216), and the rows DATA_FLIT_RECEIVE, RESYNC_ITEM, PEER_ITEM, KENNEL_ITEM, BARRIER_ARRIVE_ITEM and BARRIER_RELEASE_ITEM.
-/

namespace Sys2Proof.Machine

/-! Messages -/

/-- The bytes of a message in OFF order, once every flit from 0 to the last is held. -/
def wholeMessage (fs : List MsgFlit) : Option Bytes :=
  match fs.find? (·.last) with
  | none => none
  | some l =>
    let parts := (List.range (l.off.toNat + 1)).map fun i => fs.find? fun f => f.off.toNat == i
    if parts.all (·.isSome) then some ((parts.filterMap id).flatMap (·.data)) else none

/-- A VC0 transfer has come, verified or not: its number on its tag within the step (R124, R241). -/
def State.numberVc0 (s : State) (p : PartIx) (cell : BitVec 8) (tag : BitVec 16) : State × Nat :=
  (s.modPart p fun x => { x with rxKth := x.rxKth ++ [((cell, tag), s.heelNow)] },
    ((s.part p).rxKth.filter fun e => e.1 == (cell, tag)).length)

/-- A VC0 message enters the cells' waiting transfers, numbered on its tag within the step (R124). -/
def State.takeVc0 (s : State) (p : PartIx) (cell : BitVec 8) (tag : BitVec 16) (data : Bytes) : State × Nat :=
  let r := s.numberVc0 p cell tag
  let k := r.2
  let gs := (List.range (data.length / 256)).map fun j =>
    (cell, tag, k, BitVec.ofNat 12 j, granuleOf ((data.drop (256 * j)).take 256))
  (r.1.modPart p fun x => { x with vc0In := x.vc0In ++ gs }, k)

/-- DEDUCED (log 21): a VC2 message whose tag fails is taken for the answer to the request to its sender that is outstanding under its TXID;
that request ends as LINK_LOST (R241). -/
def State.lostVc2 (s : State) (p : PartIx) (src : BitVec 14) (txid : BitVec 12) : State :=
  if (s.part p).vc2.out.any fun r => r.txid == txid && mqDev r.entry == src then s.endVc2 p txid 1 0 0 else s

/-- A message whose tag fails is discarded: bit 43, TAG_FAIL of the port that brought its last flit, and what R241 says of its channel. A VC0
transfer counts on its tag, so that no other one takes its DRCV. -/
def State.failMsg (s : State) (m : RxMsg) (cell : BitVec 8) : State :=
  let n : PortIx := match m.flits.getLast? with
    | some f => f.port
    | none => 0
  let s := (s.freeMsg m.vc m.flits).modPort n fun x => { x with tagFail := x.tagFail + 1 }
  let s := (s.event (ErrEvent.of 43 0x0B 4 (some m.part) (BitVec.ofNat 8 n.val))).report m.part m.src 7 1
  if m.vc = 0 then (s.numberVc0 m.part cell m.tag).1
  else if m.vc = 1 then s.lostVc1 m.part
  else if m.vc = 2 then s.lostVc2 m.part m.src (m.tag.setWidth 12)
  else s

/-- The data of a whole message under the link key of its phase, if it verifies; without a key none does (R240, R242). -/
def State.unseal (s : State) (m : RxMsg) (bs : Bytes) : Option Bytes :=
  let hd := bs.take 16
  let len := recField hd 104 24
  let iv := linkIv (BitVec.ofNat 64 (recField hd 0 64)) (BitVec.ofNat 14 (recField hd 64 14)) m.vc.toNat
  match (s.part m.part).keys.linkKey[two m.kph] with
  | some k =>
    if bs.length = len + 32 then
      Config.gcmOpen k iv hd ((bs.drop 16).take len) (BitVec.ofNat 128 (leNat ((bs.drop (16 + len)).take 16)))
    else none
  | none => none

/-- A message whose last missing flit has come: its tag is verified, then it is handed on (R234, R240, R241). A VC0 message for no cell of
this module's plan is discarded; a VC2 message is a row of its own. -/
def State.openMsg (s : State) (m : RxMsg) (bs : Bytes) : State × RxMsg :=
  let cell : BitVec 8 := BitVec.ofNat 8 (recField bs 78 8)
  match s.unseal m bs with
  | none => (s.failMsg m cell, m.spent)
  | some data =>
    if m.vc = 0 ∧ s.ownsCol m.part (cell.toNat % 16) ∧ cell.toNat < 192 then
      let r := s.takeVc0 m.part cell m.tag data
      (r.1, { m with whole := true, cell := cell, kth := r.2 })
    else
      let s := s.freeMsg m.vc m.flits
      (if m.vc = 1 then (s.takeVc1 m.part m.src data).gatherUp m.part [] else s, m.spent)

/-- A data flit for a partition of this module joins its message; one whose OFF is held already is discarded (R234). -/
def State.gather (s : State) (p : PartIx) (n : PortIx) (f : Flit) (src : BitVec 14) (ctr : BitVec 64) : State :=
  let same (m : RxMsg) : Bool := m.part == p && m.src == src && m.vc == f.vc && m.ctr == ctr && m.kph == f.kph
  let tag : BitVec 16 := if f.vc = 2 then (f.tag.extractLsb' 0 12).setWidth 16 else f.tag
  let m : RxMsg := (s.msgs.find? same).getD ⟨p, src, f.vc, ctr, tag, f.kph, [], false, 0, 0, false⟩
  if m.whole || m.dead || m.flits.any (fun g => g.off == f.off) then
    s.freeUnits n (ownIx f.owner) ⟨f.vc.toNat, by have := f.vc.isLt; omega⟩ 4
  else
    let m := { m with flits := m.flits ++ [⟨f.off, f.payload.take f.len.toNat, f.last, n, f.owner, 4⟩] }
    let s := { s with msgs := s.msgs.filter fun r => !same r }
    match wholeMessage m.flits with
    | none => { s with msgs := s.msgs ++ [m] }
    | some bs => let r := s.openMsg m bs; { r.1 with msgs := r.1.msgs ++ [r.2] }

/-! Delivery in order (R223) -/

/-- A data flit: for a partition of this module it joins its message, else it goes on through the transit map, in the entry of its job, or is
discarded and counted (R216). -/
def State.deliverData (s : State) (n : PortIx) (f : Flit) (src : BitVec 14) (ctr : BitVec 64) : State :=
  let ch : Chan := ⟨f.vc.toNat, by have := f.vc.isLt; omega⟩
  match s.forSelf n f.owner f.dst with
  | some p => s.gather p n f src ctr
  | none =>
    let job := (s.ownerAt n f.owner).job
    match (s.transitOf job f.dst).bind fun r => (s.jobIx r.1 job).map fun w => (r, w) with
    | none => (s.freeUnits n (ownIx f.owner) ch 4).modPort n fun x => { x with discarded := x.discarded + 1 }
    | some (r, w) =>
      let m := s.portFor r.1 r.2 w f.vc.toNat
      s.enqueue m.1 ⟨.data { f with owner := m.2 }, ch, m.2, none, r.1, r.2, .transit n f.owner ch 4⟩

/-- What a sequenced flit does as it is delivered; a BYP item frees its unit once it has been processed (R218). -/
def State.deliver (s : State) (n : PortIx) (b : RxBody) : State :=
  let free (t : State) : State := let r := s.rxPlace n b; t.freeUnits n r.1 r.2.1 r.2.2
  match b with
  | .data f src ctr => s.deliverData n f src ctr
  | .resync w next counts => free (s.applyResync n (ownIx w) next counts)
  | .kennel k => free (s.takeKennel n k)
  | .arrive b => free (s.takeArrive n b)
  | .release b => free (s.takeReleaseItem n b)
  | .peer i => free (s.takePeer n i)

/-- Flits are delivered from NEXT on, as far as they have come; at most `k`. -/
def State.deliverNext (n : PortIx) : Nat → State → State
  | 0, s => s
  | k + 1, s =>
    let x := s.port n
    match x.rxHeld.find? fun h => h.1 == x.rxNext with
    | none => s
    | some h =>
      State.deliverNext n k ((s.setPort n { x with rxNext := x.rxNext + 1, rxHeld := x.rxHeld.filter fun g => g.1 != h.1 }).deliver n h.2)

/-- A sequenced flit is taken if its number is within the window and new and there is space (R218, R223); it waits in the pool for its turn. -/
def State.accept (s : State) (n : PortIx) (sqn : BitVec 20) (b : RxBody) : State :=
  let x := s.port n
  let r := s.rxPlace n b
  if !x.accepts sqn then s
  else if !s.room n r.1 r.2.1 r.2.2 then s.setPort n { x with noSpace := x.noSpace + 1 }
  else
    let y := { (x.modChan r.1 r.2.1 fun k => { k with rocc := k.rocc + r.2.2 }) with rxHeld := x.rxHeld ++ [(sqn, b)] }
    (s.setPort n y).deliverNext n (x.rxHeld.length + 1)

/-! The rows -/

/-- A codeword that the decoder corrects: up to 15 symbol errors (R207). -/
def correctable (c : Codeword) : Bool := decide (c.errors ≤ 15)

/-- The flit is uncorrectable: a codeword of it cannot be corrected, or its CRC fails (R207, R208). -/
def rxBad : RxFlit → Bool
  | .uncorrectable => true
  | .flit f crc _ _ cs => cs.any (fun c => !correctable c) || crc != crc64 (flitBytes f)

/-- Symbols that the decoder has corrected with this flit. -/
def rxSymbols : RxFlit → Nat
  | .uncorrectable => 0
  | .flit _ _ _ _ cs => (cs.filter fun c => c.fresh && correctable c).foldl (fun a c => a + c.errors) 0

/-- One flit time of a port: the error window counts it (R229) and an uncorrectable one is discarded unread, the port going down if the
window holds too many. Idle flits and those of reserved kinds end here, as does every data flit under the device Muzzle (R319). -/
def execDataFlitReceive (n : PortIx) (r : RxFlit) (s : State) : Host.Outcome State Fault Refusal :=
  if !s.hasPort n ∨ (s.port n).state ≠ 3 then done s
  else
    let s := (s.tickWindow n (rxBad r)).modPort n fun x => { x with
      corrected := x.corrected + BitVec.ofNat 64 (rxSymbols r), uncorr := x.uncorr + BitVec.ofNat 64 (rxBad r).toNat }
    if rxBad r then done (if s.num 0x3400 1 < (s.port n).errNow then s.portDown n 1 else s)
    else
      match r with
      | .uncorrectable => done s
      | .flit f _ src ctr _ =>
        if f.ft ≠ 0 ∨ f.vc = 3 ∨ s.faults.muzzle then done s else done (s.accept n f.sqn (.data f src ctr))

/-- RESYNC (R221). -/
def execResyncItem (n : PortIx) (owner : BitVec 3) (sqn next : BitVec 20) (counts : List (Option ChanCount)) (s : State) :
    Host.Outcome State Fault Refusal :=
  if !s.hasPort n ∨ (s.port n).state ≠ 3 then done s else done (s.accept n sqn (.resync owner next counts))

/-- PEER (R269). -/
def execPeerItem (n : PortIx) (i : Sequenced PeerItem) (s : State) : Host.Outcome State Fault Refusal :=
  if !s.hasPort n ∨ (s.port n).state ≠ 3 then done s else done (s.accept n i.sqn (.peer i.item))

/-- KENNEL (R173). -/
def execKennelItem (n : PortIx) (k : KennelItem) (s : State) : Host.Outcome State Fault Refusal :=
  if !s.hasPort n ∨ (s.port n).state ≠ 3 then done s else done (s.accept n k.sqn (.kennel k))

/-- A child's BARRIER_ARRIVE (R252). -/
def execBarrierArriveItem (n : PortIx) (b : Sequenced BarrierItem) (s : State) : Host.Outcome State Fault Refusal :=
  if !s.hasPort n ∨ (s.port n).state ≠ 3 then done s else done (s.accept n b.sqn (.arrive b.item))

/-- A BARRIER_RELEASE from above (R253). -/
def execBarrierReleaseItem (n : PortIx) (b : Sequenced BarrierItem) (s : State) : Host.Outcome State Fault Refusal :=
  if !s.hasPort n ∨ (s.port n).state ≠ 3 then done s else done (s.accept n b.sqn (.release b.item))

end Sys2Proof.Machine
end

