-- ==== Sys2Proof/Machine/Request.lean ====
section
/-!
DEFINITION. Requests to objects (12): rights (R288, R295), staged writes (R300, R301, R369), writes that take effect at once (R297) with the effect
each object has, reads, and the rows that are one object's read or write; the mailbox doorbell (R296).
-/

namespace Sys2Proof.Machine

/-! Rights -/

def Right.reads : Right → Bool
  | .r | .x => true
  | _ => false

def Right.writes : Right → Bool
  | .w | .x => true
  | _ => false

/-- Right of a role (R288). -/
def ObjDef.right (d : ObjDef) (role : BitVec 4) : Right :=
  if role = roleFm then d.fm else if role = roleH then d.h else if role = roleT then d.t else d.o

/-- The object belongs to a unit that the part number lacks (R3). -/
def State.absent (s : State) (i sub : Nat) : Bool :=
  match partOfIndex i, portOfIndex i with
  | some p, _ => decide (s.partNo.partitions ≤ p.val)
  | none, some n => decide (s.partNo.ports ≤ n.val)
  | none, none => (i == 0x6003 && decide (s.partNo.partitions < sub)) || (i == 0x9000 && sub == 0x11 && s.partNo.cols == 8)

/-- Writes that a bootstrap session may make, and the Host's right to FM_KEY (R295). -/
def State.keyRule (s : State) (x : Session) (i sub : Nat) : Bool :=
  if i = 0x1050 ∧ sub = 1 then x.role != roleH || (s.obj 0x1050 1).isEmpty
  else if x.bootstrap then i == 0x1100 || (i == 0x1050 && (sub == 2 || sub == 3))
  else true

/-- A request names an object that it may read or write. -/
def State.access (s : State) (x : Session) (f : Frame) (write : Bool) : Status :=
  let i := f.index.toNat
  let sub := f.sub.toNat
  if x.role = roleT ∧ ((match partOfIndex i with | some p => p != x.part | none => false) || (i == 0x6003 && decide (1 ≤ sub ∧ sub ≤ 16)
      && sub != x.part.val + 1)) then stAbsent
  else match objDef i sub with
    | none => stNoObject
    | some d =>
      if s.absent i sub then stAbsent
      else if write then (if (d.right x.role).writes && s.keyRule x i sub then stOk else stDenied)
      else if (d.right x.role).reads then stOk else stDenied

/-! Reads -/

/-- The staged copy that a READ with STAGED = 1 returns (R300). -/
def Session.copyOf (x : Session) (f : Frame) : Option Bytes :=
  if f.staged then x.staging.bind fun g => (g.objs.find? fun o => o.index == f.index && o.sub == f.sub).map (·.value) else none

/-- A read of an object. -/
def State.readObj (s : State) (x : Session) (f : Frame) : Reply :=
  let i := f.index.toNat
  let sub := f.sub.toNat
  let st := s.access x f false
  if st ≠ stOk then ⟨st, [], s⟩
  else if x.role = roleT ∧ i = 0x6002 ∧ !(s.faults.firstError.getLsbD 0 && (s.faults.firstError.extractLsb' 28 4).toNat == x.part.val) then
    ⟨stAbsent, [], s⟩
  else if x.role = roleT ∧ i = 0xF010 ∧ sub ≠ 1 ∧ selPart (s.diagOf x) ≠ x.part then ⟨stAbsent, [], s⟩
  else if i = 0xF010 ∧ sub = 2 then
    let r := s.diagData (s.diagOf x) f.len.toNat
    ⟨r.1, r.2, s⟩
  else match x.copyOf f with
    | some v => ⟨stOk, v, s⟩
    | none => ⟨stOk, s.valueOf x i sub, s⟩

/-! Staged writes (R300, R301, R369) -/

/-- A staging session whose set changes (Table 12-15). -/
def Staging.touch (g : Staging) : Staging :=
  if g.state = 2 then { g with state := 1, reserved := false }
  else if g.state = 4 then { g with state := 1, objs := [] }
  else { g with state := 1 }

/-- Bytes staged. -/
def stagedBytes (l : List StagedObj) : Nat := l.foldl (fun a o => a + o.value.length) 0

/-- A staged object is written. -/
def State.stage (s : State) (x : Session) (f : Frame) (v : Bytes) : Status × State :=
  match x.staging with
  | none => (stNotStaged, s)
  | some g =>
    if g.state = 3 then (stBusy, s)
    else
      let t := g.touch
      let objs := stageObj ⟨f.index, f.sub, v⟩ t.objs
      if 256 < objs.length ∨ 1048576 < stagedBytes objs then (stBusy, s)
      else (stOk, s.modStaging x.sid fun _ => { t with objs := objs })

/-- STG_OPEN (R301). -/
def State.stgOpen (s : State) (x : Session) (v : Nat) : Status × State :=
  match x.staging with
  | none =>
    if v = 0 then (stOk, s)
    else if 16 ≤ (s.sessions.filter fun y => y.staging.isSome).length then (stBusy, s)
    else (stOk, s.modSession x.sid fun y => { y with staging := some Staging.opened })
  | some g =>
    if v = 1 then (stOk, s)
    else
      let orphan : List OrphanCommit := match g.on with
        | some p => if g.state = 3 then [⟨g.step, p, g.objs, x.role, g.order⟩] else []
        | none => []
      (stOk, { s with orphans := s.orphans ++ orphan }.modSession x.sid fun y => { y with staging := none })

/-- STG_CLOCK: as a staged object (R369). -/
def State.stgClock (s : State) (x : Session) (v : Nat) : Status × State :=
  if v ≠ 0xFF ∧ (s.partNo.partitions ≤ v ∨ (x.role = roleT ∧ v ≠ x.part.val)) then (stRange, s)
  else match x.staging with
    | none => (stNotStaged, s)
    | some g =>
      if g.state = 3 then (stBusy, s)
      else (stOk, s.modStaging x.sid fun _ => { g.touch with clock := BitVec.ofNat 8 v })

/-! Writes that take effect at once (R297) -/

/-- Notices that waited go to the first subscriber (R307). -/
def State.subscribe (s : State) (x : Session) : State :=
  let s := s.modSession x.sid fun y => { y with notify := true }
  let t := s.unheard.foldl (fun (t : State) n => match t.session x.sid with
    | none => t
    | some y =>
      let m : Notice := { n with seq := y.noticeSeq + 1 }
      (t.modSession x.sid fun y => { y with noticeSeq := y.noticeSeq + 1, notices := keepNotices (y.notices ++ [m]) }).sendNotice y m) s
  { t with unheard := [] }

/-- PLAN_IMAGE (R145, R268, R349). -/
def State.startLoad (s : State) (p : PartIx) (v : Bytes) : Status × State :=
  let x := s.part p
  if x.load.isSome ∨ x.oldPlan.isSome then (stBusy, s)
  else
    let s := s.setObj (0x2000 + p.val) 0x34 v
    if x.partState ≠ 1 then (stOk, s)
    else (stOk, s.setPart p { x with load := some ⟨BitVec.ofNat 64 (recField v 0 64), BitVec.ofNat 64 (recField v 64 64)⟩, loadStatus := 0xFE })

/-- SWAP (Table 8-8, R190). -/
def State.swap (s : State) (p : PartIx) (v : Bytes) : Status × State :=
  let slot : Fin 2 := ⟨recField v 0 1 % 2, Nat.mod_lt _ (by decide)⟩
  let src := recField v 32 32
  let n := recField v 64 64
  if recField v 1 31 ≠ 0 ∨ n = 0 ∨ (s.region p (rgModel slot)).size < n ∨ (s.region p rgLibrary).size < 2097152 * src + n then (stRange, s)
  else if s.slotBusy p slot ∨ s.libraryBusy p (2097152 * src) n then (stBusy, s)
  else
    let j : SwapJob := ⟨slot.val == 1, (s.part p).stepNow, BitVec.ofNat 64 src, BitVec.ofNat 64 n, false, false, 0⟩
    (stOk, ((s.modPart p fun x => { x with swaps := x.swaps ++ [j] }).setObj (0x2000 + p.val) 0x53 v).slotsNow p)

/-- WLOAD (R198): on a module that fetches from its host; `m` is what the handle's bytes read as. DESIGN CHOICE (log 74): under the device
Muzzle, when the handle cannot be read, the answer is BUSY. -/
def State.wload (s : State) (p : PartIx) (v : Bytes) (m : Option Bytes) : Status × State :=
  let fetch : Bool := match s.ingestEntry p with
    | some d => d.fetch
    | none => false
  if (s.part p).loadStatus = 0 ∧ !fetch then (stRange, s)
  else if s.faults.muzzle then (stBusy, s)
  else
    let b := (m.filter fun b => b.length == recField v 64 64).getD []
    (stOk, (s.setObj (0x2000 + p.val) 0x55 v).startIngest p b)

/-- IN_WR that the step record gives the Bark stream of an entry (R161, R176). -/
def Kennel.stepIn (k : Kennel) (e : BitVec 12) : BitVec 64 :=
  match k.bark.find? fun b => b.entry == e with
  | some b => b.inWr
  | none => 0

/-- The capture of a step (R264). DESIGN CHOICE (log 38): its layout. -/
def State.captureOf (s : State) (p : PartIx) (i : BoundaryImage) : Bytes :=
  let used := i.hooks.filter fun h => h.occupied
  let free (l : List (BitVec 64)) : Bytes := leBytes 4 l.length ++ l.flatMap fun a => leBytes 8 a.toNat
  leBytes 64 i.plan.toNat ++ leBytes 8 i.step.toNat ++ leBytes 2 i.variant.toNat ++ leBytes 2 i.hooks.length
    ++ i.hooks.flatMap (fun h => [BitVec.ofNat 8 h.occupied.toNat] ++ leBytes 2 h.entry.toNat ++ leBytes 4 h.length.toNat
      ++ leBytes 2 h.seed.toNat ++ [h.draft] ++ leBytes 8 (i.kennel.stepIn h.entry).toNat)
    ++ i.kennel.entries.flatMap (fun w => leBytes 64 w.toNat) ++ free i.kennel.kvFree ++ free i.kennel.susFree
    ++ used.flatMap (fun h => s.readV p (s.block p h.entry.toNat) 65536)
    ++ used.flatMap (fun h => seedDigest ((i.kennel.seeds[h.seed.toNat]?).getD 0))
    ++ i.seedsUsed.flatMap (fun e => leBytes 2 e.toNat ++ seedDigest ((i.kennel.seeds[e.toNat]?).getD 0))
    ++ leBytes 2 i.seedsUsed.length

/-- CAPTURE (R264): the step that the handle's argument names, from c - 1 to c + 1. Under the device Muzzle it is answered BUSY (log 74). -/
def State.capture (s : State) (p : PartIx) (v : Bytes) : Status × State :=
  let n : BitVec 64 := BitVec.ofNat 64 (recField v 128 64)
  if s.faults.muzzle then (stBusy, s)
  else if 2 < (n + 1 - (s.part p).stepCommitted).toNat then (stRange, s)
  else match (s.part p).images.find? fun i => i.step == n with
  | none => (stRange, s)
  | some i =>
    let b := s.captureOf p i
    if recField v 64 64 < b.length then (stRange, s)
    else (stOk, (s.setObj (0x2000 + p.val) 0x7A v).writeHost p (BitVec.ofNat 64 (recField v 0 64)) b)

/-- VERDICT (R270). -/
def State.verdict (s : State) (v : Bytes) : Status × State :=
  if recField v 48 16 ≠ 0 ∨ 1 < recField v 46 2 then (stRange, s)
  else (stOk, { s with openReports := s.openReports.filter fun r => !(r.job.toNat == recField v 0 32 && r.suspect.toNat == recField v 32 14) })

/-- SELF_TEST (Table 10-7). -/
def State.selfTest (s : State) (v : Nat) : Status × State :=
  if v ≠ 1 then (stRange, s)
  else if s.parts.toList.any fun x => x.busy then (stBusy, s)
  else (stOk, { s with selfVerdict := 1 })

/-- SVN_RAISE (R338). -/
def State.svnRaise (s : State) (k : Nat) : Status × State :=
  if k < 1 ∨ 6 < k then (stRange, s)
  else match s.activeImage k with
    | none => (stRange, s)
    | some i =>
      if i.svn ≤ (s.fw.svnFused.toList[k - 1]?).getD 0 then (stRange, s)
      else (stOk, { s with fw := { s.fw with svnFused := Vector.ofFn fun j => if j.val + 1 = k then i.svn else s.fw.svnFused[j] } })

/-- RESTART (R335). -/
def State.restartBy (s : State) (v : Nat) : Status × State :=
  if v = 1 then
    if s.parts.toList.all fun x => x.jobState == 0 || x.jobState == 3 then (stOk, s.restartModule 2) else (stBusy, s)
  else if v = 2 then (stOk, s.restartModule 3)
  else (stRange, s)

/-- CRATE_PUT (R333): `b` is what the handle's bytes read as. DESIGN CHOICE (log 36): a handle that cannot be read whole is answered RANGE.
Under the device Muzzle it is answered BUSY (log 74). -/
def State.cratePut (s : State) (v : Bytes) (b : Option Bytes) : Status × State :=
  if s.faults.muzzle then (stBusy, s)
  else match b.filter fun b => b.length == recField v 64 64 && decide (b.length ≤ crateMax) with
  | none => (stRange, s)
  | some b => (stOk, s.fillCrate b)

/-- CRATE_CHECK (R334). -/
def State.crateCheck (s : State) (v : Nat) : Status × State :=
  if v = 0 then (stOk, s) else if s.fw.crate.state = 2 then (stOk, s.checkCrate) else (stRange, s)

/-- CRATE_ARM (R334). -/
def State.crateArm (s : State) (v : Nat) : Status × State :=
  let set (k : BitVec 4) : State := { s with fw := { s.fw with crate := { s.fw.crate with state := k } } }
  if v = 1 then (if s.fw.crate.state = 3 then (stOk, set 4) else (stRange, s))
  else (stOk, if s.fw.crate.state = 4 then set 3 else s)

/-- ATT_REQ (R343). -/
def State.attReq (s : State) (x : Session) (v : Bytes) : Status × State :=
  let scope := recField v 256 8
  let sel := scope / 16 % 2 = 1
  if x.role = roleT ∧ (!sel ∨ scope % 16 ≠ x.part.val) then (stAbsent, s)
  else if recField v 261 123 ≠ 0 then (stRange, s)
  else if sel ∧ s.partNo.partitions ≤ scope % 16 then (stAbsent, s)
  else (stOk, s.modSession x.sid fun y => { y with report := s.attest scope (v.take 32) })

/-- DIAG_SEL (R309). -/
def State.selectDiag (s : State) (x : Session) (v : Bytes) : Status × State :=
  if 10 < recField v 12 4 then (stRange, s)
  else if (x.role = roleT ∧ recField v 0 4 ≠ x.part.val) ∨ s.partNo.partitions ≤ recField v 0 4 then (stAbsent, s)
  else
    let w : BitVec 64 := BitVec.ofNat 64 (leNat v)
    (stOk, if x.role = roleT then s.modPart x.part fun y => { y with diagSel := w } else { s with diagSel := w })

/-- Form of a value that is not staged: its type and, where the object's table lays it out, its whole length. -/
def writeLen (i sub : Nat) (v : Bytes) : Bool :=
  match baseIndex i, sub with
  | 0x2000, 0x53 | 0xF020, _ => v.length == 16
  | 0x8000, 0x21 | 0xF010, 0x01 => v.length == 8
  | 0x7000, 0x30 => v.length == 48
  | _, _ => match objDef i sub with
    | some d => (match d.type with
      | .num n => v.length == n
      | .bool => v.length == 1
      | .handle => v.length == 32
      | .str n | .blob n => decide (v.length ≤ n))
    | none => false

/-- A BOOL other than 0 and 1, reserved bits of a handle, an argument that is no step number (Table 12-1). -/
def badForm (i sub : Nat) (v : Bytes) : Bool :=
  match objDef i sub with
  | some d => (match d.type with
    | .bool => decide (1 < leNat v)
    | .handle => recField v 192 64 != 0 || (sub != 0x7A && recField v 128 64 != 0)
    | _ => false)
  | none => false

/-- Effect of a write of an object of a partition that is not staged. -/
def State.writePart (s : State) (p : PartIx) (sub : Nat) (v : Bytes) (host : Option Bytes) : Status × State :=
  match sub with
  | 0x34 => s.startLoad p v
  | 0x49 => if s.pnum p 0x41 ≤ leNat v then (stRange, s) else (stOk, s.modKen p fun k => { k with kenSel := BitVec.ofNat 16 (leNat v) })
  | 0x53 => s.swap p v
  | 0x55 => s.wload p v host
  | 0x7A => s.capture p v
  | _ => (stDenied, s)

/-- Effect of a write of any other object that is not staged. -/
def State.writeMod (s : State) (x : Session) (i sub : Nat) (v : Bytes) (host : Option Bytes) : Status × State :=
  let w := leNat v
  match i, sub with
  | 0x1060, 0x20 =>
    (stOk, if w = 0 then s.modSession x.sid fun y => { y with notify := false, notices := [] } else if x.notify then s else s.subscribe x)
  | 0x1100, 0x01 => s.stgOpen x w
  | 0x1100, 0x02 => if w = 0 then (stOk, s) else s.stgCheck x
  | 0x1100, 0x03 => s.stgCommit x (BitVec.ofNat 64 w)
  | 0x1100, 0x04 => s.stgClock x w
  | 0x1100, 0x05 => if w = 0 then (stOk, s) else s.stgAbort x
  | 0x6001, 0x01 => s.clear x (BitVec.ofNat 64 w)
  | 0x6001, 0x02 => s.ack x (BitVec.ofNat 64 w)
  | 0x6011, 0x03 => s.unfence w
  | 0x7000, 0x04 => s.cratePut v host
  | 0x7000, 0x05 => (stOk, s.fillCrate v)
  | 0x7000, 0x06 => s.crateCheck w
  | 0x7000, 0x07 => s.crateArm w
  | 0x7000, 0x08 => s.restartBy w
  | 0x7000, 0x11 => s.svnRaise w
  | 0x7000, 0x30 => s.attReq x v
  | 0x8000, 0x21 => s.verdict v
  | 0x8000, 0x22 => s.selfTest w
  | 0xF010, 0x01 => s.selectDiag x v
  | 0xF020, 0x01 => (stOk, { s with scentKey := BitVec.ofNat 128 w })
  | 0xF020, 0x02 => (stOk, { s with scentCtr := BitVec.ofNat 128 w })
  | _, _ => (stDenied, s)

/-- The object is staged. -/
def isStaged (i sub : Nat) : Bool := match objDef i sub with
  | some d => d.staged
  | none => false

/-- Whether a segment of a write may be taken. -/
def State.allowWrite (s : State) (x : Session) (f : Frame) : Status :=
  let i := f.index.toNat
  let sub := f.sub.toNat
  let st := s.access x f true
  if st ≠ stOk then st
  else
    let handle : Bool := match objDef i sub with
      | some d => d.type == .handle
      | none => false
    let mgmt : Bool := match f.path with
      | .mgmt _ => true
      | _ => false
    if handle && mgmt then stWrongPath
    else if isStaged i sub then (match x.staging with
      | none => stNotStaged
      | some g => if g.state = 3 then stBusy else stOk)
    else if i = 0x7000 ∧ (sub = 4 ∨ sub = 5) ∧ s.fw.crate.busy x.sid then stBusy
    else if i = 0x7000 ∧ sub = 5 ∧ crateMax < f.total.toNat then stBadLen
    else stOk

/-- A segment of CRATE_DATA goes into the crate as it comes (R333). -/
def State.noteSegment (s : State) (x : Session) (f : Frame) (d : Bytes) : State :=
  if f.index = 0x7000 ∧ f.sub = 5 then
    let s := if f.offset = 0 then s.claimCrate x.sid f.total else s
    { s with fw := { s.fw with crate := { s.fw.crate with data := d } } }
  else s

/-- A whole value is written; `host` is what the handle that it names reads as. -/
def State.writeObj (host : Option Bytes) (s : State) (x : Session) (f : Frame) (v : Bytes) : Status × State :=
  let i := f.index.toNat
  let sub := f.sub.toNat
  if isStaged i sub then s.stage x f v
  else if !writeLen i sub v then (stBadLen, s)
  else if badForm i sub v then (stRange, s)
  else match partOfIndex i with
    | some p => s.writePart p sub v host
    | none => s.writeMod x i sub v host

/-- A REQUEST frame is answered; `host` as for `State.writeObj`. -/
def State.serve (s : State) (f : Frame) (host : Option Bytes) : State :=
  s.request f State.readObj State.allowWrite State.noteSegment (State.writeObj host)

/-! The rows -/

/-- A request to one object: with another object or operation the frame is another row's. -/
def State.row (s : State) (f : Frame) (op : BitVec 8) (index sub : Nat) (host : Option Bytes) : State :=
  if s.isReady ∧ s.hears f.path ∧ f.op = op ∧ baseIndex f.index.toNat = index ∧ f.sub.toNat = sub then s.serve f host else s

/-- Writes that have a row of their own. -/
def ownWrite (f : Frame) : Bool :=
  match baseIndex f.index.toNat, f.sub.toNat with
  | 0x1100, 0x01 | 0x1100, 0x02 | 0x1100, 0x03 | 0x1100, 0x05 | 0x6001, 0x01 | 0x6001, 0x02 | 0x6011, 0x03 | 0x7000, 0x04 | 0x7000, 0x05
  | 0x7000, 0x06 | 0x7000, 0x07 | 0x7000, 0x08 | 0x7000, 0x11 | 0x7000, 0x30 | 0x8000, 0x21 | 0x8000, 0x22 | 0x2000, 0x34 | 0x2000, 0x53
  | 0x2000, 0x55 | 0x2000, 0x7A => true
  | _, _ => false

/-- Reads that have a row of their own. -/
def ownRead (f : Frame) : Bool :=
  (f.index == 0xF010 && f.sub == 2) || (f.index == 0xF020 && f.sub == 3)

/-- A READ. -/
def execBasnusRead (f : Frame) (s : State) : Host.Outcome State Fault Refusal :=
  done (if s.isReady ∧ s.hears f.path ∧ f.op = 1 ∧ !ownRead f then s.serve f none else s)

/-- A WRITE of an object without a row of its own, and any other operation. -/
def execBasnusWrite (f : Frame) (s : State) : Host.Outcome State Fault Refusal :=
  done (if s.isReady ∧ s.hears f.path ∧ f.op ≠ 1 ∧ !(f.op = 2 && ownWrite f) then s.serve f none else s)

def execStgOpen (f : Frame) (s : State) : Host.Outcome State Fault Refusal := done (s.row f 2 0x1100 0x01 none)
def execStgCheck (f : Frame) (s : State) : Host.Outcome State Fault Refusal := done (s.row f 2 0x1100 0x02 none)
def execStgCommit (f : Frame) (s : State) : Host.Outcome State Fault Refusal := done (s.row f 2 0x1100 0x03 none)
def execStgAbort (f : Frame) (s : State) : Host.Outcome State Fault Refusal := done (s.row f 2 0x1100 0x05 none)
def execDiagData (f : Frame) (s : State) : Host.Outcome State Fault Refusal := done (s.row f 1 0xF010 0x02 none)
def execScentOut (f : Frame) (s : State) : Host.Outcome State Fault Refusal := done (s.row f 1 0xF020 0x03 none)
def execAttReq (f : Frame) (s : State) : Host.Outcome State Fault Refusal := done (s.row f 2 0x7000 0x30 none)
def execClearBits (f : Frame) (s : State) : Host.Outcome State Fault Refusal := done (s.row f 2 0x6001 0x01 none)
def execAckBits (f : Frame) (s : State) : Host.Outcome State Fault Refusal := done (s.row f 2 0x6001 0x02 none)
def execUnfence (f : Frame) (s : State) : Host.Outcome State Fault Refusal := done (s.row f 2 0x6011 0x03 none)
def execCrateData (f : Frame) (s : State) : Host.Outcome State Fault Refusal := done (s.row f 2 0x7000 0x05 none)
def execCrateCheck (f : Frame) (s : State) : Host.Outcome State Fault Refusal := done (s.row f 2 0x7000 0x06 none)
def execCrateArm (f : Frame) (s : State) : Host.Outcome State Fault Refusal := done (s.row f 2 0x7000 0x07 none)
def execSvnRaise (f : Frame) (s : State) : Host.Outcome State Fault Refusal := done (s.row f 2 0x7000 0x11 none)
def execVerdict (f : Frame) (s : State) : Host.Outcome State Fault Refusal := done (s.row f 2 0x8000 0x21 none)
def execSelfTest (f : Frame) (s : State) : Host.Outcome State Fault Refusal := done (s.row f 2 0x8000 0x22 none)
def execCapture (f : Frame) (s : State) : Host.Outcome State Fault Refusal := done (s.row f 2 0x2000 0x7A none)
def execPlanImage (f : Frame) (s : State) : Host.Outcome State Fault Refusal := done (s.row f 2 0x2000 0x34 none)
def execSwapModel (f : Frame) (s : State) : Host.Outcome State Fault Refusal := done (s.row f 2 0x2000 0x53 none)

/-- RESTART with any value but 2. -/
def execRestartWhenIdle (f : Frame) (s : State) : Host.Outcome State Fault Refusal :=
  done (if f.data = [2] then s else s.row f 2 0x7000 0x08 none)

/-- RESTART = 2. -/
def execRestartNow (f : Frame) (s : State) : Host.Outcome State Fault Refusal :=
  done (if f.data = [2] then s.row f 2 0x7000 0x08 none else s)

/-! The mailbox (R296) -/

/-- The module has no more work in a mailbox: DONE, with no answer (log 27). -/
def State.settleBox (s : State) (path : Path) : State :=
  match boxOf path with
  | none => s
  | some b =>
    if s.mailboxes[b].done then s
    else { s with mailboxes := s.mailboxes.set b { s.mailboxes[b] with done := true, rspLen := 0, rsp := none } }

/-- WLOAD: `manifest` is what the handle's bytes read as. -/
def execWload (f : Frame) (manifest : Option Bytes) (s : State) : Host.Outcome State Fault Refusal :=
  done ((s.row f 2 0x2000 0x55 manifest).settleBox f.path)

/-- CRATE_PUT: `image` is what the handle's bytes read as. -/
def execCratePut (f : Frame) (image : Option Bytes) (s : State) : Host.Outcome State Fault Refusal :=
  done ((s.row f 2 0x7000 0x04 image).settleBox f.path)

/-- A write whose handle the module reads at once: its answer comes with the row WLOAD or CRATE_PUT, which brings the bytes. -/
def readsHost (f : Frame) : Bool :=
  f.kind == 0x10 && f.op == 2 && ((baseIndex f.index.toNat == 0x2000 && f.sub == 0x55) || (f.index == 0x7000 && f.sub == 4))

/-- The state that an outcome leaves. -/
def after (s : State) : Host.Outcome State Fault Refusal → State
  | .next t => t
  | _ => s

/-- A frame of a mailbox is worked through. -/
def State.mailFrame (s : State) (f : Frame) : State :=
  if s.start.stage = 7 then
    (match f.kind.toNat with
      | 0x20 => after s (execPupPut f s)
      | 0x22 => after s (execPupErase f s)
      | 0x23 => after s (execPupExit f s)
      | _ => s)
  else match f.kind.toNat with
    | 0x01 => after s (execOpenFrame f s)
    | 0x03 => after s (execAcceptFrame f s)
    | 0x13 => after s (execNoticeAck f s)
    | 0x1F => after s (execCloseFrame f s)
    | 0x10 => s.serve f none
    | _ => s.discard

/-- A doorbell that a mailbox's function takes: ignored, with OVERRUN, while DONE is 0; else the frame of `len` bytes is taken, `f` where the
buffer holds one (R296). -/
def State.ringBox (s : State) (path : Path) (b : Fin 18) (len : BitVec 32) (f : Option Frame) : State :=
  if !s.mailboxes[b].done then { s with mailboxes := s.mailboxes.set b { s.mailboxes[b] with overrun := true } }
  else
    let s := { s with mailboxes := s.mailboxes.set b { s.mailboxes[b] with done := false, overrun := false } }
    match f with
    | none => (if s.start.stage = 5 then s.discard else s).settleBox path
    | some f =>
      let f := { f with path := path }
      if len.toNat % 8192 ≠ 64 + f.data.length + f.extra.length then (if s.start.stage = 5 then s.discard else s).settleBox path
      else if s.start.stage = 5 ∧ readsHost f then s
      else (s.mailFrame f).settleBox path

/-- MB_DOORBELL: of the physical function, ignored before READY, and of a virtual one as any request of the host (R280, R349, R356). -/
def execMbDoorbell (path : Path) (d : HostWrite (BitVec 32)) (f : Option Frame) (s : State) : Host.Outcome State Fault Refusal :=
  match path with
  | .mgmt _ => done s
  | .pf l => done (if d.via.link = l ∧ s.hasPhysical l then s.ringBox path ⟨l.val, by omega⟩ d.value f else s)
  | .vf p => done (s.hostTakes p d.via (s.ringBox path ⟨2 + p.val, by omega⟩ d.value f))

end Sys2Proof.Machine
end

