-- ==== Sys2Proof/Machine/Dispatch.lean ====
section
/-!
DEFINITION. One arm per command: each is one direct call of its meaning.
-/

namespace Sys2Proof.Machine

/-- The effect of a command on everything but the queue. -/
def exec (i : Instr) (s : State) : Host.Outcome State Fault Refusal :=
  match i with
  | .cellCycle p => Sys2Proof.Machine.execCellCycle p s
  | .lineArrival c e line => Sys2Proof.Machine.execLineArrival c e line s
  | .fillArrival c tx j => Sys2Proof.Machine.execFillArrival c tx j s
  | .mpal c f => Sys2Proof.Machine.execMpal c f s
  | .mldw c f => Sys2Proof.Machine.execMldw c f s
  | .macc c f => Sys2Proof.Machine.execMacc c f s
  | .mdrn c f => Sys2Proof.Machine.execMdrn c f s
  | .vld c f => Sys2Proof.Machine.execVld c f s
  | .vst c f => Sys2Proof.Machine.execVst c f s
  | .vpop c f => Sys2Proof.Machine.execVpop c f s
  | .vimm c f => Sys2Proof.Machine.execVimm c f s
  | .vadd c f => Sys2Proof.Machine.execVadd c f s
  | .vsub c f => Sys2Proof.Machine.execVsub c f s
  | .vmul c f => Sys2Proof.Machine.execVmul c f s
  | .vfma c f => Sys2Proof.Machine.execVfma c f s
  | .vmin c f => Sys2Proof.Machine.execVmin c f s
  | .vmax c f => Sys2Proof.Machine.execVmax c f s
  | .vdiv c f => Sys2Proof.Machine.execVdiv c f s
  | .vsqrt c f => Sys2Proof.Machine.execVsqrt c f s
  | .vtrn c f => Sys2Proof.Machine.execVtrn c f s
  | .vbit c f => Sys2Proof.Machine.execVbit c f s
  | .vlane c f => Sys2Proof.Machine.execVlane c f s
  | .vcmp c f => Sys2Proof.Machine.execVcmp c f s
  | .vsel c f => Sys2Proof.Machine.execVsel c f s
  | .vmop c f => Sys2Proof.Machine.execVmop c f s
  | .vcvt c f => Sys2Proof.Machine.execVcvt c f s
  | .vqmx c f => Sys2Proof.Machine.execVqmx c f s
  | .vred c f => Sys2Proof.Machine.execVred c f s
  | .vscan c f => Sys2Proof.Machine.execVscan c f s
  | .vsort c f => Sys2Proof.Machine.execVsort c f s
  | .vmrg c f => Sys2Proof.Machine.execVmrg c f s
  | .vselk c f => Sys2Proof.Machine.execVselk c f s
  | .vfirst c f => Sys2Proof.Machine.execVfirst c f s
  | .vrnd c f => Sys2Proof.Machine.execVrnd c f s
  | .waitTally c e f => Sys2Proof.Machine.execWaitTally c e f s
  | .loopPush c e f => Sys2Proof.Machine.execLoopPush c e f s
  | .sig c e f => Sys2Proof.Machine.execSig c e f s
  | .dly c e f => Sys2Proof.Machine.execDly c e f s
  | .stepend c e => Sys2Proof.Machine.execStepend c e s
  | .pset c f => Sys2Proof.Machine.execPset c f s
  | .padd c f => Sys2Proof.Machine.execPadd c f s
  | .pld c f => Sys2Proof.Machine.execPld c f s
  | .push c f => Sys2Proof.Machine.execPush c f s
  | .dpop c f => Sys2Proof.Machine.execDpop c f s
  | .dcpy c f => Sys2Proof.Machine.execDcpy c f s
  | .drd c f => Sys2Proof.Machine.execDrd c f s
  | .dwr c f => Sys2Proof.Machine.execDwr c f s
  | .dsnd c f => Sys2Proof.Machine.execDsnd c f s
  | .drcv c f => Sys2Proof.Machine.execDrcv c f s
  | .drdComplete c tx => Sys2Proof.Machine.execDrdComplete c tx s
  | .dwrComplete c tx => Sys2Proof.Machine.execDwrComplete c tx s
  | .dsndComplete c tx => Sys2Proof.Machine.execDsndComplete c tx s
  | .drcvComplete c tx => Sys2Proof.Machine.execDrcvComplete c tx s
  | .salu c f => Sys2Proof.Machine.execSalu c f s
  | .simm c f => Sys2Proof.Machine.execSimm c f s
  | .sld c f => Sys2Proof.Machine.execSld c f s
  | .sst c f => Sys2Proof.Machine.execSst c f s
  | .shk c f => Sys2Proof.Machine.execShk c f s
  | .srpt c f => Sys2Proof.Machine.execSrpt c f s
  | .sbr c f => Sys2Proof.Machine.execSbr c f s
  | .spf c f => Sys2Proof.Machine.execSpf c f s
  | .srnd c f => Sys2Proof.Machine.execSrnd c f s
  | .holdLimit p => Sys2Proof.Machine.execHoldLimit p s
  | .governorSample watts attributed => Sys2Proof.Machine.execGovernorSample watts attributed s
  | .cellArrival c => Sys2Proof.Machine.execCellArrival c s
  | .barrierArrive p => Sys2Proof.Machine.execBarrierArrive p s
  | .barrierArriveItem n b => Sys2Proof.Machine.execBarrierArriveItem n b s
  | .barWaitExpiry p => Sys2Proof.Machine.execBarWaitExpiry p s
  | .barrierReleaseItem n b => Sys2Proof.Machine.execBarrierReleaseItem n b s
  | .boundaryProcessing p => Sys2Proof.Machine.execBoundaryProcessing p s
  | .stepRelease p => Sys2Proof.Machine.execStepRelease p s
  | .admitStream p e => Sys2Proof.Machine.execAdmitStream p e s
  | .cancelStream p e => Sys2Proof.Machine.execCancelStream p e s
  | .closeStream p e => Sys2Proof.Machine.execCloseStream p e s
  | .suspendStream p e => Sys2Proof.Machine.execSuspendStream p e s
  | .resumeStream p e => Sys2Proof.Machine.execResumeStream p e s
  | .modifyStream p e => Sys2Proof.Machine.execModifyStream p e s
  | .seedKey p e => Sys2Proof.Machine.execSeedKey p e s
  | .fastCancel p w => Sys2Proof.Machine.execFastCancel p w s
  | .sqTail p w => Sys2Proof.Machine.execSqTail p w s
  | .cqHead p w => Sys2Proof.Machine.execCqHead p w s
  | .suspendCopyDone p e => Sys2Proof.Machine.execSuspendCopyDone p e s
  | .resumeCopyDone p e => Sys2Proof.Machine.execResumeCopyDone p e s
  | .kennelItem n k => Sys2Proof.Machine.execKennelItem n k s
  | .barkWorkDone p work => Sys2Proof.Machine.execBarkWorkDone p work s
  | .swapModel f => Sys2Proof.Machine.execSwapModel f s
  | .swapCopyDone p slot => Sys2Proof.Machine.execSwapCopyDone p slot s
  | .wload f manifest => Sys2Proof.Machine.execWload f manifest s
  | .chunkReceive g ix chunk => Sys2Proof.Machine.execChunkReceive g ix chunk s
  | .ingestDone g => Sys2Proof.Machine.execIngestDone g s
  | .ingestReport g child => Sys2Proof.Machine.execIngestReport g child s
  | .ingestStall g => Sys2Proof.Machine.execIngestStall g s
  | .memoryError p addr r => Sys2Proof.Machine.execMemoryError p addr r s
  | .patrolScrubRead lpddr channel r => Sys2Proof.Machine.execPatrolScrubRead lpddr channel r s
  | .reencryption p channel => Sys2Proof.Machine.execReencryption p channel s
  | .mirrorAck p step => Sys2Proof.Machine.execMirrorAck p step s
  | .mirrorTimeout p => Sys2Proof.Machine.execMirrorTimeout p s
  | .mirrorRestore p side pages => Sys2Proof.Machine.execMirrorRestore p side pages s
  | .trainingDone n prbs rtt digest => Sys2Proof.Machine.execTrainingDone n prbs rtt digest s
  | .trainingFail n => Sys2Proof.Machine.execTrainingFail n s
  | .laneLockLoss n ns => Sys2Proof.Machine.execLaneLockLoss n ns s
  | .downPattern n => Sys2Proof.Machine.execDownPattern n s
  | .creditTimeout n => Sys2Proof.Machine.execCreditTimeout n s
  | .fastRetrainDone n => Sys2Proof.Machine.execFastRetrainDone n s
  | .fastRetrainFail n => Sys2Proof.Machine.execFastRetrainFail n s
  | .linkGraceExpiry n => Sys2Proof.Machine.execLinkGraceExpiry n s
  | .wheelPosition n pos => Sys2Proof.Machine.execWheelPosition n pos s
  | .dataFlitReceive n r => Sys2Proof.Machine.execDataFlitReceive n r s
  | .fillItem n => Sys2Proof.Machine.execFillItem n s
  | .ackItem n next nak => Sys2Proof.Machine.execAckItem n next nak s
  | .creditItem n owner freed => Sys2Proof.Machine.execCreditItem n owner freed s
  | .beaconItem n owner aseq counts => Sys2Proof.Machine.execBeaconItem n owner aseq counts s
  | .resyncItem n owner sqn next counts => Sys2Proof.Machine.execResyncItem n owner sqn next counts s
  | .peerItem n ix => Sys2Proof.Machine.execPeerItem n ix s
  | .reservedItem n ty => Sys2Proof.Machine.execReservedItem n ty s
  | .beaconSend n => Sys2Proof.Machine.execBeaconSend n s
  | .creditSend n owner => Sys2Proof.Machine.execCreditSend n owner s
  | .ackSend n => Sys2Proof.Machine.execAckSend n s
  | .replayTimeout n sqn => Sys2Proof.Machine.execReplayTimeout n sqn s
  | .transitBoundary => Sys2Proof.Machine.execTransitBoundary s
  | .mqTail p w entries => Sys2Proof.Machine.execMqTail p w entries s
  | .mcHead p w => Sys2Proof.Machine.execMcHead p w s
  | .vc2Read r => Sys2Proof.Machine.execVc2Read r s
  | .vc2Write r => Sys2Proof.Machine.execVc2Write r s
  | .vc2Fadd r => Sys2Proof.Machine.execVc2Fadd r s
  | .vc2Cas r => Sys2Proof.Machine.execVc2Cas r s
  | .vc2Query r => Sys2Proof.Machine.execVc2Query r s
  | .vc2Response p r => Sys2Proof.Machine.execVc2Response p r s
  | .vc2Timeout p txid => Sys2Proof.Machine.execVc2Timeout p txid s
  | .heelExchange => Sys2Proof.Machine.execHeelExchange s
  | .heelReq n h => Sys2Proof.Machine.execHeelReq n h s
  | .heelResp n h t4 => Sys2Proof.Machine.execHeelResp n h t4 s
  | .heelParentTimeout => Sys2Proof.Machine.execHeelParentTimeout s
  | .holdoverEntry => Sys2Proof.Machine.execHoldoverEntry s
  | .holdoverExpiry => Sys2Proof.Machine.execHoldoverExpiry s
  | .heelWrap => Sys2Proof.Machine.execHeelWrap s
  | .jobStart p => Sys2Proof.Machine.execJobStart p s
  | .selfTest f => Sys2Proof.Machine.execSelfTest f s
  | .selfTestDone pass => Sys2Proof.Machine.execSelfTestDone pass s
  | .verdict f => Sys2Proof.Machine.execVerdict f s
  | .capture f => Sys2Proof.Machine.execCapture f s
  | .planImage f => Sys2Proof.Machine.execPlanImage f s
  | .planLoadDone p bytes => Sys2Proof.Machine.execPlanLoadDone p bytes s
  | .scrubDone p => Sys2Proof.Machine.execScrubDone p s
  | .openFrame f => Sys2Proof.Machine.execOpenFrame f s
  | .acceptFrame f => Sys2Proof.Machine.execAcceptFrame f s
  | .closeFrame f => Sys2Proof.Machine.execCloseFrame f s
  | .basnusRead f => Sys2Proof.Machine.execBasnusRead f s
  | .basnusWrite f => Sys2Proof.Machine.execBasnusWrite f s
  | .noticeAck f => Sys2Proof.Machine.execNoticeAck f s
  | .noticeResend sid => Sys2Proof.Machine.execNoticeResend sid s
  | .handshakeTimeout sid => Sys2Proof.Machine.execHandshakeTimeout sid s
  | .idleTimeout sid => Sys2Proof.Machine.execIdleTimeout sid s
  | .mbDoorbell path len f => Sys2Proof.Machine.execMbDoorbell path len f s
  | .stgOpen f => Sys2Proof.Machine.execStgOpen f s
  | .stgCheck f => Sys2Proof.Machine.execStgCheck f s
  | .stgCommit f => Sys2Proof.Machine.execStgCommit f s
  | .stgAbort f => Sys2Proof.Machine.execStgAbort f s
  | .diagData f => Sys2Proof.Machine.execDiagData f s
  | .scentOut f => Sys2Proof.Machine.execScentOut f s
  | .attReq f => Sys2Proof.Machine.execAttReq f s
  | .faultLatch e => Sys2Proof.Machine.execFaultLatch e s
  | .graceExpiry bit => Sys2Proof.Machine.execGraceExpiry bit s
  | .ackBits f => Sys2Proof.Machine.execAckBits f s
  | .clearBits f => Sys2Proof.Machine.execClearBits f s
  | .unfence f => Sys2Proof.Machine.execUnfence f s
  | .watchdogExpiry core => Sys2Proof.Machine.execWatchdogExpiry core s
  | .cratePut f image => Sys2Proof.Machine.execCratePut f image s
  | .crateData f => Sys2Proof.Machine.execCrateData f s
  | .crateCheck f => Sys2Proof.Machine.execCrateCheck f s
  | .crateArm f => Sys2Proof.Machine.execCrateArm f s
  | .restartWhenIdle f => Sys2Proof.Machine.execRestartWhenIdle f s
  | .restartNow f => Sys2Proof.Machine.execRestartNow f s
  | .svnRaise f => Sys2Proof.Machine.execSvnRaise f s
  | .probationTimeout => Sys2Proof.Machine.execProbationTimeout s
  | .pupPut f => Sys2Proof.Machine.execPupPut f s
  | .pupErase f => Sys2Proof.Machine.execPupErase f s
  | .pupExit f => Sys2Proof.Machine.execPupExit f s
  | .pwrEnRise => Sys2Proof.Machine.execPwrEnRise s
  | .pwrEnFall => Sys2Proof.Machine.execPwrEnFall s
  | .railsDone geo bifurHigh => Sys2Proof.Machine.execRailsDone geo bifurHigh s
  | .romDone => Sys2Proof.Machine.execRomDone s
  | .postDone badColumns badCrypto badOe => Sys2Proof.Machine.execPostDone badColumns badCrypto badOe s
  | .memoryDone badStacks badDevices => Sys2Proof.Machine.execMemoryDone badStacks badDevices s
  | .firmwareDone => Sys2Proof.Machine.execFirmwareDone s
  | .stageTimeout => Sys2Proof.Machine.execStageTimeout s
  | .perstAssert => Sys2Proof.Machine.execPerstAssert s
  | .perstRelease recoveryHigh => Sys2Proof.Machine.execPerstRelease recoveryHigh s
  | .perst1Assert => Sys2Proof.Machine.execPerst1Assert s
  | .railFault => Sys2Proof.Machine.execRailFault s
  | .refclkLoss => Sys2Proof.Machine.execRefclkLoss s
  | .inputExcursion mv => Sys2Proof.Machine.execInputExcursion mv s
  | .inputDip => Sys2Proof.Machine.execInputDip s
  | .thermalWarning k t => Sys2Proof.Machine.execThermalWarning k t s
  | .thermalCritical k t => Sys2Proof.Machine.execThermalCritical k t s
  | .pcieLinkDown link => Sys2Proof.Machine.execPcieLinkDown link s
  | .smbStatus => Sys2Proof.Machine.execSmbStatus s
  | .smbPower => Sys2Proof.Machine.execSmbPower s
  | .smbVoltage => Sys2Proof.Machine.execSmbVoltage s
  | .smbHottest => Sys2Proof.Machine.execSmbHottest s
  | .smbInlet => Sys2Proof.Machine.execSmbInlet s
  | .smbOutlet => Sys2Proof.Machine.execSmbOutlet s
  | .smbFsw => Sys2Proof.Machine.execSmbFsw s
  | .smbSerial => Sys2Proof.Machine.execSmbSerial s
  | .smbPartNumber => Sys2Proof.Machine.execSmbPartNumber s
  | .thermalWarningClear temps => Sys2Proof.Machine.execThermalWarningClear temps s
  | .inputReturn mv => Sys2Proof.Machine.execInputReturn mv s
  | .inputExcursionTimeout => Sys2Proof.Machine.execInputExcursionTimeout s
  | .pcieLinkUp link rate width => Sys2Proof.Machine.execPcieLinkUp link rate width s
  | .reencryptionDone p channel => Sys2Proof.Machine.execReencryptionDone p channel s
  | .ideKeySetSwitch p => Sys2Proof.Machine.execIdeKeySetSwitch p s
  | .icmpv6Message port m => Sys2Proof.Machine.execIcmpv6Message port m s
  | .coreRestartDone core => Sys2Proof.Machine.execCoreRestartDone core s

end Sys2Proof.Machine
end

