-- ==== Sys2Proof/Safety.lean ====
section
/-!
DEFINITION. The terms in which statements speak of runs: when an instruction issues at once, which part of the state a command changes,
and the invariant of every step.
-/

namespace Sys2Proof.Machine

/-! Engines -/

/-- An instruction that reaches engine `e` of cell `c` of partition `p` issues in the current cycle, unless an operand, a port or the
transactions keep it: the partition runs, phases 1 to 3 of the cycle are over, the engine's interval has elapsed, its queue is empty. -/
def State.ready (s : State) (p : PartIx) (c : CellRef) (e : Eng) : Bool :=
  s.owner c.col == some p && (s.part p).runs && (s.part p).front && ((s.cell c).eng e).canIssue (s.part p).cyc
    && ((s.cell c).eng e).iq.isEmpty

/-- Where an instruction of an engine issues: cell, engine, PC, cycle. -/
def State.org (s : State) (p : PartIx) (c : CellRef) (e : Eng) : Origin := ⟨c, e, ((s.cell c).eng e).pc, (s.part p).cyc⟩

/-- Nothing but cell `c` and the count of free values differs. -/
def onlyCell (c : CellRef) (s t : State) : Prop := t = { s with cells := s.cells.set c.ix (t.cell c), free := t.free }

/-- The values of all registers are the same in two cells; LAND and LIVE may differ. -/
def Cell.sameValues (k l : Cell) : Prop :=
  l.a.map (·.val) = k.a.map (·.val) ∧ l.wb.map (·.val) = k.wb.map (·.val) ∧ l.pal.map (·.val) = k.pal.map (·.val)
    ∧ l.v.map (·.val) = k.v.map (·.val) ∧ l.m.map (·.val) = k.m.map (·.val) ∧ l.p.map (·.val) = k.p.map (·.val)
    ∧ l.s.map (·.val) = k.s.map (·.val)

/-- What the issue of an instruction of engine `e` leaves of a cell, in every field that the caller does not name: register values, every
other engine, and everything that only later cycles change: tallies, the cell store, queues, transactions, fills, what waits. -/
def issued (e : Eng) (k l : Cell) : Prop :=
  k.sameValues l ∧ (∀ d, d ≠ e → l.eng d = k.eng d)
    ∧ l = { k with a := l.a, wb := l.wb, pal := l.pal, v := l.v, m := l.m, p := l.p, s := l.s, landings := l.landings, signals := l.signals,
                   ports := l.ports, mxe := l.mxe, vxe := l.vxe, dme := l.dme, sqe := l.sqe, accesses := l.accesses, streams := l.streams,
                   nextStream := l.nextStream }

/-- The signal of an instruction: two cycles after its issue, none for an increment of 0 (R32). -/
def signalAfter (o : Origin) (sg : SigF) : List Signal := if sg.sinc = 0 then [] else [⟨o.issued + 2, sg.stal, sg.sinc.toNat, o⟩]

/-- What an instruction leaves that lands values computed at its issue: the landings `lat` cycles after it, its signal, LAND of each
destination no lower than that cycle, issue free again after `n` cycles. No value has changed yet. -/
def lands (s t : State) (p : PartIx) (c : CellRef) (e : Eng) (sg : SigF) (kill : Bool) (lat n : BitVec 32) (vals : List LandVal) : Prop :=
  let k := s.cell c
  let l := t.cell c
  let o := s.org p c e
  onlyCell c s t ∧ issued e k l
    ∧ l.landings = k.landings ++ vals.map (fun v => ⟨o.issued + lat, v, kill, true, o⟩)
    ∧ l.signals = k.signals ++ signalAfter o sg
    ∧ (∀ v ∈ vals, o.issued + lat ≤ l.landOf v.reg)
    ∧ l.accesses = k.accesses ∧ l.streams = k.streams
    ∧ l.eng e = (k.eng e).flow o.issued (.next n)

/-- What an instruction leaves that reads granules `gs` in successive cycles from its issue on into `sink`, to land in `dst` so many cycles
after its issue. No value has changed yet. -/
def reads (s t : State) (p : PartIx) (c : CellRef) (e : Eng) (sg : SigF) (sink : Sink) (gs : List (BitVec 14))
    (dst : List (RegName × BitVec 32)) (n : BitVec 32) : Prop :=
  let k := s.cell c
  let l := t.cell c
  let o := s.org p c e
  onlyCell c s t ∧ issued e k { l with xpush := k.xpush }
    ∧ l.streams = k.streams ++ [⟨k.nextStream, o, sink, gs.length, []⟩]
    ∧ l.accesses = k.accesses ++ gs.mapIdx (fun j g => ⟨o.issued + BitVec.ofNat 32 j, g, o, .read k.nextStream⟩)
    ∧ l.signals = k.signals ++ signalAfter o sg
    ∧ (∀ d ∈ dst, o.issued + d.2 ≤ l.landOf d.1)
    ∧ l.landings = k.landings
    ∧ l.eng e = (k.eng e).flow o.issued (.next n)

/-- What an instruction leaves that stores: the accesses at their bank cycles. Nothing is stored yet. -/
def stores (s t : State) (p : PartIx) (c : CellRef) (e : Eng) (sg : SigF) (accs : List Access) : Prop :=
  let k := s.cell c
  let l := t.cell c
  let o := s.org p c e
  onlyCell c s t ∧ issued e k l
    ∧ l.accesses = k.accesses ++ accs
    ∧ l.signals = k.signals ++ signalAfter o sg
    ∧ l.landings = k.landings ∧ l.streams = k.streams
    ∧ l.eng e = (k.eng e).flow o.issued (.next 1)

/-- What an instruction leaves that only sequences its engine: its signals, and where and when the engine goes on. -/
def steps (s t : State) (p : PartIx) (c : CellRef) (e : Eng) (sigs : List Signal) (f : Flow) : Prop :=
  let k := s.cell c
  let l := t.cell c
  onlyCell c s t ∧ issued e k l
    ∧ l.signals = k.signals ++ sigs
    ∧ l.landings = k.landings ∧ l.accesses = k.accesses ∧ l.streams = k.streams
    ∧ l.eng e = (k.eng e).flow (s.part p).cyc f

/-- The transaction that an instruction of the move engine starts: it takes the lowest free number; its granules have neither arrived nor
been written nor left; what it races with is left open. -/
def starts (s t : State) (p : PartIx) (c : CellRef) (x : Tx) : Prop :=
  let k := s.cell c
  let l := t.cell c
  (∃ r, l.txs = k.txs.set k.freeTx (some { x with raced := r }))
    ∧ l.serial = k.serial + 1 ∧ k.sameValues l ∧ l.tally = k.tally ∧ l.store = k.store ∧ l.landings = k.landings ∧ l.signals = k.signals
    ∧ l.dme = k.dme.flow (s.part p).cyc (.next 1)
    ∧ (∀ d, d ≠ c → { t.cell d with txs := (s.cell d).txs } = s.cell d)
    ∧ t = { s with cells := t.cells, free := t.free }

/-- A draw whose value lands ten cycles after its issue: one that names a seed-table entry itself, KSRC = 0, leaves the entry noted in the
cell and in the boundary image of the step (R264). -/
def draws (s t : State) (p : PartIx) (c : CellRef) (e : Eng) (sg : SigF) (kill ksrc : Bool) (sel : BitVec 12) (vals : List LandVal) : Prop :=
  ∃ u, lands s u p c e sg kill 10 1 vals
    ∧ t = if ksrc then u else (u.modCell c fun k => { k with drawn := k.drawn ++ [sel] }).noteSeeds p c (s.cell c)

/-- After an instruction's issue the registers that it reads with LU = 1 are dead (R29). -/
def lastUsed (us : List Use) (l : Cell) : Prop := ∀ u ∈ us, u.lu = true → l.liveOf u.reg = false

/-- A port of a cell is busy in each cycle from `first` to `last`: an instruction that needs it then takes QUEUE_OVERRUN (R84, R116). -/
def holdsPort (l : Cell) (k : PortKind) (first last : BitVec 32) : Prop :=
  ∀ d, first ≤ d → d ≤ last → (l.portHeld ⟨k, d, d, d⟩).isSome = true

/-- The cell after a fault at issue: nothing has issued, and the engine issues nothing more in the cycle (R25, R368). -/
def Cell.faulted (k : Cell) (e : Eng) (cyc : BitVec 32) : Cell := k.setEng e { k.eng e with ready := cyc.toNat + 1 }

/-- A schedule fault that a cell takes at issue waits for the end of the cycle; nothing else happens. -/
def faults (s t : State) (p : PartIx) (c : CellRef) (f : SchedFault) : Prop :=
  t = { s with parts := s.parts.set p { s.part p with pendFaults := (s.part p).pendFaults ++ [f] }
               cells := s.cells.set c.ix ((s.cell c).faulted f.eng (s.part p).cyc) }

/-! Partitions and ports -/

/-- Nothing but partition `p` differs. -/
def onlyPart (p : PartIx) (s t : State) : Prop := t = { s with parts := s.parts.set p (t.part p) }

/-- Nothing but port `n` differs. -/
def onlyPort (n : PortIx) (s t : State) : Prop := t = { s with ports := s.ports.set n (t.port n) }

/-- An UP port that the part number has. -/
def State.linkUp (s : State) (n : PortIx) : Bool := s.hasPort n && (s.port n).state == 3

/-- An item that comes with number `sqn`, of the module or of owner entry `o`, is the next one in order on an UP port with room for it. -/
def State.inOrder (s : State) (n : PortIx) (sqn : BitVec 20) (module : Bool) (o : BitVec 3) : Bool :=
  s.linkUp n && (s.port n).rxHeld.isEmpty && sqn == (s.port n).rxNext && s.room n (s.creditIx n module o) 3 1

/-- The port once it has taken an item and freed its unit. -/
def State.tookItem (s : State) (n : PortIx) (module : Bool) (o : BitVec 3) : Port :=
  { ((s.port n).modChan (s.creditIx n module o) 3 fun k => { k with freed := k.freed + 1 }) with rxNext := (s.port n).rxNext + 1 }

/-- A short flit as it waits on a port. -/
def shortOut (n : PortIx) (f : ShortFlit) : OutFlit := ⟨.short f, 3, f.owner, none, n, n, .item⟩

/-! Barriers -/

/-- The RELEASE `b` as it waits on port `m` for the children that this port leads to (R253). -/
def State.sentDown (s : State) (p : PartIx) (b : BarrierItem) (m : PortIx) : List OutFlit :=
  ((s.childrenOf p).filter fun d => s.portTo p d == some m).map fun d =>
    shortOut m ⟨5, true, 7, true, 0, 0, barrierBody true { b with src := s.self p, dst := d }⟩

/-- RTIME as the root sets it at the last arrival: the scheduled boundary, or the arrival plus BAR_MARGIN if that came too late for it (R22). -/
def State.rtimeFor (s : State) (p : PartIx) : BitVec 64 :=
  let margin : BitVec 64 := 65536 * BitVec.ofNat 64 (s.pnum p 0x75)
  let bound := s.boundaryAt p (s.barStep p + 1)
  if later s.heelNow (bound - margin) then s.heelNow + margin else bound

/-- The root's RELEASE for an own arrival of status `own` and the arrivals of all its children: COMMIT if every status is OK, else STOP with
the worst one and the lowest device that is not OK (R253, Table 10-3). -/
def State.verdictOf (s : State) (p : PartIx) (own : BitVec 3) (children : List ChildArrival) : BarrierItem :=
  let st := children.foldl (fun a c => if a < c.status then c.status else a) own
  let firsts := (if own = 0 then [] else [(s.self p).toNat]) ++ (children.filter fun c => c.status != 0).map (·.first.toNat)
  ⟨s.jobTag p, s.barStep p, st != 0, st, s.self p, 0, BitVec.ofNat 15 (firsts.foldl min 0x7FFF), 0, if st = 0 then s.rtimeFor p else 0⟩

/-- What a RELEASE leaves of the partition that takes it: committed, or stopped; no cell, no entry and no memory has changed (R253, R254). -/
def released (s t : State) (p : PartIx) (b : BarrierItem) : Prop :=
  let x := s.part p
  let y := t.part p
  y.barrier.release = some ⟨b.step, b.stop, b.status, b.rtime⟩
    ∧ (b.stop = false → y.stepCommitted = b.step ∧ y.jobState = (if x.jobState = 1 then 2 else x.jobState) ∧ y.running = x.running)
    ∧ (b.stop = true → y.jobState = 3 ∧ y.running = false ∧ y.starting = false ∧ y.stepCommitted = x.stepCommitted
        ∧ y.stopInfo = BitVec.ofNat 64 (packFields [(8, b.status.toNat), (15, b.first.toNat)]))
    ∧ y.cyc = x.cyc ∧ y.kennel = x.kennel

/-! The Kennel's rings -/

/-- What a record of 64 bytes of function `p` and its interrupt are to the host: lost while the function's link is down. -/
def State.hostRecord (s : State) (p : PartIx) (addr : BitVec 64) (data : Bytes) : List Out :=
  let l := s.linkOf p
  if s.pcieUp l then [.hostWrite l p (s.ideKeyed p) addr data, .msix l (some p) 0] else []

/-- The Kennel reads its submission ring now: the partition has columns and its link is up, an entry waits, the completion ring has a free
record, the device Muzzle is not in force. -/
def State.ringReady (s : State) (p : PartIx) : Bool :=
  let k := s.ken p
  !(s.colsOf p).isEmpty && s.pcieUp (s.linkOf p) && k.sqHead != k.sqTail && k.kept.isEmpty
    && (k.cqWrite.toNat + 1) % s.pnum p 0x45 != k.cqHead.toNat % s.pnum p 0x45 && !s.faults.muzzle

/-- A record leaves for the next place of the completion ring, with its interrupt. -/
def State.recordOut (s : State) (p : PartIx) (r : CqRecord) : List Out :=
  let k := s.ken p
  let r' : CqRecord := r ||| (if k.phase then BitVec.twoPow 512 63 else 0)
  s.hostRecord p (BitVec.ofNat 64 (s.pnum p 0x44 + 64 * k.cqWrite.toNat)) (leBytes 64 r'.toNat)

/-- The completion ring of the Kennel has a free record that nothing waits for, and the device Muzzle is not in force. -/
def State.cqFree (s : State) (p : PartIx) : Bool :=
  let k := s.ken p
  k.kept.isEmpty && (k.cqWrite.toNat + 1) % s.pnum p 0x45 != k.cqHead.toNat % s.pnum p 0x45 && !s.faults.muzzle

/-- Nothing but partition `p` and memory differs. -/
def onlyPartAndMem (p : PartIx) (s t : State) : Prop := t = { s with parts := s.parts.set p (t.part p), mem := t.mem }

/-- No change of a model slot comes before a boundary: steps follow one another, or the ingest `g`, which is being written, is all that could
bring one. -/
def Partition.steady (x : Partition) (g : Ingest) : Bool :=
  x.stepping || (x.slotBad == Vector.replicate 2 false && x.swaps.isEmpty && x.ingests == [g] && g.started && g.flushed && !g.done)

/-- A swap whose copy into slot `i` has been under way, with all its `n` bytes copied. -/
def SwapJob.finish (i : Fin 2) (n : Nat) (q : SwapJob) : SwapJob :=
  if two q.slot = i ∧ q.copying ∧ !q.done then { q with copied := n, done := true } else q

/-- An event has latched its FSW bit. -/
def latched (b : Fin 50) (t : State) : Prop := t.faults.fsw.getLsbD b.val = true

/-- A command read from the submission ring leaves everything but the Kennel, the serial log, items to other modules and what leaves the
module; within the Kennel it leaves the other entries. -/
def ringFrame (p : PartIx) (e : Nat) (s t : State) : Prop :=
  (∀ i, i ≠ e → (t.ken p).entry i = (s.ken p).entry i)
    ∧ t.part p = { s.part p with kennel := (t.part p).kennel, log := (t.part p).log, images := (t.part p).images }
    ∧ t = { s with parts := s.parts.set p (t.part p), ports := t.ports, out := t.out }

/-! VC2 -/

/-- The completion ring of VC2 has a free record that nothing waits for, and the device Muzzle is not in force. -/
def State.mcFree (s : State) (p : PartIx) : Bool :=
  let v := (s.part p).vc2
  v.kept.isEmpty && (v.mcWrite.toNat + 1) % s.pnum p 0x63 != v.mcHead.toNat % s.pnum p 0x63 && !s.faults.muzzle

/-- A completion of VC2 leaves for the next place of its ring, with its interrupt. -/
def State.completionOut (s : State) (p : PartIx) (r : BitVec 512) : List Out :=
  let v := (s.part p).vc2
  let r' : BitVec 512 := r ||| (if v.phase then BitVec.twoPow 512 63 else 0)
  s.hostRecord p (BitVec.ofNat 64 (s.pnum p 0x62 + 64 * v.mcWrite.toNat)) (leBytes 64 r'.toNat)

/-! Requests -/

/-- An authentic REQUEST with a new SEQ of an open session, in a module that runs, over a path on which it is heard. -/
def State.requested (s : State) (f : Frame) (x : Session) : Prop :=
  s.isReady = true ∧ s.hears f.path = true ∧ f.kind = 0x10 ∧ s.authentic f = some x ∧ x.seqMax < f.seq ∧ f.rsvd = 0

/-- The session has seen the request: its time and SEQ. -/
def State.noted (s : State) (f : Frame) (x : Session) : State :=
  (s.modSession x.sid fun y => { y with seen := s.ns }).modSession x.sid fun y => { y with seqMax := f.seq }

/-- The request writes a whole value, in one segment, that the session may write now, of an object that is not staged. -/
def State.written (s : State) (f : Frame) (x : Session) (index sub : Nat) : Prop :=
  s.requested f x ∧ f.op = 2 ∧ f.more = false ∧ f.offset = 0 ∧ f.total.toNat = f.data.length
    ∧ baseIndex f.index.toNat = index ∧ f.sub.toNat = sub ∧ (s.noted f x).allowWrite x f = stOk
    ∧ isStaged f.index.toNat sub = false ∧ writeLen f.index.toNat sub f.data = true ∧ badForm f.index.toNat sub f.data = false

/-- The request is answered with a status and no value. -/
def State.say (s : State) (x : Session) (f : Frame) (st : Status) : State := s.respond x f st 0 0 false []

/-- A write has taken effect: the segments of the value are done with, and the request is answered OK (R291). -/
def State.wrote (s : State) (x : Session) (f : Frame) : State :=
  (s.modSession x.sid fun y => { y with writing := y.writing.filter fun p => !p.is f }).say x f stOk

/-! Starts -/

/-- What every start, and every loss of the rails, takes back (R351, Table 15-4). -/
def coldAgain (s t : State) : Prop :=
  t.parts = Vector.replicate 16 Partition.cold ∧ t.cells = Vector.replicate 192 Cell.cold ∧ t.ports = Vector.replicate 24 Port.cold
    ∧ t.heel = Heel.cold ∧ t.sessions = [] ∧ t.handshakes = [] ∧ t.orphans = [] ∧ t.msgs = [] ∧ t.openReports = []
    ∧ t.dict = s.dict.filter (fun e => persistent e.1) ∧ t.fw.banks = s.fw.banks ∧ t.fw.svnFused = s.fw.svnFused ∧ t.fw.revoked = s.fw.revoked
    ∧ t.partNo = s.partNo

/-! Whole steps -/

/-- The form of stored data that equal contents share: memory and every cell store list their nonzero bytes by rising address, and committed
objects stand by rising key. -/
def State.inForm (s : State) : Prop :=
  Memory.wf s.mem = true ∧ (∀ c : CellRef, Memory.wf (s.cell c).store = true) ∧ s.dict.Pairwise fun a b => a.1 < b.1

/-- What no step ever takes back: the part number, and the fused SVN minima, which only rise. -/
def stands (s t : State) : Prop := t.partNo = s.partNo ∧ ∀ k : Fin 6, s.fw.svnFused[k] ≤ t.fw.svnFused[k]

/-- `exec i s` answers a next state that meets `post`. -/
def answers (i : Instr) (s : State) (post : State → Prop) : Prop := ∃ t, exec i s = .next t ∧ post t

end Sys2Proof.Machine
end

