-- ==== Sys2Proof/WellFormed.lean ====
section
/-!
DEFINITION. Well-formed commands: an engine instruction shall be legal by `EngOp.wf`; every other command is well formed.
-/

namespace Sys2Proof

/-- The engine instruction of a command, with its cell and engine. -/
def Instr.engine : Instr → Option (CellRef × Eng × EngOp)
  | .mpal c f => some (c, .mxe, .mpal f) | .mldw c f => some (c, .mxe, .mldw f)
  | .macc c f => some (c, .mxe, .macc f) | .mdrn c f => some (c, .mxe, .mdrn f)
  | .vld c f => some (c, .vxe, .vld f) | .vst c f => some (c, .vxe, .vst f)
  | .vpop c f => some (c, .vxe, .vpop f) | .vimm c f => some (c, .vxe, .vimm f)
  | .vadd c f => some (c, .vxe, .vadd f) | .vsub c f => some (c, .vxe, .vsub f)
  | .vmul c f => some (c, .vxe, .vmul f) | .vfma c f => some (c, .vxe, .vfma f)
  | .vmin c f => some (c, .vxe, .vmin f) | .vmax c f => some (c, .vxe, .vmax f)
  | .vdiv c f => some (c, .vxe, .vdiv f) | .vsqrt c f => some (c, .vxe, .vsqrt f)
  | .vtrn c f => some (c, .vxe, .vtrn f) | .vbit c f => some (c, .vxe, .vbit f)
  | .vlane c f => some (c, .vxe, .vlane f) | .vcmp c f => some (c, .vxe, .vcmp f)
  | .vsel c f => some (c, .vxe, .vsel f) | .vmop c f => some (c, .vxe, .vmop f)
  | .vcvt c f => some (c, .vxe, .vcvt f) | .vqmx c f => some (c, .vxe, .vqmx f)
  | .vred c f => some (c, .vxe, .vred f) | .vscan c f => some (c, .vxe, .vscan f)
  | .vsort c f => some (c, .vxe, .vsort f) | .vmrg c f => some (c, .vxe, .vmrg f)
  | .vselk c f => some (c, .vxe, .vselk f) | .vfirst c f => some (c, .vxe, .vfirst f)
  | .vrnd c f => some (c, .vxe, .vrnd f)
  | .waitTally c e f => some (c, e, .wait f) | .loopPush c e f => some (c, e, .loop f)
  | .sig c e f => some (c, e, .sig f) | .dly c e f => some (c, e, .dly f)
  | .stepend c e => some (c, e, .stepend)
  | .pset c f => some (c, .dme, .pset f) | .padd c f => some (c, .dme, .padd f)
  | .pld c f => some (c, .dme, .pld f) | .push c f => some (c, .dme, .push f)
  | .dpop c f => some (c, .dme, .dpop f) | .dcpy c f => some (c, .dme, .dcpy f)
  | .drd c f => some (c, .dme, .drd f) | .dwr c f => some (c, .dme, .dwr f)
  | .dsnd c f => some (c, .dme, .dsnd f) | .drcv c f => some (c, .dme, .drcv f)
  | .salu c f => some (c, .sqe, .salu f) | .simm c f => some (c, .sqe, .simm f)
  | .sld c f => some (c, .sqe, .sld f) | .sst c f => some (c, .sqe, .sst f)
  | .shk c f => some (c, .sqe, .shk f) | .srpt c f => some (c, .sqe, .srpt f)
  | .sbr c f => some (c, .sqe, .sbr f) | .spf c f => some (c, .sqe, .spf f)
  | .srnd c f => some (c, .sqe, .srnd f)
  | _ => none

/-- A command is well formed when its engine instruction, if it is one, is legal. -/
def Instr.wf (i : Instr) : Bool :=
  match i.engine with
  | some (_, _, op) => op.wf
  | none => true

end Sys2Proof
end

