-- ==== Sys2Proof/Certificates/Slice0/Obligations.lean ====
section
/-!
DEFINITION. The statements for the provers. Engine instructions first, then the partition around them, memory, links, time, the
dictionary, faults, firmware and start, whole steps last. `answers i s post`: command `i` on `s` answers a next state that meets `post`.
-/

open Sys2Proof Sys2Proof.Machine

/-! Engine instructions (04, 05): where each issues, what it schedules, and what it leaves unchanged -/

/-- R29, R84, R86, R87, R88, R91: MPAL, MLDW, MACC and MDRN of a cell that can issue them. A register that they read with LU = 1 is dead after;
MPAL and MLDW keep the weight port busy, MDRN the drain port, for as many cycles as they access granules. MACC whose WFMT is neither the
buffer's tag nor meets the reset tag computes with a free value (R80; log 5). Where the specification leaves a point open, this follows the
model's choice of log 4. -/
def Obligations.MatrixInstructionsIssue : Prop :=
  ∀ (s : State) (p : PartIx) (c : CellRef), s.ready p c .mxe = true →
    let k := s.cell c
    let o := s.org p c .mxe
    (∀ f : MpalF, (EngOp.mpal f).wf = true → k.portHeld ⟨.weight, o.issued, o.issued, o.issued⟩ = none →
      let size := if f.pf then 16 else 32
      let byte : BitVec 22 := BitVec.ofNat 22 (f.addr.toNat * 256 + f.slot.toNat * 16 + k.mxe.index f.aix * size)
      answers (.mpal c f) s fun t => reads s t p c .mxe f.sg (.mpal f.pd f.kill f.pf byte) [byte.extractLsb' 8 14] [(.pal f.pd, 8)] 1
        ∧ holdsPort (t.cell c) .weight o.issued o.issued)
    ∧ (∀ f : MldwF, (EngOp.mldw f).wf = true →
      let g := mldwG (fmtD f.wfmt)
      let us : List Use := if (fmtD f.wfmt).isPalette then [⟨.pal f.pa, f.palu⟩, ⟨.pal f.pb, f.pblu⟩] else []
      k.earlyUse o.issued us = none →
      k.portHeld ⟨.weight, o.issued, o.issued + BitVec.ofNat 32 g - 1, o.issued⟩ = none →
      answers (.mldw c f) s fun t => reads s t p c .mxe f.sg (.mldw f.wd f.kill f.wfmt (rd k.pal f.pa).val (rd k.pal f.pb).val)
        (granules (granuleAt f.addr (k.mxe.index f.aix) g) g) [(.wb f.wd, BitVec.ofNat 32 (g + 7))] 1
        ∧ lastUsed us (t.cell c) ∧ holdsPort (t.cell c) .weight o.issued (o.issued + BitVec.ofNat 32 g - 1))
    ∧ (∀ f : MaccF, (EngOp.macc f).wf = true → k.earlyUse o.issued [⟨.wb f.ws, f.wlu⟩] = none →
      let b := (rd k.wb f.ws).val
      let agrees : Bool := b.tag == none || b.tag == some f.wfmt
      answers (.macc c f) s fun t =>
        reads s t p c .mxe f.sg (.macc ⟨f, b, if agrees then none else some s.free⟩)
          (granules (granuleAt f.addr (k.mxe.index f.aix) (maccG f)) (maccG f)) [(.a f.tile, BitVec.ofNat 32 (maccN f + 23))]
          (BitVec.ofNat 32 (maccN f))
        ∧ lastUsed [⟨.wb f.ws, f.wlu⟩] (t.cell c)
        ∧ t.free = s.free + (if agrees then 0 else 1))
    ∧ (∀ f : MdrnF, (EngOp.mdrn f).wf = true → k.earlyUse o.issued [⟨.a f.tile, f.tlu⟩] = none →
      let g := mdrnG f.ofmt
      k.portHeld ⟨.drain, o.issued, o.issued + BitVec.ofNat 32 g - 1, o.issued⟩ = none →
      answers (.mdrn c f) s fun t => stores s t p c .mxe f.sg ((List.range g).map fun j =>
        ⟨o.issued + 4 + BitVec.ofNat 32 j, granuleAt f.addr (k.mxe.index f.aix) g + BitVec.ofNat 14 j, o,
          .store (mdrnGranule f.ofmt f.sat (rd k.a f.tile).val j) (BitVec.allOnes 256)⟩)
        ∧ lastUsed [⟨.a f.tile, f.tlu⟩] (t.cell c) ∧ holdsPort (t.cell c) .drain o.issued (o.issued + BitVec.ofNat 32 g - 1))

/-- R96: VLD reads its granule at its issue cycle, to land in VR eight cycles later; VST stores the enabled lanes four cycles after its issue;
VIMM lands its immediate in the enabled lanes after two cycles; VPOP takes the oldest landed entry of its queue, which lands after two. The
masks that they read with MLU, and the register that VST stores with LU, are dead after (R29). Where the specification leaves a point open,
this follows the model's choice of log 4. -/
def Obligations.VectorMovesIssue : Prop :=
  ∀ (s : State) (p : PartIx) (c : CellRef), s.ready p c .vxe = true →
    let k := s.cell c
    let o := s.org p c .vxe
    (∀ f : VmemF, (EngOp.vld f).wf = true → k.earlyUse o.issued (maskUse f.msk f.mlu) = none →
      answers (.vld c f) s fun t => reads s t p c .vxe f.sg (.vld f.vr f.kl (k.enables f.msk))
        [granuleStr f.addr (k.vxe.index f.aix) f.str] [(.v f.vr, 8)] 1 ∧ lastUsed (maskUse f.msk f.mlu) (t.cell c))
    ∧ (∀ f : VmemF, (EngOp.vst f).wf = true → k.earlyUse o.issued (⟨.v f.vr, f.kl⟩ :: maskUse f.msk f.mlu) = none →
      answers (.vst c f) s fun t => stores s t p c .vxe f.sg
        [⟨o.issued + 4, granuleStr f.addr (k.vxe.index f.aix) f.str, o, .store (rd k.v f.vr).val (laneBytes (k.enables f.msk))⟩]
        ∧ lastUsed (⟨.v f.vr, f.kl⟩ :: maskUse f.msk f.mlu) (t.cell c))
    ∧ (∀ f : ViF, (EngOp.vimm f).wf = true → k.earlyUse o.issued (maskUse f.msk f.mlu) = none →
      answers (.vimm c f) s fun t => lands s t p c .vxe f.sg f.kill 2 1 [.v f.vd (ofLanes fun _ => f.imm) (k.enables f.msk)]
        ∧ lastUsed (maskUse f.msk f.mlu) (t.cell c))
    ∧ (∀ (f : VqF) (x : QEntry) (xs : List QEntry), (EngOp.vpop f).wf = true → (k.queue (Side.ofCode f.q)).landed = x :: xs →
      answers (.vpop c f) s fun t =>
        (t.cell c).queue (Side.ofCode f.q) = { k.queue (Side.ofCode f.q) with landed := xs }
        ∧ (∀ q, q ≠ Side.ofCode f.q → (t.cell c).queue q = k.queue q)
        ∧ (t.cell c).landings = k.landings ++ [⟨o.issued + 2, .v f.vd x.data (BitVec.allOnes 64), f.kill, true, o⟩]
        ∧ o.issued + 2 ≤ (t.cell c).landOf (.v f.vd)
        ∧ k.sameValues (t.cell c) ∧ (t.cell c).tally = k.tally ∧ (t.cell c).store = k.store ∧ onlyCell c s t)

/-- R29, R97, R98, R101, R102: the arithmetic and conversion instructions of the vector engine land, lane by lane under the mask, the value of
their operation on the operands as they stand at issue, after the latencies of Table 4-10; VDIV, VSQRT, VTRN and VQMX keep the engine longer
than a cycle; an operand read with LU = 1 is dead after. The guard bits with which VTRN rounds (log 8), the source formats to which VQMX
keeps (log 83) and the sign of a zero quotient or root (log 92) are the model's reading. Where the specification leaves a point open, this
follows the model's choice of logs 4, 5, 8, 83, 92. -/
def Obligations.VectorArithmeticIssues : Prop :=
  ∀ (s : State) (p : PartIx) (c : CellRef), s.ready p c .vxe = true →
    let k := s.cell c
    let does (op : EngOp) (i : Instr) (us : List Use) (sg : SigF) (kill : Bool) (lat n : BitVec 32) (vals : List LandVal) : Prop :=
      op.wf = true → k.earlyUse (s.part p).cyc us = none →
        answers i s fun t => lands s t p c .vxe sg kill lat n vals ∧ lastUsed us (t.cell c)
    (∀ f : VrF,
      let va := k.vr f.va
      let vb := k.vr f.vb
      let a : List Use := [⟨.v f.va, f.alu⟩]
      let b : List Use := [⟨.v f.vb, f.blu⟩]
      let m := maskUse f.msk f.mlu
      let puts (op : EngOp) (i : Instr) (us : List Use) (lat n : BitVec 32) (r : Granule) : Prop :=
        does op i (us ++ m) f.sg f.kill lat n [.v f.vd r (k.enables f.msk)]
      puts (.vadd f) (.vadd c f) (a ++ b) 6 1 (fpMap2 f.fmt Val.add va vb)
      ∧ puts (.vsub f) (.vsub c f) (a ++ b) 6 1 (fpMap2 f.fmt (fun x y => x.add y.neg) va vb)
      ∧ puts (.vmul f) (.vmul c f) (a ++ b) 6 1 (fpMap2 f.fmt Val.mul va vb)
      ∧ puts (.vfma f) (.vfma c f) (a ++ b ++ [⟨.v f.vc, f.clu⟩]) 6 1 (fpMap3 f.fmt Val.fma va vb (k.vr f.vc))
      ∧ puts (.vmin f) (.vmin c f) (a ++ b) 4 1 (fpMap2 f.fmt Val.vmin va vb)
      ∧ puts (.vmax f) (.vmax c f) (a ++ b) 4 1 (fpMap2 f.fmt Val.vmax va vb)
      ∧ puts (.vdiv f) (.vdiv c f) (a ++ b) 18 4 (fpMap2 f.fmt Val.div va vb)
      ∧ puts (.vsqrt f) (.vsqrt c f) a 18 4 (fpMap f.fmt Val.sqrt va)
      ∧ puts (.vtrn f) (.vtrn c f) a 12 2 (fpMap f.fmt (trFn f.sub) va))
    ∧ (∀ f : VcF,
      let sf := fmtD f.sfmt
      let df := fmtD f.dfmt
      let every := BitVec.allOnes 64
      does (.vcvt f) (.vcvt c f) (⟨.v f.va, f.alu⟩ :: (if sf.isMx || sf.isPalette then [⟨.v f.vb, f.blu⟩] else [])) f.sg f.kill 6 1
          [.v f.vd (vcvtRes sf df f.part f.sat (k.vr f.va) (k.vr f.vb)) every]
      ∧ does (.vqmx f) (.vqmx c f) [⟨.v f.va, f.alu⟩] f.sg f.kill 10 2
          [.v f.vd (vqmxRes sf df f.part (k.vr f.va)).1 every, .v (f.vd + 1) (vqmxRes sf df f.part (k.vr f.va)).2 every])

/-- R29, R99, R100, R103 to R106, R264: the instructions of the vector engine on raw lanes and masks, its reductions, scans, sorts, selections
and draws; an operand read with LU = 1 is dead after, and a draw that names a seed-table entry notes it. That VSORT and VMRG keep the bits
of NaN keys is the model's reading (log 84). Where the specification leaves a point open, this follows the model's choice of logs 4, 84. -/
def Obligations.VectorLaneInstructionsIssue : Prop :=
  ∀ (s : State) (p : PartIx) (c : CellRef), s.ready p c .vxe = true →
    let k := s.cell c
    let every := BitVec.allOnes 64
    let does (op : EngOp) (i : Instr) (us : List Use) (sg : SigF) (kill : Bool) (lat n : BitVec 32) (vals : List LandVal) : Prop :=
      op.wf = true → k.earlyUse (s.part p).cyc us = none →
        answers i s fun t => lands s t p c .vxe sg kill lat n vals ∧ lastUsed us (t.cell c)
    (∀ f : VrF,
      let va := k.vr f.va
      let vb := k.vr f.vb
      let en := k.enables f.msk
      let a : List Use := [⟨.v f.va, f.alu⟩]
      let b : List Use := [⟨.v f.vb, f.blu⟩]
      let m := maskUse f.msk f.mlu
      let puts (op : EngOp) (i : Instr) (us : List Use) (lat n : BitVec 32) (vals : List LandVal) : Prop :=
        does op i us f.sg f.kill lat n vals
      puts (.vbit f) (.vbit c f) (a ++ (if f.sub = 4 then [] else b) ++ m) 2 1 [.v f.vd (vbitRes f.sub va vb) en]
      ∧ puts (.vlane f) (.vlane c f) ((if f.sub = 4 then [] else a) ++ (if f.sub = 1 then b else []) ++ m) 4 1
          [.v f.vd (vlaneRes f.sub va vb f.vb.toNat) en]
      ∧ puts (.vsel f) (.vsel c f) (a ++ b ++ m) 2 1 [.v f.vd (mergeLanes en vb va) every]
      ∧ puts (.vred f) (.vred c f) (a ++ m) 14 2 [.v f.vd (vredRes f.sub va en) every]
      ∧ puts (.vscan f) (.vscan c f) (a ++ b ++ (if f.sub.getLsbD 0 then [] else [⟨.v f.vc, f.clu⟩]) ++ m) 20 2
          [.v f.vd (vscanRes f.fmt (f.sub.getLsbD 0) va vb (k.vr f.vc)) every]
      ∧ puts (.vsort f) (.vsort c f) (a ++ b) 24 8
          [.v f.vd (vsortRes (f.sub.getLsbD 0) va vb).1 every, .v (f.vd + 1) (vsortRes (f.sub.getLsbD 0) va vb).2 every]
      ∧ (let r := vmrgRes (f.sub.getLsbD 0) va (k.vr (f.va + 1)) vb (k.vr (f.vb + 1));
        puts (.vmrg f) (.vmrg c f) [⟨.v f.va, f.alu⟩, ⟨.v (f.va + 1), f.alu⟩, ⟨.v f.vb, f.blu⟩, ⟨.v (f.vb + 1), f.blu⟩] 12 4
            [.v f.vd r.1 every, .v (f.vd + 1) r.2 every])
      ∧ puts (.vfirst f) (.vfirst c f) m 4 1 [.v f.vd (vfirstRes (f.sub.getLsbD 0) en) every])
    ∧ (∀ f : VkF,
      let en := k.enables f.msk
      let m := maskUse f.msk f.mlu
      does (.vcmp f) (.vcmp c f) ([⟨.v f.va, f.alu⟩, ⟨.v f.vb, f.blu⟩] ++ m) f.sg f.kill 4 1
          [.m f.md (vcmpRes f.cond (k.vr f.va) (k.vr f.vb)) en]
      ∧ does (.vselk f) (.vselk c f) (⟨.v f.va, f.alu⟩ :: m) f.sg f.kill 16 4
          [.m f.md (vselkRes (f.cond.getLsbD 0) f.ksel.toNat (k.vr f.va) en) every])
    ∧ (∀ f : VmF, does (.vmop f) (.vmop c f)
        ((if f.sub = 5 then [] else [⟨.m f.ma, f.malu⟩]) ++ (if f.sub = 5 ∨ f.sub = 4 then [] else [⟨.m f.mb, f.mblu⟩])) f.sg f.kill 2 1
        [.m f.md (vmopRes f.sub f.n (rd k.m f.ma).val (rd k.m f.mb).val) every])
    ∧ (∀ f : VsF, (EngOp.vrnd f).wf = true →
        let x := s.ctx p
        answers (.vrnd c f) s fun t => draws s t p c .vxe f.sg f.kill f.ksrc f.sel
          [.v f.vd (vrndRes (x.key f.ksrc f.sel) (x.ctr c (callOf (k.vxe.index f.aix) f.callb)) f.wsel f.form) every])

/-- R34, R112, R114, R115: WAIT, LOOP, SIG, DLY and STEPEND on any engine. A WAIT is due at DUE, or DUE cycles after the start of the iteration
that DM selects (R110); that cycle may lie past the last value of CYC. A LOOP on a full stack is illegal: it leaves a stack of which nothing
is known (R9; log 56). Where the specification leaves a point open, this follows the model's choice of log 4. -/
def Obligations.SequencingInstructionsIssue : Prop :=
  ∀ (s : State) (p : PartIx) (c : CellRef) (e : Eng), s.ready p c e = true →
    let k := s.cell c
    let o := s.org p c e
    (∀ f : WaitF, (EngOp.wait f).wf = true →
      let due := if f.dm = 0 then f.due.toNat else (k.eng e).istart (f.dm.toNat - 1) + f.due.toNat
      o.issued.toNat < due → answers (.waitTally c e f) s fun t => steps s t p c e [] (.wait ⟨f, due, o.issued, o.pc⟩))
    ∧ (∀ f : LoopF, (EngOp.loop f).wf = true →
      ((k.eng e).loops.length < 4 → answers (.loopPush c e f) s fun t =>
        steps s t p c e (signalAfter o f.sg) (.loop (f.count.setWidth 32) (o.pc + 8 * f.body.setWidth 32)))
      ∧ (4 ≤ (k.eng e).loops.length → answers (.loopPush c e f) s fun t => steps s t p c e (signalAfter o f.sg) (.spill s.free)))
    ∧ (∀ f : SigTwoF, (EngOp.sig f).wf = true →
      answers (.sig c e f) s fun t => steps s t p c e
        (if f.sg.stal = f.tal2 then (if f.sg.sinc.toNat + f.inc2.toNat = 0 then [] else
            [⟨o.issued + 2, f.tal2, f.sg.sinc.toNat + f.inc2.toNat, o⟩])
          else signalAfter o f.sg ++ (if f.inc2 = 0 then [] else [⟨o.issued + 2, f.tal2, f.inc2.toNat, o⟩])) (.next 1))
    ∧ (∀ f : DlyF, (EngOp.dly f).wf = true →
      answers (.dly c e f) s fun t => steps s t p c e (signalAfter o f.sg) (.next f.n))
    ∧ answers (.stepend c e) s fun t => steps s t p c e [] .stop

/-- R29, R116, R117: PSET and PADD land their pointer after two cycles, PLD after eight. PLD keeps the read port busy; a pointer that PADD reads
with LU = 1 is dead after. Where the specification leaves a point open, this follows the model's choice of log 4. -/
def Obligations.PointerInstructionsIssue : Prop :=
  ∀ (s : State) (p : PartIx) (c : CellRef), s.ready p c .dme = true →
    let k := s.cell c
    let o := s.org p c .dme
    (∀ f : PsetF, (EngOp.pset f).wf = true → (f.hi = true → k.landOf (.p f.pd) ≤ o.issued) →
      answers (.pset c f) s fun t =>
        lands s t p c .dme f.sg f.kill 2 1 [.p f.pd (if f.hi then f.imm ++ (rd k.p f.pd).val.extractLsb' 0 32 else f.imm.setWidth 64)]
        ∧ (f.hi = true → (t.cell c).liveOf (.p f.pd) = false))
    ∧ (∀ f : PaddF, (EngOp.padd f).wf = true → k.landOf (.p f.pa) ≤ o.issued →
      answers (.padd c f) s fun t => lands s t p c .dme f.sg f.kill 2 1 [.p f.pd ((rd k.p f.pa).val + f.imm.signExtend 64)]
        ∧ lastUsed [⟨.p f.pa, f.alu⟩] (t.cell c))
    ∧ (∀ f : PldF, (EngOp.pld f).wf = true → k.portHeld ⟨.dmeRead, o.issued, o.issued, o.issued⟩ = none →
      answers (.pld c f) s fun t => reads s t p c .dme f.sg (.pld f.pd f.kill f.word) [granuleAt f.addr (k.dme.index f.aix) 1]
        [(.p f.pd, 8)] 1 ∧ holdsPort (t.cell c) .dmeRead o.issued o.issued)

/-- R116, R118, R119: PUSH reads the granule that leaves for the neighbour, DPOP moves the oldest landed entry of its queue to the cell store,
DCPY reads a range for a copy; each keeps the port busy that it needs. While the vector engine may still pop in the cycle, a DPOP waits for
its cell cycle. Where the specification leaves a point open, this follows the model's choice of log 4. -/
def Obligations.MoveInstructionsIssue : Prop :=
  ∀ (s : State) (p : PartIx) (c : CellRef), s.ready p c .dme = true →
    let k := s.cell c
    let o := s.org p c .dme
    (∀ f : PushF, (EngOp.push f).wf = true → k.portHeld ⟨.dmeRead, o.issued, o.issued, o.issued⟩ = none →
      (crossesDie c (Side.ofCode f.dir) = true → ∀ x, k.xpush = some x → x + 4 ≤ o.issued) →
      answers (.push c f) s fun t =>
        reads s t p c .dme f.sg (.push (Side.ofCode f.dir) f.qtal f.qinc) [granuleAt f.addr (k.dme.index f.aix) 1] [] 1
        ∧ holdsPort (t.cell c) .dmeRead o.issued o.issued
        ∧ (t.cell c).xpush = if crossesDie c (Side.ofCode f.dir) then some o.issued else k.xpush)
    ∧ (∀ f : DpopF, k.vxe.canIssue o.issued = true →
      answers (.dpop c f) s fun t => t.cell c = { k with dme := { k.dme with iq := [.dpop f] } } ∧ onlyCell c s t)
    ∧ (∀ (f : DpopF) (x : QEntry) (xs : List QEntry), (EngOp.dpop f).wf = true → k.vxe.canIssue o.issued = false →
      (k.queue (Side.ofCode f.q)).landed = x :: xs →
      k.portHeld ⟨.dmeWrite, o.issued + 4, o.issued + 4, o.issued⟩ = none →
      answers (.dpop c f) s fun t =>
        (t.cell c).queue (Side.ofCode f.q) = { k.queue (Side.ofCode f.q) with landed := xs }
        ∧ (∀ q, q ≠ Side.ofCode f.q → (t.cell c).queue q = k.queue q)
        ∧ (t.cell c).accesses = k.accesses ++
            [⟨o.issued + 4, granuleAt f.addr (k.dme.index f.aix) 1, o, .store x.data (BitVec.allOnes 256)⟩]
        ∧ holdsPort (t.cell c) .dmeWrite (o.issued + 4) (o.issued + 4)
        ∧ k.sameValues (t.cell c) ∧ (t.cell c).tally = k.tally ∧ (t.cell c).store = k.store ∧ onlyCell c s t)
    ∧ (∀ f : DcpyF, (EngOp.dcpy f).wf = true →
      let g := f.gm1.toNat + 1
      let i := k.dme.index f.aix
      k.portHeld ⟨.dmeRead, o.issued, o.issued + BitVec.ofNat 32 g - 1, o.issued⟩ = none →
      k.portHeld ⟨.dmeWrite, o.issued + 4, o.issued + 3 + BitVec.ofNat 32 g, o.issued⟩ = none →
      answers (.dcpy c f) s fun t => reads s t p c .dme f.sg (.copy (granuleAt f.dst i g)) (granules (granuleAt f.src i g) g) [] 1
        ∧ holdsPort (t.cell c) .dmeRead o.issued (o.issued + BitVec.ofNat 32 g - 1)
        ∧ holdsPort (t.cell c) .dmeWrite (o.issued + 4) (o.issued + 3 + BitVec.ofNat 32 g))

/-- R29, R116, R121, R124: DRD, DWR, DSND and DRCV start a transaction under the lowest free number; DWR and DSND read their range into the
staging buffer and keep the read port busy; a pointer that DRD or DWR reads with LU = 1 is dead after. Where the specification leaves a
point open, this follows the model's choice of log 4. -/
def Obligations.TransferInstructionsIssue : Prop :=
  ∀ (s : State) (p : PartIx) (c : CellRef), s.ready p c .dme = true → (∃ i : Fin 64, (s.cell c).txs[i] = none) →
    let k := s.cell c
    let o := s.org p c .dme
    let x := s.ctx p
    let i := k.dme.index
    let apart (first : BitVec 14) (g : Nat) : Prop := ∀ u ∈ k.txs.toList, ∀ y, u = some y → y.kind = .drd ∨ y.kind = .drcv →
      rangesMeet first y.first g y.g = false
    let memory (f : DmemF) (kind : TxKind) : Tx :=
      let g := f.gm1.toNat + 1
      let a := (rd k.p f.ps).val + BitVec.ofNat 64 (i f.aix) * f.str.signExtend 64 * 256
      { kind, ctal := f.ctal, cinc := f.cinc, by_ := o, serial := k.serial, first := granuleAt f.caddr (i f.aix) g, g, mem := a,
        legal := x.memOk a g, wild := false, route := 0, kth := 0, arrived := 0, written := 0, drained := 0, raced := [], sealed := none,
        done := false }
    let link (f : DlinkF) (kind : TxKind) : Tx :=
      let g := f.gm1.toNat + 1
      { kind, ctal := f.ctal, cinc := f.cinc, by_ := o, serial := k.serial, first := granuleAt f.caddr (i f.aix) g, g, mem := 0,
        legal := true, wild := false, route := f.route, kth := k.kthOf (kind == .dsnd) (x.tag c f.route), arrived := 0, written := 0, drained := 0,
        raced := [], sealed := none, done := false }
    let staged (t : State) (y : Tx) : Prop :=
      (t.cell c).streams = k.streams ++ [⟨k.nextStream, o, .stage k.freeTx, y.g, []⟩]
      ∧ (t.cell c).accesses = k.accesses ++
          (granules y.first y.g).mapIdx (fun j g => ⟨o.issued + BitVec.ofNat 32 j, g, o, .read k.nextStream⟩)
      ∧ holdsPort (t.cell c) .dmeRead o.issued (o.issued + BitVec.ofNat 32 y.g - 1)
    let port (g : Nat) : Prop := k.portHeld ⟨.dmeRead, o.issued, o.issued + BitVec.ofNat 32 g - 1, o.issued⟩ = none
    (∀ f : DmemF, (EngOp.drd f).wf = true → k.landOf (.p f.ps) ≤ o.issued → apart (memory f .drd).first (memory f .drd).g →
      answers (.drd c f) s fun t => starts s t p c (memory f .drd) ∧ (t.cell c).streams = k.streams ∧ (t.cell c).accesses = k.accesses
        ∧ lastUsed [⟨.p f.ps, f.plu⟩] (t.cell c))
    ∧ (∀ f : DmemF, (EngOp.dwr f).wf = true → k.landOf (.p f.ps) ≤ o.issued → port (memory f .dwr).g → k.staging.length < 64 →
      answers (.dwr c f) s fun t => starts s t p c (memory f .dwr) ∧ staged t (memory f .dwr) ∧ lastUsed [⟨.p f.ps, f.plu⟩] (t.cell c))
    ∧ (∀ f : DlinkF, (EngOp.dsnd f).wf = true → port (link f .dsnd).g → k.staging.length < 64 →
      answers (.dsnd c f) s fun t => starts s t p c (link f .dsnd) ∧ staged t (link f .dsnd))
    ∧ (∀ f : DlinkF, (EngOp.drcv f).wf = true → apart (link f .drcv).first (link f .drcv).g →
      answers (.drcv c f) s fun t => starts s t p c (link f .drcv) ∧ (t.cell c).streams = k.streams ∧ (t.cell c).accesses = k.accesses)

/-- R29, R128 to R134, R264: the instructions of the sequence engine. SBR goes to PC + 8 × OFF after four cycles when its condition holds, and
on after one when not; SRPT reports its word at once; SPF asks for its line unless that is cached or under way. An operand read with LU = 1
is dead after; a draw that names a seed-table entry notes it. Where the specification leaves a point open, this follows the model's choice
of log 4. -/
def Obligations.SequenceEngineInstructionsIssue : Prop :=
  ∀ (s : State) (p : PartIx) (c : CellRef), s.ready p c .sqe = true →
    let k := s.cell c
    let o := s.org p c .sqe
    let x := s.ctx p
    (∀ f : SaluF, (EngOp.salu f).wf = true →
      let us : List Use := ⟨.s f.sa, f.alu⟩ :: (if f.i then [] else [⟨.s f.sb, f.blu⟩])
      k.earlyUse o.issued us = none →
      answers (.salu c f) s fun t => lands s t p c .sqe f.sg f.kill (if f.sub = 2 then 4 else 2) 1
        [.s f.sd (saluOp f.sub (rd k.s f.sa).val (if f.i then f.imm.signExtend 64 else (rd k.s f.sb).val))]
        ∧ lastUsed us (t.cell c))
    ∧ (∀ f : SimmF, (EngOp.simm f).wf = true → (f.hi = true → k.landOf (.s f.sd) ≤ o.issued) →
      answers (.simm c f) s fun t => lands s t p c .sqe f.sg f.kill 2 1
        [.s f.sd (if f.hi then f.imm ++ (rd k.s f.sd).val.extractLsb' 0 32 else f.imm.signExtend 64)]
        ∧ (f.hi = true → (t.cell c).liveOf (.s f.sd) = false))
    ∧ (∀ f : SmemF, (EngOp.sld f).wf = true →
      let a : BitVec 22 := f.addr + BitVec.ofNat 22 (k.sqe.index f.aix) * f.str.signExtend 22 * 8
      answers (.sld c f) s fun t => reads s t p c .sqe f.sg (.sld f.srg f.kl (a.extractLsb' 3 5)) [a.extractLsb' 8 14] [(.s f.srg, 8)] 1)
    ∧ (∀ f : SmemF, (EngOp.sst f).wf = true → k.landOf (.s f.srg) ≤ o.issued →
      let a : BitVec 22 := f.addr + BitVec.ofNat 22 (k.sqe.index f.aix) * f.str.signExtend 22 * 8
      let w := (a.extractLsb' 3 5).toNat
      answers (.sst c f) s fun t => stores s t p c .sqe f.sg
        [⟨o.issued + 4, a.extractLsb' 8 14, o, .store (BitVec.ofNat 2048 (2 ^ (64 * w) * (rd k.s f.srg).val.toNat))
          (BitVec.ofNat 256 (255 * 2 ^ (8 * w)))⟩] ∧ lastUsed [⟨.s f.srg, f.kl⟩] (t.cell c))
    ∧ (∀ f : ShkF, (EngOp.shk f).wf = true →
      answers (.shk c f) s fun t => lands s t p c .sqe f.sg f.kill 2 1 [.s f.sd (x.hook c f.hsel f.slot)])
    ∧ (∀ f : SrptF, (EngOp.srpt f).wf = true → k.landOf (.s f.sa) ≤ o.issued →
      answers (.srpt c f) s fun t =>
        (t.cell c).reports = k.reports ++ [⟨f.slot, f.word, (rd k.s f.sa).val, o.issued⟩]
        ∧ issued .sqe k { t.cell c with reports := k.reports } ∧ lastUsed [⟨.s f.sa, f.alu⟩] (t.cell c) ∧ onlyCell c s t)
    ∧ (∀ f : SbrF, (EngOp.sbr f).wf = true → (f.cond = 6 ∨ k.landOf (.s f.sa) ≤ o.issued) →
      answers (.sbr c f) s fun t => steps s t p c .sqe (signalAfter o f.sg)
        (if sbrTaken f.cond (rd k.s f.sa).val then .jump (o.pc + 8 * f.off.signExtend 32) 4 else .next 1)
        ∧ (f.cond ≠ 6 → lastUsed [⟨.s f.sa, f.alu⟩] (t.cell c)))
    ∧ (∀ f : SpfF, (EngOp.spf f).wf = true →
      answers (.spf c f) s fun t =>
        let r : Refill := ⟨Eng.ofCode f.eng, f.line⟩
        (t.cell c).refills = (if (k.eng r.eng).hasLine r.line || k.refills.contains r then k.refills else k.refills ++ [r])
        ∧ issued .sqe k { t.cell c with refills := k.refills } ∧ onlyCell c s t)
    ∧ (∀ f : SrndF, (EngOp.srnd f).wf = true →
      let w := scent (x.key f.ksrc f.sel) (x.ctr c (callOf (k.sqe.index f.aix) f.callb) 0)
      answers (.srnd c f) s fun t => draws s t p c .sqe f.sg f.kill f.ksrc f.sel
        [.s f.sd (if f.pair then w.get (f.wsel.toNat + 1) ++ w.get f.wsel.toNat else (w.get f.wsel.toNat).setWidth 64)])

/-- R84: an instruction that needs the weight port or the drain port while it is busy takes QUEUE_OVERRUN, with its own issue cycle first and that
of an instruction that holds the port second, and accesses nothing; the engine issues nothing more in the cycle (R25). -/
def Obligations.BusyPortsAreOverrun : Prop :=
  ∀ (s : State) (p : PartIx) (c : CellRef), s.ready p c .mxe = true →
    let k := s.cell c
    let o := s.org p c .mxe
    let post (w : PortWindow) (t : State) : Prop :=
      ∃ v ∈ k.ports, v.port = w.port ∧ v.first ≤ w.last ∧ w.first ≤ v.last
        ∧ faults s t p c ⟨.queueOverrun, c, .mxe, o.pc, .port w.port, o.issued, v.issued⟩
    let one : PortWindow := ⟨.weight, o.issued, o.issued, o.issued⟩
    (∀ f : MpalF, (EngOp.mpal f).wf = true → (k.portHeld one).isSome = true → answers (.mpal c f) s (post one))
    ∧ (∀ f : MldwF, (EngOp.mldw f).wf = true →
      k.earlyUse o.issued (if (fmtD f.wfmt).isPalette then [⟨.pal f.pa, f.palu⟩, ⟨.pal f.pb, f.pblu⟩] else []) = none →
      let w : PortWindow := ⟨.weight, o.issued, o.issued + BitVec.ofNat 32 (mldwG (fmtD f.wfmt)) - 1, o.issued⟩
      (k.portHeld w).isSome = true → answers (.mldw c f) s (post w))
    ∧ (∀ f : MdrnF, (EngOp.mdrn f).wf = true → k.earlyUse o.issued [⟨.a f.tile, f.tlu⟩] = none →
      let w : PortWindow := ⟨.drain, o.issued, o.issued + BitVec.ofNat 32 (mdrnG f.ofmt) - 1, o.issued⟩
      (k.portHeld w).isSome = true → answers (.mdrn c f) s (post w))

/-- R30, R368: an instruction that reads a register before its LAND takes EARLY_READ, in every engine and form that names a source first:
it leaves its queue, does nothing else, its engine issues nothing more in the cycle (R25), and the fault waits for the end of the phase. Shown for VADD, SALU and PADD. -/
def Obligations.EarlyReadIsAFault : Prop :=
  ∀ (s : State) (p : PartIx) (c : CellRef),
    let k := s.cell c
    let cyc := (s.part p).cyc
    let post (e : Eng) (r : RegName) (t : State) : Prop := faults s t p c ⟨.earlyRead, c, e, (k.eng e).pc, .reg r, cyc, k.landOf r⟩
    (∀ f : VrF, s.ready p c .vxe = true → (EngOp.vadd f).wf = true → cyc < k.landOf (.v f.va) →
      answers (.vadd c f) s (post .vxe (.v f.va)))
    ∧ (∀ f : SaluF, s.ready p c .sqe = true → (EngOp.salu f).wf = true → cyc < k.landOf (.s f.sa) →
      answers (.salu c f) s (post .sqe (.s f.sa)))
    ∧ (∀ f : PaddF, s.ready p c .dme = true → (EngOp.padd f).wf = true → cyc < k.landOf (.p f.pa) →
      answers (.padd c f) s (post .dme (.p f.pa)))

/-! Cells: cycles, waits, landings, tallies, the cell store, step boundaries, arrivals -/

/-- R34, by its five cases: a wait whose due cycle has come by its issue is a STATIC_MISS and does not issue; any other one keeps its engine
from issuing until the due cycle, when a met condition lets the next instruction issue in that cycle (and takes the threshold off the tally
where C = 1), and an unmet one is a STATIC_MISS for V = 0 and a cause of a hold for V = 1. -/
def Obligations.WaitsFollowTheirDueCycle : Prop :=
  (∀ (s : State) (p : PartIx) (c : CellRef) (e : Eng) (f : WaitF), s.ready p c e = true → (EngOp.wait f).wf = true →
    let o := s.org p c e
    let due := waitDue f ((s.cell c).eng e)
    (due ≤ o.issued.toNat → answers (.waitTally c e f) s fun t =>
        faults s t p c ⟨.staticMiss, c, e, o.pc, .tally f.tally, BitVec.ofNat 32 due, o.issued⟩)
    ∧ (o.issued.toNat < due → answers (.waitTally c e f) s fun t =>
        ((t.cell c).eng e).wait = some ⟨f, due, o.issued, o.pc⟩ ∧ ∀ cyc, ((t.cell c).eng e).canIssue cyc = false))
  ∧ (∀ (k : Cell) (c : CellRef) (e : Eng) (w : WaitRec) (d : BitVec 32), (k.eng e).wait = some w → w.due = d.toNat →
    let r := evalWait c d ⟨k, [], []⟩ e
    let met := w.f.thr ≤ rd k.tally w.f.tally
    (met → r.causes = [] ∧ r.faults = [] ∧ (r.cell.eng e).wait = none
      ∧ rd r.cell.tally w.f.tally = rd k.tally w.f.tally - (if w.f.c then w.f.thr else 0)
      ∧ ((k.eng e).ended = false → (k.eng e).ready ≤ w.due → (r.cell.eng e).canIssue d = true))
    ∧ (¬ met → w.f.v = false → r.cell = k ∧ r.causes = [] ∧ r.faults = [⟨.staticMiss, c, e, w.pc, .tally w.f.tally, d, w.issued⟩])
    ∧ (¬ met → w.f.v = true → r.cell = k ∧ r.causes = [⟨c, e, w.pc, .wait w.f.tally⟩] ∧ r.faults = [])
    ∧ ∀ cyc, cyc ≠ d → evalWait c cyc ⟨k, [], []⟩ e = ⟨k, [], []⟩)

/-- R15, R16, R146, R368: a cell cycle of a partition that runs, in whatever state, either counts in CYC and not as held, or is held and counts
in HOLD_STEP and HOLD_TOTAL, or ends in a fault that freezes the partition; a partition that does not run has no cycle. Where nothing is
left to happen in its cells (their engines have ended, and no signal, landing, access, stream, queue entry on its way, transaction, fill,
staged granule or completion remains), a cycle only advances CYC and time. A cycle that a late item or the governor holds counts once for
each of its causes; past its phases 1 to 3 the cells' register values and tallies stand still. Where the specification leaves a point open,
this follows the model's choice of logs 2, 49, 76. -/
def Obligations.CellCyclesCountOrHold : Prop :=
  (∀ (s : State) (p : PartIx),
     ((s.part p).runs = true → ∃ t, Sys2Proof.Machine.exec (.cellCycle p) s = .next t
       ∧ (((t.part p).cyc = (s.part p).cyc + 1 ∧ (t.part p).holdStep = (s.part p).holdStep ∧ (t.part p).holdTotal = (s.part p).holdTotal)
         ∨ ((t.part p).cyc = (s.part p).cyc ∧ (t.part p).holdStep = (s.part p).holdStep + 1
             ∧ (t.part p).holdTotal = (s.part p).holdTotal + 1)
         ∨ ((t.part p).cyc = (s.part p).cyc ∧ (t.part p).frozen.isSome = true)))
     ∧ ((s.part p).runs = false → ∃ t, Sys2Proof.Machine.exec (.cellCycle p) s = .next t ∧ t = s))
  ∧ (∀ (s : State) (p : PartIx), (s.part p).runs = true → (s.part p).govHold = false → (s.part p).front = false →
     (s.part p).pendFaults = [] → (s.part p).jobState ≠ 4 → s.barkWait p = false →
     (∀ c ∈ s.cellsOf p, (s.cell c).drained = true ∧ (s.cell c).signals = [] ∧ (s.cell c).completions = [] ∧ (s.cell c).staging = []
       ∧ ∀ e, ((s.cell c).eng e).wait = none
       ∧ ∀ q, ((s.cell c).queue q).coming = [] ∧ ((s.cell c).queue q).landed.length ≤ 32) →
     answers (.cellCycle p) s fun t =>
       (t.part p).cyc = (s.part p).cyc + 1 ∧ (t.part p).hold = none ∧ (t.part p).holdStep = (s.part p).holdStep
       ∧ t = { s with parts := s.parts.set p (t.part p), up := t.up, heel := t.heel })
  ∧ (∀ (s : State) (p : PartIx), (s.part p).runs = true → (s.part p).front = false → s.barkWait p = false →
     let keeps (u : State) : Prop := (u.part p).runs = true ∧ ∀ h, (u.part p).hold = some h → h.len + 1 < s.limitCycles p
     let post (gov : BitVec 64) (u t : State) : Prop :=
       (t.part p).cyc = (s.part p).cyc
       ∧ (t.part p).holdStep = (s.part p).holdStep + 1 ∧ (t.part p).holdTotal = (s.part p).holdTotal + 1
       ∧ (t.part p).holdItem = (s.part p).holdItem + (if (u.part p).hold.isSome then 1 else 0)
       ∧ (t.part p).holdGov = (s.part p).holdGov + gov
       ∧ (t.part p).hold = (u.part p).hold.map (fun h => { h with len := h.len + 1 }) ∧ (t.part p).frozen = none
       ∧ ∀ c, (u.cell c).sameValues (t.cell c) ∧ (t.cell c).tally = (u.cell c).tally
     ((s.part p).govHold = false → keeps (s.front p) → ((s.front p).part p).hold.isSome = true →
       ∃ t, Sys2Proof.Machine.exec (.cellCycle p) s = .next t ∧ post 0 (s.front p) t)
     ∧ ((s.part p).govHold = true → keeps (s.governed p) →
       ∃ t, Sys2Proof.Machine.exec (.cellCycle p) s = .next t ∧ post 1 (s.governed p) t))

/-- R29, R31, R33, R67, R88, R94: a landing on a register that is not live, or with KILL, makes its value and LIVE 1: in vector registers and masks in
the enabled lanes, in a tile of an MACC its block added to each element. One on a live register without KILL is a LATE_OVERWRITE charged to the
writing instruction and changes nothing, and so is a second one in the cycle; the landing of an accumulating MACC is never one. A signal adds to its tally, or, where it would carry it past 65,535, is a
QUEUE_OVERRUN charged to its source; no signal of a cycle lowers a tally, so none wraps. -/
def Obligations.LandingsAndSignals : Prop :=
  (∀ (k : Cell) (cyc : BitVec 32) (l : Landing),
     let puts (r : Cell × List SchedFault) : Prop :=
       r.2 = [] ∧ r.1.liveOf l.val.reg = true
       ∧ (∀ i x, l.val = .s i x → (rd r.1.s i).val = x)
       ∧ (∀ i x, l.val = .p i x → (rd r.1.p i).val = x)
       ∧ (∀ i x, l.val = .pal i x → (rd r.1.pal i).val = x)
       ∧ (∀ i x, l.val = .wb i x → (rd r.1.wb i).val = x)
       ∧ (∀ i x, l.val = .tile i x → (rd r.1.a i).val = x)
       ∧ (∀ i z sums, l.val = .macc i z sums → (rd r.1.a i).val = maccTile (rd k.a i).val z sums)
       ∧ (∀ i x en, l.val = .v i x en → ∀ j < 64, lane (rd r.1.v i).val j = if en.getLsbD j then lane x j else lane (rd k.v i).val j)
       ∧ (∀ i x en, l.val = .m i x en → ∀ j < 64, (rd r.1.m i).val.getLsbD j = if en.getLsbD j then x.getLsbD j else (rd k.m i).val.getLsbD j)
       ∧ ∀ r', r' ≠ l.val.reg → r.1.liveOf r' = k.liveOf r' ∧ r.1.landOf r' = k.landOf r'
     (l.check = true → k.liveOf l.val.reg = false ∨ l.kill = true → puts (k.takeLanding cyc [] l))
     ∧ (l.check = true → k.liveOf l.val.reg = true → l.kill = false →
       k.takeLanding cyc [] l = (k, [⟨.lateOverwrite, l.by_.cell, l.by_.eng, l.by_.pc, .reg l.val.reg, cyc, k.landedAt l.val.reg⟩]))
     ∧ (l.check = true → (k.takeLanding cyc [l.val.reg] l).1 = k ∧ (k.takeLanding cyc [l.val.reg] l).2.map (·.kind) = [.lateOverwrite])
     ∧ (l.check = false → ∀ before, puts (k.takeLanding cyc before l)))
  ∧ ((∀ (k : Cell) (cyc : BitVec 32) (g : Signal),
     ((rd k.tally g.tally).toNat + g.inc ≤ 65535 →
       (k.takeSignal cyc g).2 = [] ∧ (rd (k.takeSignal cyc g).1.tally g.tally).toNat = (rd k.tally g.tally).toNat + g.inc
       ∧ ∀ i, i ≠ g.tally → rd (k.takeSignal cyc g).1.tally i = rd k.tally i)
     ∧ (65535 < (rd k.tally g.tally).toNat + g.inc →
       k.takeSignal cyc g = (k, [⟨.queueOverrun, g.by_.cell, g.by_.eng, g.by_.pc, .tally g.tally, cyc, 0⟩])))
   ∧ ∀ (k : Cell) (cyc : BitVec 32) (i : BitVec 6), rd k.tally i ≤ rd (k.phase1 cyc).1.tally i)

/-- R9, R148: the bound of what an engine instruction does, whatever its fields, legal or not. Its command answers a next state in which nothing
of another partition and no cell of another partition has changed, nor any key, memory, firmware, object of the dictionary, port or message
received; the fault collector changes only where the partition freezes for a fault. A cell that no partition owns takes nothing. -/
def Obligations.InstructionsKeepToTheirPartition : Prop :=
  ∀ (s : State) (i : Instr) (c : CellRef) (e : Eng) (o : EngOp), i.engine = some (c, e, o) →
    answers i s fun t =>
      (s.owner c.col = none → t = s)
      ∧ (∀ p, s.owner c.col = some p →
        (∀ q, q ≠ p → t.part q = s.part q) ∧ (t.part p).keys = (s.part p).keys
        ∧ (∀ d : CellRef, s.ownsCol p d.col.val = false → t.cell d = s.cell d)
        ∧ ((t.part p).frozen = none → t.faults = s.faults))
      ∧ t.mem = s.mem ∧ t.fw = s.fw ∧ t.dict = s.dict ∧ t.ports = s.ports ∧ t.msgs = s.msgs

/-- R39: a granule that no write has reached in the step loads as zeros; the first write makes its other bytes zero and marks it WRITTEN;
no other granule changes; a step begins with none WRITTEN. -/
def Obligations.FirstWriteClearsAGranule : Prop :=
  (∀ (k : Cell) (g : BitVec 14), g ∉ k.written → k.loadG g = 0)
  ∧ (∀ (k : Cell) (g : BitVec 14) (d : Granule) (en : BitVec 256),
    let k' := k.storeG g d en
    g ∈ k'.written
    ∧ (∀ i < 256, elemOf (k'.loadG g) 8 i = if en.getLsbD i then elemOf d 8 i else elemOf (k.loadG g) 8 i)
    ∧ ∀ h, h ≠ g → k'.loadG h = k.loadG h ∧ (h ∈ k'.written ↔ h ∈ k.written))
  ∧ ∀ (k : Cell) (entry : Eng → BitVec 32) (g : BitVec 14), (k.boundary entry).written = [] ∧ (k.boundary entry).loadG g = 0

/-- R51: at a step boundary every register and tally is zero, not live and with LAND 0, the queues, pending ranges and loop stacks are
empty, each PC stands at the entry point of its variant; the instruction caches keep their lines. -/
def Obligations.StepBoundaryClearsACell : Prop :=
  ∀ (k : Cell) (entry : Eng → BitVec 32),
    let b := k.boundary entry
    (∀ r : RegName, b.landOf r = 0 ∧ b.liveOf r = false)
    ∧ (∀ i : BitVec 6, (rd b.v i).val = 0) ∧ (∀ i : BitVec 3, (rd b.m i).val = 0) ∧ (∀ i : BitVec 4, (rd b.p i).val = 0)
    ∧ (∀ i : BitVec 5, (rd b.s i).val = 0) ∧ (∀ i : BitVec 2, (rd b.a i).val = 0) ∧ (∀ i : BitVec 2, (rd b.pal i).val = 0)
    ∧ (∀ i : BitVec 1, (rd b.wb i).val = Wb.zero) ∧ (∀ i : BitVec 6, rd b.tally i = 0) ∧ (∀ q, b.queue q = Queue.empty) ∧ (∀ g, b.pendingAt g = none)
    ∧ ∀ e, (b.eng e).pc = entry e ∧ (b.eng e).loops = [] ∧ (b.eng e).wait = none ∧ (b.eng e).ended = false
        ∧ (b.eng e).icache = (k.eng e).icache

/-- R32, R40, R43, R121, R124: a requested line replaces its index in the engine's cache; a granule of a legal read that races with no write enters the
fill buffer, or the crossing behind a full one; neither touches a register value, a tally or the cell store. A transaction of which every granule
has been written, or has left and is acknowledged, reaches its cell as a completion that the next cell cycle applies. -/
def Obligations.ArrivalsAndCompletionsReachTheCell : Prop :=
  ((∀ (s : State) (p : PartIx) (c : CellRef) (e : Eng) (line : BitVec 24) (a n : Nat) (bs : Bytes),
     s.owner c.col = some p → (s.cell c).refills.contains ⟨e, line⟩ = true → s.codeLine p c e line = some (a, n, bs) →
     s.firstDamage p a n = none →
     answers (.lineArrival c e line) s fun t =>
       rd ((t.cell c).eng e).icache (line.extractLsb' 0 7) = some ⟨line.extractLsb' 7 17, granuleOf bs⟩
       ∧ (t.cell c).refills = (s.cell c).refills.filter (fun r => r != ⟨e, line⟩)
       ∧ (s.cell c).sameValues (t.cell c) ∧ (t.cell c).tally = (s.cell c).tally ∧ (t.cell c).store = (s.cell c).store
       ∧ onlyCell c s t)
   ∧ (∀ (s : State) (p : PartIx) (c : CellRef) (i : Fin 64) (j : BitVec 12) (x : Tx),
     s.owner c.col = some p → (s.cell c).txs[i] = some x → x.kind = .drd → j.toNat < x.g → x.arrived.getLsbD j.toNat = false →
     x.legal = true → x.wild = false → x.raced = [] → s.loadingAt p (x.mem.toNat + 256 * j.toNat) = none → (∀ u ∈ (s.cell c).txs.toList, ∀ y, u = some y → y.kind ≠ .dwr) →
     s.firstDamage p (x.mem.toNat + 256 * j.toNat) 256 = none →
     answers (.fillArrival c i j) s fun t =>
       let k := s.cell c
       let l := t.cell c
       let item : FillItem := ⟨i, j, x.first + j.setWidth 14, granuleOf (s.readV p (x.mem.toNat + 256 * j.toNat) 256)⟩
       (if k.fill.length < 64 ∧ k.crossing = [] then l.fill = k.fill ++ [item] ∧ l.crossing = []
         else l.fill = k.fill ∧ l.crossing = k.crossing ++ [item])
       ∧ l.txs[i] = some { x with arrived := x.arrived ||| BitVec.twoPow 4096 j.toNat }
       ∧ k.sameValues l ∧ l.tally = k.tally ∧ l.store = k.store ∧ onlyCell c s t))
  ∧ (∀ (s : State) (c : CellRef) (i : Fin 64) (x : Tx), (s.cell c).txs[i] = some x → x.done = false →
     let post (t : State) : Prop :=
       t.cell c = { s.cell c with txs := (s.cell c).txs.set i (some { x with done := true }), completions := (s.cell c).completions ++ [i] }
       ∧ onlyCell c s t
     (x.kind = .drd → (∀ j < x.g, x.written.getLsbD j = true) → answers (.drdComplete c i) s post)
     ∧ (x.kind = .drcv → (∀ j < x.g, x.written.getLsbD j = true) → answers (.drcvComplete c i) s post)
     ∧ (x.kind = .dwr → x.drained = x.g → answers (.dwrComplete c i) s post)
     ∧ (x.kind = .dsnd → x.drained = x.g → s.acked c x.serial = true → answers (.dsndComplete c i) s post))

/-- R127, R16: a hold with a late item that has lasted HOLD_LIMIT freezes the partition; the cycles that it lacked count for each of its causes.
R19, R318, R363: a governor sample of a module with power records it and holds each partition that is over its share of GOV_LIMIT; below the
limit, with no partition over its share or held and no thermal warning, it holds none. R50: a cell with nothing left to do, of whose pushes
none is on its way, arrives at the step boundary. Where the specification leaves a point open, this follows the model's choice of log 45. -/
def Obligations.HoldsAndArrivals : Prop :=
  (∀ (s : State) (p : PartIx) (h : HoldRec), (s.part p).runs = true → (s.part p).hold = some h → h.causes ≠ [] →
    let x := s.part p
    let n : BitVec 64 := BitVec.ofNat 64 (s.limitCycles p - h.len)
    ∃ t, Sys2Proof.Machine.exec (.holdLimit p) s = .next t
      ∧ (t.part p).frozen = some ⟨.holdLimit, x.cyc⟩
      ∧ (t.part p).holdStep = x.holdStep + n ∧ (t.part p).holdTotal = x.holdTotal + n ∧ (t.part p).holdItem = x.holdItem + n
      ∧ (t.part p).holdGov = (if x.govHold then x.holdGov + n else x.holdGov) ∧ (t.part p).cyc = x.cyc
      ∧ t.cells = s.cells ∧ t.mem = s.mem ∧ t.dict = s.dict)
  ∧ (∀ (s : State) (watts : BitVec 32) (att : List (BitVec 32)), s.pins.pwrGood = true → s.power.highRun < 100 →
    let above (p : PartIx) : Bool := overShare s.partNo.cols (s.colsOf p).length (s.num 0x9000 1) ((att[p.val]?).getD 0).toNat
    ∃ t, Sys2Proof.Machine.exec (.governorSample watts att) s = .next t
      ∧ t.power.now = watts
      ∧ t.power.peak = (if s.power.peak < watts then watts else s.power.peak)
      ∧ (∀ p, above p = true → s.colsOf p ≠ [] → (t.part p).govHold = true)
      ∧ (watts.toNat ≤ s.num 0x9000 1 → s.power.warn = 0 → (∀ p, (s.part p).govHold = false) → (∀ p, above p = false) →
          ∀ p, (t.part p).govHold = false)
      ∧ (∀ p, t.part p = { s.part p with attributed := (t.part p).attributed, govHold := (t.part p).govHold, govMarks := (t.part p).govMarks })
      ∧ (∀ p, (t.part p).govMarks = (s.part p).govMarks
          ++ (if (t.part p).govHold = (s.part p).govHold then [] else [(s.heelNow, (t.part p).govHold)]))
      ∧ t = { s with parts := t.parts, power := t.power })
  ∧ (∀ (s : State) (p : PartIx) (c : CellRef), s.owner c.col = some p → (s.part p).runs = true → (s.cell c).drained = true →
    s.pushesLanded p c = true →
    ∃ t, Sys2Proof.Machine.exec (.cellArrival c) s = .next t ∧ t.cell c = { s.cell c with arrived := true } ∧ onlyCell c s t)

/-! Barriers, boundaries and releases (10) -/

/-- R251, R252: a partition's own arrival, once due, waits for its children; a leaf's goes up to its parent at once, with the device itself as
FIRST unless its status is OK and COUNT 1; a child's arrival is recorded with the Heel time at which it came; one that comes after this
device has sent its own, or for a step gone by, is discarded. The port by which an arrival goes up (log 23), and that one for the barrier
after the one that is being gathered waits for it (log 104), are the model's choices. Where the specification leaves a point open, this
follows the model's choice of logs 23, 104. -/
def Obligations.ArrivalsAreGathered : Prop :=
  (∀ (s : State) (p : PartIx) (st : BitVec 3), (s.part p).bar.own = none → s.ownStatus p = some st →
    let x := s.part p
    (s.missing p ≠ [] → answers (.barrierArrive p) s fun t =>
      let y := t.part p
      y.bar = { x.bar with own := some st, ownAt := s.ns, lastArrival := s.heelNow }
      ∧ (x.between = false → x.starting = false → y.holdLast = x.holdStep)
      ∧ y = { x with barrier := y.barrier, early := y.early, holdLast := y.holdLast, stampBad := false } ∧ onlyPart p s t)
    ∧ (∀ (d : DistEntry) (n : PortIx), s.childrenOf p = [] → x.bar.children = [] → x.bar.sent = false → s.distSelf p = some d →
      d.parent ≠ d.dev → s.portTo p d.parent = some n → (s.port n).state = 3 → (∀ g ∈ x.ingests, g.backupParent = false) →
      x.upBackup = false →
      answers (.barrierArrive p) s fun t =>
        let y := t.part p
        let first : BitVec 15 := if st = 0 then 0x7FFF else (s.self p).setWidth 15
        y.bar = { x.bar with own := some st, ownAt := s.ns, lastArrival := s.heelNow, sent := true }
        ∧ y = { x with barrier := y.barrier, early := y.early, holdLast := y.holdLast, stampBad := false }
        ∧ t.port n = { s.port n with qByp := (s.port n).qByp ++ [shortOut n ⟨5, true, 7, true, 0, 0,
            barrierBody false ⟨s.jobTag p, s.barStep p, false, st, s.self p, d.parent, first, 1, 0⟩⟩] }
        ∧ t = { s with parts := s.parts.set p (t.part p), ports := s.ports.set n (t.port n) }))
  ∧ (∀ (s : State) (n : PortIx) (sqn : BitVec 20) (p : PartIx) (b : BarrierItem), s.inOrder n sqn true 7 = true → s.ofJob b.job = some p →
      b.dst = s.self p → (s.part p).gathers = true →
      let x := s.part p
      let arrival : ChildArrival := ⟨b.src, b.step, b.status, b.first, b.count⟩
      (b.step = s.barStep p → b.src ∈ s.childrenOf p → x.bar.sent = false → x.bar.own = none → (∀ c ∈ x.bar.children, c.dev ≠ b.src) →
        answers (.barrierArriveItem n ⟨sqn, b⟩) s fun t =>
          let y := t.part p
          y.bar = { x.bar with children := x.bar.children ++ [arrival], lastArrival := s.heelNow }
          ∧ y = { x with barrier := y.barrier, early := y.early }
          ∧ t.port n = s.tookItem n true 7
          ∧ t = { s with parts := s.parts.set p (t.part p), ports := s.ports.set n (t.port n) })
      ∧ (2 ^ 63 ≤ (b.step - s.barStep p).toNat ∨ b.step = s.barStep p ∧ x.bar.sent = true →
          answers (.barrierArriveItem n ⟨sqn, b⟩) s fun t => t = s.setPort n (s.tookItem n true 7))
      ∧ (b.step = s.barStep p + 1 → answers (.barrierArriveItem n ⟨sqn, b⟩) s fun t =>
          t.part p = { x with waiting := x.waiting.filter (fun d => d.dev != b.src) ++ [arrival] }
          ∧ t.port n = s.tookItem n true 7
          ∧ t = { s with parts := s.parts.set p (t.part p), ports := s.ports.set n (t.port n) }))

/-- R22, R252, R253: the root decides once it holds its own arrival and every child's, whichever came last: COMMIT when every status is OK, at
the later of the scheduled boundary and the last arrival plus BAR_MARGIN; else STOP with the worst status, which commits nothing. The
RELEASE goes to every child. When BAR_WAIT runs out on a missing child, which it reports, it stops the job with a status no better than
MISSING. That a start barrier's COMMIT sets STEP_COMMITTED to the step before START_STEP is the model's reading (log 47). Where the
specification leaves a point open, this follows the model's choice of log 47. -/
def Obligations.RootDecides : Prop :=
  (∀ (s : State) (p : PartIx) (st : BitVec 3), (s.part p).bar.own = none → s.ownStatus p = some st → s.isBarRoot p = true → s.missing p = [] →
    (s.part p).bar.sent = false → (s.part p).between = false → (s.part p).oldPlan = none →
    let b := s.verdictOf p st (s.part p).bar.children
    answers (.barrierArrive p) s fun t =>
      released s t p b
      ∧ (∀ m, t.port m = { s.port m with qByp := (s.port m).qByp ++ s.sentDown p b m })
      ∧ t = { s with parts := s.parts.set p (t.part p), ports := t.ports })
  ∧ (∀ (s : State) (n : PortIx) (sqn : BitVec 20) (p : PartIx) (a : BarrierItem) (st : BitVec 3), s.inOrder n sqn true 7 = true →
    s.ofJob a.job = some p → a.dst = s.self p → (s.part p).gathers = true → a.step = s.barStep p → s.missing p = [a.src] →
    (s.part p).bar.own = some st → s.isBarRoot p = true → (s.part p).bar.sent = false → (s.part p).between = false →
    (s.part p).oldPlan = none →
    let b := s.verdictOf p st ((s.part p).bar.children ++ [⟨a.src, a.step, a.status, a.first, a.count⟩])
    answers (.barrierArriveItem n ⟨sqn, a⟩) s fun t =>
      released s t p b
      ∧ (∀ m, t.port m = { (if m = n then s.tookItem n true 7 else s.port m) with qByp := (s.port m).qByp ++ s.sentDown p b m })
      ∧ t = { s with parts := s.parts.set p (t.part p), ports := t.ports })
  ∧ (∀ (s : State) (p : PartIx) (st : BitVec 3), (s.part p).bar.own = some st → (s.part p).bar.sent = false → s.missing p ≠ [] →
    s.isBarRoot p = true → (s.part p).reported = [] →
    answers (.barWaitExpiry p) s fun t =>
      let y := t.part p
      (∃ st' first, 3 ≤ st' ∧ y.bar.release = some ⟨s.barStep p, true, st', 0⟩
        ∧ y.stopInfo = BitVec.ofNat 64 (packFields [(8, (st' : BitVec 3).toNat), (15, (first : BitVec 15).toNat)]))
      ∧ y.jobState = 3 ∧ y.running = false ∧ y.starting = false ∧ y.stepCommitted = (s.part p).stepCommitted
      ∧ (s.jobTag p ≠ 0 → ∀ d ∈ s.missing p, d ≠ s.self p →
          ∃ r ∈ t.openReports, r.part = p ∧ r.suspect = d ∧ r.step = (s.part p).stepNow)
      ∧ s.up ≤ t.up ∧ t.cells = s.cells ∧ t.mem = s.mem ∧ ∀ q, q ≠ p → t.part q = s.part q)

/-- R253, R254: a RELEASE received goes on at once to the children and takes effect: a COMMIT commits the step at a member, counting one that
comes after its RTIME; a STOP ends the running job with its status and FIRST and commits nothing. That a start barrier's COMMIT sets
STEP_COMMITTED to the step before START_STEP is the model's reading (log 47). Where the specification leaves a point open, this follows the
model's choice of log 47. -/
def Obligations.ReleasesCommitOrStop : Prop :=
  ∀ (s : State) (n : PortIx) (sqn : BitVec 20) (p : PartIx) (b : BarrierItem), s.inOrder n sqn true 7 = true → s.ofJob b.job = some p →
    b.dst = s.self p → b.step = s.barStep p → (s.part p).bar.release = none → s.isBarRoot p = false → s.heel.state ≠ 0 → (s.part p).busy = true →
    let x := s.part p
    let ports (t : State) : Prop := ∀ m,
      t.port m = { (if m = n then s.tookItem n true 7 else s.port m) with qByp := (s.port m).qByp ++ s.sentDown p b m }
    (b.stop = true → x.between = false → answers (.barrierReleaseItem n ⟨sqn, b⟩) s fun t =>
      released s t p b ∧ ports t ∧ t = { s with parts := s.parts.set p (t.part p), ports := t.ports })
    ∧ (b.stop = true → x.between = true → answers (.barrierReleaseItem n ⟨sqn, b⟩) s fun t =>
      let y := t.part p
      y.jobState = 3 ∧ y.running = false ∧ y.starting = false ∧ y.stepCommitted = x.stepCommitted
      ∧ y.stopInfo = BitVec.ofNat 64 (packFields [(8, b.status.toNat), (15, b.first.toNat)])
      ∧ y.early.release = some ⟨b.step, true, b.status, b.rtime⟩ ∧ y.barrier = x.barrier ∧ ports t
      ∧ t = { s with parts := s.parts.set p (t.part p), ports := t.ports })
    ∧ (b.stop = false → x.between = false → answers (.barrierReleaseItem n ⟨sqn, b⟩) s fun t =>
      released s t p b ∧ (t.part p).barLate = (if later s.heelNow b.rtime then x.barLate + 1 else x.barLate) ∧ ports t
      ∧ t = { s with parts := s.parts.set p (t.part p), ports := t.ports, dict := t.dict })

/-- R132, R158 to R167, R173, R253, R258, R260, Table 7-10: boundary processing runs once between the completion of a barrier and its release.
After a STOP it returns every RUNNING entry to QUEUED, no entry has a slot, and nothing else applies. After a COMMIT, and after the commits
that were pending for it, the home latches the step record, the variant and the hook values of the next step; a member takes them from its
home's slot map, and nothing happens before that is whole; a step with a record gets its Kennel back, but for what the host has seen. A
report without bit 63 only counts; of one with it, the accepted main tokens are those of the longest prefix that agrees with the draft, and
one more, up to the first with a STOP bit and up to MAXLEN; they go into the token ring, with TOKCOUNT. STOP, MAXLEN and CLOSEREQ end the
stream with REASON 1, 2, 3. Each accepted token adds DLINC to the deadline. With a draft the rate and totals follow; a rate below the floor
ends drafting. A MISS counts and, while the completion ring is free, leaves a record of cause 1 where a stop, a held cycle or a late barrier
delayed the stream, 2 where it had no slot, else 3. A placement needs the pages for LEN + K + 1 tokens; the ones that lack come from the
head of the free list, but for those held back, into the page list; without enough POOL_SHORT grows. The pages of every entry that leaves,
and those of copies that have landed, go to the heads of their lists, held back for the images. The variant serves the model slot of the
first candidate that any variant serves, is the widest not wider than that candidate, and of those has the fewest slots that hold all
candidates of the model slot, else the most. A candidate takes the lowest free slot that fits it, with its pages; it is then RUNNING with
AGE 0, and the step record holds its LEN, SEED and effective width. Where the specification leaves a point open, this follows the model's
choice of logs 15, 34, 66, 69, 98, 99. -/
def Obligations.BoundaryProcessingRuns : Prop :=
  ((∀ (s : State) (p : PartIx) (r : Release), (s.part p).barrier.release = some r → r.stop = true → (s.part p).barrier.processed = false →
     answers (.boundaryProcessing p) s fun t =>
       let y := t.part p
       (∀ e < (s.ken p).entries.length, (t.ken p).entry e
         = if eState (s.entry p e) = stFree then s.entry p e
           else withSlot (if eState (s.entry p e) = stRunning then withState (s.entry p e) stQueued else s.entry p e) 0xFFF)
       ∧ y = { s.part p with barrier := { (s.part p).barrier with processed := true }
                             kennel := { (s.part p).kennel with entries := y.kennel.entries } }
       ∧ onlyPart p s t)
   ∧ (∀ (s : State) (p : PartIx) (r : Release), (s.part p).barrier.release = some r → (s.part p).barrier.processed = true →
     answers (.boundaryProcessing p) s fun t => t = s)
   ∧ ∀ (s : State) (p : PartIx) (r : Release), (s.part p).barrier.release = some r → r.stop = false → (s.part p).barrier.processed = false →
     let x := s.part p
     let u := (s.modPart p Partition.eraseOld).commitsAtBoundary p (r.step + 1)
     let latched (t : State) (v : Nat) (slots : List SlotRec) : Prop :=
       let y := t.part p
       y.barrier.processed = true ∧ y.stopDelay = 0 ∧ y.mirrorWait = false ∧ y.variant = BitVec.ofNat 16 v
       ∧ y.kennel.stepRec = some ⟨r.step + 1, BitVec.ofNat 8 v, slots⟩ ∧ y.hooks = hooksOf y.kennel slots ∧ y.kennel.barkDone = 0
     let recorded := if x.jobState = 4 then x.images.find? (fun i => i.step == r.step + 1) else none
     (∀ pl, recorded = none → s.isHome p = true → s.awaitsMirror p r.step = false → u.nextPlan p r.step = some pl →
       answers (.boundaryProcessing p) s fun t => ∃ v slots, latched t v slots ∧ slots.length = pl.nslot)
     ∧ (∀ pl m, recorded = none → s.isHome p = false → s.awaitsMirror p r.step = false → x.kennel.mapWhole = true → x.kennel.slotMap = some m →
       m.step = r.step + 1 → u.nextPlan p r.step = some pl →
       answers (.boundaryProcessing p) s fun t =>
         latched t m.variant.toNat m.slots ∧ (t.ken p).slotMap = none ∧ (t.ken p).mapWhole = false ∧ (t.ken p).homeWords = [])
     ∧ (recorded = none → s.isHome p = false → x.kennel.mapWhole = false →
       answers (.boundaryProcessing p) s fun t => t = s.modPart p fun y => { y with mirrorWait := s.awaitsMirror p r.step })
     ∧ (∀ i, recorded = some i →
       answers (.boundaryProcessing p) s fun t =>
         let y := t.part p
         y.barrier.processed = true ∧ y.variant = i.variant ∧ y.hooks = i.hooks ∧ y.kennel.entries = i.kennel.entries
         ∧ y.kennel.extra = i.kennel.extra ∧ y.kennel.seeds = i.kennel.seeds ∧ y.kennel.kvFree = i.kennel.kvFree
         ∧ y.kennel.susFree = i.kennel.susFree ∧ y.kennel.kvHeld = i.kennel.kvHeld ∧ y.kennel.stepRec = i.kennel.stepRec
         ∧ y.kennel.bark = i.kennel.bark))
  ∧ (∀ (s : State) (p : PartIx) (e slot : Nat), e < (s.ken p).entries.length → (s.ken p).extra.length = (s.ken p).entries.length →
     s.damaged = [] → eLive (s.entry p e) = true → eLen (s.entry p e) ≤ eMaxLen (s.entry p e) →
     let w := s.reportWord p slot
     let x := s.entry p e
     let k := match (s.ken p).stepRec with
       | some r => match r.slots[slot]? with
         | some q => kOf q.keff.toNat
         | none => 0
       | none => 0
     let t := s.applyReport p e slot
     let y := t.1.entry p e
     ((w 5).getLsbD 63 = false → t.2 = 0 ∧ y = x ∧ (t.1.ken p).noReport = (s.ken p).noReport + 1 ∧ t.1.mem = s.mem)
     ∧ ((w 5).getLsbD 63 = true → ∃ a m, a ≤ k
       ∧ (∀ i < a, draftToken w (i + 1) = mainToken w i) ∧ (a < k → draftToken w (a + 1) ≠ mainToken w a)
       ∧ 1 ≤ m ∧ m ≤ a + 1 ∧ (∀ i < m - 1, (w 5).getLsbD i = false) ∧ (m = a + 1 ∨ (w 5).getLsbD (m - 1) = true)
       ∧ t.2 = min m (eMaxLen x - eLen x) ∧ eLen y = eLen x + t.2
       ∧ t.1.mem = (s.putTokens p e (eLen x) ((List.range t.2).map (mainToken w))).mem
       ∧ eState y = (if (w 5).getLsbD (m - 1) ∨ eLen y = eMaxLen x ∨ eCloseReq x then stEnded else eState x)
       ∧ ((w 5).getLsbD (m - 1) = true → eReason y = 1)
       ∧ ((w 5).getLsbD (m - 1) = false → eLen y = eMaxLen x → eReason y = 2)
       ∧ ((w 5).getLsbD (m - 1) = false → eLen y ≠ eMaxLen x → eCloseReq x = true → eReason y = 3)
       ∧ eDeadline y = eDeadline x + BitVec.ofNat 64 (65536 * (t.2 * eDlInc x)) ∧ eMissed y = false
       ∧ (k = 0 → eRate y = eRate x ∧ eKw y = eKw x ∧ eDraftTot y = eDraftTot x ∧ eAccTot y = eAccTot x)
       ∧ (k ≠ 0 →
           let rate := eRate x - eRate x / 32 + a * 2048 / k
           eRate y = rate % 131072 ∧ eKw y = (if rate < s.num 0x5000 2 then 0 else eKw x)
           ∧ eDraftTot y = min (eDraftTot x + k) 16777215 ∧ eAccTot y = min (eAccTot x + a) 16777215))
     ∧ eMaxLen y = eMaxLen x ∧ eSid y = eSid x ∧ eSeed y = eSeed x ∧ ePageList y = ePageList x ∧ eNPages y = eNPages x
     ∧ (∀ i, i ≠ e → t.1.entry p i = s.entry p i) ∧ ∀ q, q ≠ p → t.1.part q = s.part q)
  ∧ ((∀ (s : State) (p : PartIx) (b : AtBoundary) (e : Nat) (ran : Bool) (due : BitVec 64), s.cqFree p = true →
     let w := s.entry p e
     let cause := if b.stopped then 1 else if ran then (if b.hold ≠ 0 ∨ b.delay ≠ 0 then 1 else 3) else 2
     let t := s.miss p b e ran due
     (t.ken p).missCount = (s.ken p).missCount + 1 ∧ (∀ i, t.entry p i = s.entry p i)
     ∧ t.out = s.out ++ s.recordOut p (kenRecord 3 cause 0 e (eSid w) b.n.toNat (eLen w) ((b.t - due).toNat / 65536) b.hold b.delay 0))
   ∧ ∀ (s : State) (p : PartIx) (b : AtBoundary) (e : Nat) (back : List (Nat × List (BitVec 64))), e < (s.ken p).entries.length →
     (s.ken p).extra.length = (s.ken p).entries.length → s.damaged = [] → eState (s.entry p e) = stRunning →
     let w := raiseDeadline (s.entry p e) b.t
     let u := s.setEntry p e (withSlot (withState w stQueued) 0xFFF)
     0 < (u.applyReport p e (eSlot w)).2 →
     ((State.entryItem p b (s, back) e).1.ken p).missCount = (s.ken p).missCount + (if later b.t (eDeadline w) then 1 else 0))
  ∧ ((∀ (s : State) (p : PartIx) (e keff : Nat), e < (s.ken p).entries.length → s.damaged = [] → eLive (s.entry p e) = true →
     let x := s.entry p e
     let need := ((eLen x + kOf keff + 1) * s.pnum p 0x46 + 65535) / 65536
     need < 65536 →
     let t := s.drawFor p e keff
     (∀ ps rest, drawPages (s.ken p).kvHeld (need - eNPages x) (s.ken p).kvFree = some (ps, rest) →
       t.2 = true ∧ (t.1.ken p).kvFree = rest ∧ t.1.entry p e = withNPages x (eNPages x + ps.length)
       ∧ t.1.mem = (ps.zipIdx.foldl (fun (u : State) g => u.writeV p (ePageList x + 8 * (eNPages x + g.2)) (leBytes 8 g.1.toNat)) s).mem)
     ∧ (drawPages (s.ken p).kvHeld (need - eNPages x) (s.ken p).kvFree = none →
       t.2 = false ∧ (t.1.ken p).poolShort = (s.ken p).poolShort + 1)
     ∧ (∀ i, i ≠ e → t.1.entry p i = s.entry p i))
   ∧ ∀ (s : State) (p : PartIx) (n : BitVec 64) (back : List (Nat × List (BitVec 64))),
     (s.ken p).extra.length = (s.ken p).entries.length →
     let k := s.ken p
     let t := s.returnPages p n back
     let l := t.ken p
     (∃ kv sus, l.kvFree = kv ++ k.kvFree ∧ l.susFree = sus ++ k.susFree
       ∧ ∀ e < k.entries.length, k.leaves e = true → ∀ a ∈ s.heldPages p e, a ∈ kv ++ sus ∧ (a, n) ∈ l.kvHeld)
     ∧ (∀ h ∈ l.kvHeld, h ∈ k.kvHeld ∧ ¬ h.2 + 2 ≤ n ∨ h.2 = n)
     ∧ (∀ e < k.entries.length, k.leaves e = true → eNPages (l.entry e) = 0 ∧ (l.xtra e).listed = false)
     ∧ (∀ e, k.leaves e = false → l.entry e = k.entry e)
     ∧ t = s.modKen p fun _ => l)
  ∧ ((∀ (pl : PlanRec) (k : Kennel) (cand : List Nat) (lead : Nat),
     let serves (u : Nat × VarDesc) (e : Nat) : Bool := u.2.mslot.toNat == eMslot (k.entry e)
     let vs : List (Nat × VarDesc) := pl.vars.zipIdx.map fun v => (v.2, v.1)
     (cand.find? fun e => vs.any fun u => serves u e) = some lead →
     (∃ u ∈ vs, serves u lead = true ∧ u.2.kw.toNat ≤ eKw (k.entry lead)) →
     let v := chooseVariant pl k cand
     let nc := (cand.filter fun e => eMslot (k.entry e) == eMslot (k.entry lead)).length
     v ∈ vs ∧ serves v lead = true ∧ v.2.kw.toNat ≤ eKw (k.entry lead)
     ∧ ∀ u ∈ vs, serves u lead = true → u.2.kw.toNat ≤ eKw (k.entry lead) → u.2.kw.toNat ≤ v.2.kw.toNat
       ∧ (u.2.kw = v.2.kw → (nc ≤ u.2.slots.toNat → nc ≤ v.2.slots.toNat ∧ v.2.slots.toNat ≤ u.2.slots.toNat)
           ∧ (v.2.slots.toNat < nc → u.2.slots.toNat ≤ v.2.slots.toNat)))
   ∧ ∀ (s : State) (p : PartIx) (pl : PlanRec) (v : Nat × VarDesc) (slots : List SlotRec) (e : Nat), e < (s.ken p).entries.length →
     s.damaged = [] → eLive (s.entry p e) = true →
     let x := s.entry p e
     let keff := min (eKw x) v.2.kw.toNat
     let need := ((eLen x + kOf keff + 1) * s.pnum p 0x46 + 65535) / 65536
     need < 65536 →
     let fits (i : Nat) : Prop := i < v.2.slots.toNat ∧ ∃ q d, slots[i]? = some q ∧ pl.slots[i]? = some d ∧ q.used = false ∧ d.barkIo = eBark x
       ∧ eLen x + kOf keff + 1 ≤ d.maxCtx.toNat
     let t := State.place p pl v (s, slots) e
     (eMslot x ≠ v.2.mslot.toNat ∨ (∀ i, ¬ fits i) → t = (s, slots))
     ∧ (∀ i, eMslot x = v.2.mslot.toNat → fits i → (∀ j < i, ¬ fits j) →
       (drawPages (s.ken p).kvHeld (need - eNPages x) (s.ken p).kvFree = none → t.2 = slots)
       ∧ (drawPages (s.ken p).kvHeld (need - eNPages x) (s.ken p).kvFree ≠ none →
         let y := t.1.entry p e
         t.2 = slots.set i ⟨true, BitVec.ofNat 12 e, BitVec.ofNat 32 (eLen x), BitVec.ofNat 12 (eSeed x), BitVec.ofNat 2 keff⟩
         ∧ eState y = stRunning ∧ eSlot y = i % 4096 ∧ eAge y = 0 ∧ need ≤ eNPages y ∧ eLen y = eLen x ∧ ePageList y = ePageList x)))

/-- R51, R248, R254, R257, R265, R270: a job starts once its partition is ACTIVE, its plan loaded, JOB_TAG not 0, and START_STEP and START_TIME
written; a self-test that runs then ends without a verdict. A committed step is released into the next one: CYC is 0, no cell is frozen
unless the partition is fenced or a unit of it has stopped, holds of the step begin with those of the delay alone, every cell stands at its
step boundary, and the partition keeps the boundary image of the step it now runs. Stated while no commit is pending, no plan switches and
nothing is mirrored. Where the specification leaves a point open, this follows the model's choice of logs 14, 47, 100. -/
def Obligations.JobsStartAndRunTheNextStep : Prop :=
  (∀ (s : State) (p : PartIx), (s.part p).jobState = 0 → (s.part p).partState = 1 → (s.part p).loadStatus.extractLsb' 0 8 = 0 →
     s.jobTag p ≠ 0 → (s.part p).startWritten = 3 →
     (s.part p).waiting = [] → (∀ m ∈ s.msgs, m.part = p → m.vc ≠ 0) →
     (s.selfVerdict ≠ 1 → answers (.jobStart p) s fun t =>
       t.part p = { s.part p with
         jobState := 1, starting := true, barrier := Barrier.none, early := Barrier.none, vc0In := [], rxKth := [] }
       ∧ onlyPart p s t)
     ∧ (s.selfVerdict = 1 → answers (.jobStart p) s fun t =>
       (t.part p).jobState = 1 ∧ (t.part p).starting = true ∧ t.selfVerdict ≠ 1 ∧ (∀ c, t.cell c = Cell.cold)
       ∧ t = { s with parts := t.parts, cells := t.cells, selfVerdict := t.selfVerdict }))
  ∧ (∀ (s : State) (p : PartIx) (r : Release) (pl : PlanRec), (s.part p).barrier.release = some r → r.stop = false →
     (s.part p).barrier.processed = true → (s.part p).jobState = 2 → (s.part p).starting = false → (s.part p).runPlan = some pl →
     (s.part p).loadedPlan = none → s.sessions = [] → s.orphans = [] → s.heel.state ≠ 0 → s.heel.slew = 0 → s.heel.holdRate = 0 →
     (s.part p).waiting = [] → (s.part p).mirrorState ≠ 1 → (s.part p).mirrorState ≠ 2 →
     ((s.part p).mirrorState = 0 → s.pnum p 0x57 = 0) →
     (r.rtime - s.heel.now).toNat < 2 ^ 63 →
     let x := s.part p
     answers (.stepRelease p) s fun t =>
       let y := t.part p
       y.stepNow = r.step + 1 ∧ y.cyc = 0 ∧ y.front = false ∧ y.hold = none ∧ y.running = true ∧ y.starting = false ∧ y.jobState = 2
       ∧ y.holdStep = 0 ∧ y.holdItem = 0 ∧ y.holdGov = 0 ∧ y.holdTotal = x.holdTotal
       ∧ y.releaseHt = r.rtime ∧ y.startHt = r.rtime ∧ t.heel.now = r.rtime
       ∧ y.barrier = x.early ∧ y.early = Barrier.none ∧ y.kennel = x.kennel
       ∧ y.frozen = (if x.fenced then some ⟨.fence, 0⟩ else if s.unitStopped p ∨ x.frozen.any (fun f => f.why == .unit) then some ⟨.unit, 0⟩ else none)
       ∧ y.images.getLast? = some ⟨r.step + 1, x.kennel, x.variant, x.hooks, r.rtime, pl.digest, []⟩
       ∧ (∀ c ∈ s.cellsOf p, t.cell c = (s.cell c).boundary (pl.entryOf c x.variant.toNat))
       ∧ (∀ c, c ∉ s.cellsOf p → t.cell c = s.cell c)
       ∧ (∀ q, q ≠ p → t.part q = s.part q) ∧ t.mem = s.mem ∧ t.dict = s.dict ∧ t.faults = s.faults)

/-! The Kennel (07) -/

/-- R151, R153, R154, R168, R171, R172, R174: a command that the Kennel reads from the submission ring while the job neither is STOPPED nor runs
steps again, and that no rule of R154 refuses: SQ_HEAD advances; ADMIT fills its entry, and sets OUT_WR and FEAT_WR of a Bark stream's block
to 0 (log 17); CANCEL makes the entry CANCELLED, muzzled if it was RUNNING; CLOSE, SUSPEND and RESUME set their requests; MODIFY and SEED
wait for the boundary, but a SEED without a job sets its key at once (log 68); all but SUSPEND and RESUME are answered at once. Where the
specification leaves a point open, this follows the model's choice of logs 12, 58, 66, 67, 68, 69. -/
def Obligations.RingCommandsTakeEffect : Prop :=
  ∀ (s : State) (p : PartIx) (c : SqEntry), s.ringReady p = true → s.refusal p c = none → (s.part p).jobState ≠ 3 →
    (s.part p).jobState ≠ 4 → scEntry c < (s.ken p).entries.length → (s.ken p).extra.length = (s.ken p).entries.length →
    let k := s.ken p
    let e := scEntry c
    let w := k.entry e
    let next : BitVec 12 := BitVec.ofNat 12 ((k.sqHead.toNat + 1) % s.pnum p 0x43)
    let reply (code len : Nat) : List Out := s.recordOut p (kenRecord 1 code (scTag c) e (scSid c) (s.part p).stepNow.toNat len 0 0 0 0)
    (scCmd c = 1 → answers (.admitStream p c) s fun t =>
      let v := (t.ken p).entry e
      eState v = stAdmitted ∧ eSid v = scSid c ∧ eLen v = 0 ∧ eMaxLen v = scArg c 96 32 ∧ ePrio v = scArg c 128 3 ∧ eMslot v = scArg c 131 1
      ∧ eKw v = scArg c 132 2 ∧ eKwMax v = scArg c 132 2 ∧ eDeadline v = BitVec.ofNat 64 (scArg c 0 64) ∧ eSeed v = scArg c 144 12
      ∧ eBark v = (scArg c 134 1 == 1) ∧ eMuz v = false ∧ eSusReq v = false ∧ eCloseReq v = false ∧ eSlot v = 0xFFF ∧ eNPages v = 0
      ∧ ((t.ken p).xtra e).start = BitVec.ofNat 64 (scArg c 192 64)
      ∧ (t.ken p).sqHead = next
      ∧ (scArg c 134 1 = 0 → t.out = s.out ++ reply rpOk 0 ∧ ringFrame p e s t)
      ∧ (s.damaged = [] → t.out = s.out ++ reply rpOk 0 ∧ (∀ i, i ≠ e → (t.ken p).entry i = k.entry i)
          ∧ t.part p = { s.part p with kennel := (t.part p).kennel, log := (t.part p).log }
          ∧ t.mem = (if scArg c 134 1 = 1 then (s.barkFresh p e).mem else s.mem)
          ∧ t = { s with parts := s.parts.set p (t.part p), out := t.out, mem := t.mem }))
    ∧ (scCmd c = 2 → answers (.cancelStream p c) s fun t =>
      (t.ken p).entry e = (if eState w = stRunning then withMuz (withState w stCancelled) true else withState w stCancelled)
      ∧ (t.ken p).xtra e = { k.xtra e with resume := false, tags := [] }
      ∧ (∀ d ∈ (t.ken p).pendingCmds, scEntry d.cmd = e → d.live = false)
      ∧ (t.ken p).sqHead = next ∧ t.out = s.out ++ reply rpCancelled (eLen ((t.ken p).entry e)) ∧ ringFrame p e s t)
    ∧ (scCmd c = 3 → answers (.closeStream p c) s fun t =>
      (t.ken p).entry e = withCloseReq w true ∧ (t.ken p).sqHead = next
      ∧ t.out = s.out ++ reply rpOk (eLen ((t.ken p).entry e)) ∧ ringFrame p e s t)
    ∧ (scCmd c = 4 → answers (.suspendStream p c) s fun t =>
      (t.ken p).entry e = withSusReq w true ∧ (t.ken p).xtra e = { k.xtra e with tags := (k.xtra e).tags ++ [BitVec.ofNat 16 (scTag c)] }
      ∧ (t.ken p).sqHead = next ∧ t.out = s.out ∧ ringFrame p e s t)
    ∧ (scCmd c = 5 → answers (.resumeStream p c) s fun t =>
      (t.ken p).entry e = w ∧ (t.ken p).xtra e = { k.xtra e with resume := true, tags := (k.xtra e).tags ++ [BitVec.ofNat 16 (scTag c)] }
      ∧ (t.ken p).sqHead = next ∧ t.out = s.out ∧ ringFrame p e s t)
    ∧ (scCmd c = 6 → answers (.modifyStream p c) s fun t =>
      (t.ken p).entry e = w ∧ (t.ken p).pendingCmds = k.pendingCmds ++ [⟨c, true, false⟩]
      ∧ (t.ken p).sqHead = next ∧ t.out = s.out ++ reply rpOk (eLen w) ∧ ringFrame p e s t)
    ∧ (scCmd c = 7 → answers (.seedKey p c) s fun t =>
      (t.ken p).entry e = w
      ∧ ((s.part p).jobState ≠ 0 → (t.ken p).seeds = k.seeds ∧ (t.ken p).pendingCmds = k.pendingCmds ++ [⟨c, true, false⟩])
      ∧ ((s.part p).jobState = 0 → (t.ken p).seeds = k.seeds.set e (BitVec.ofNat 128 (scArg c 0 128)) ∧ (t.ken p).pendingCmds = k.pendingCmds)
      ∧ (t.ken p).sqHead = next ∧ t.out = s.out ++ reply rpOk 0 ∧ ringFrame p e s t)

/-- R153, R154, R156, R157, R168, R280: a refused ring command, by whichever of the seven rows it comes, only advances SQ_HEAD and is answered
with its code; with an empty ring, a full completion ring, or under the device Muzzle nothing is read. A fast cancel that finds a live entry
of its STREAM_ID cancels it, muzzled if it was RUNNING, and is answered with the full STREAM_ID; SQ_TAIL and CQ_HEAD take values within
their rings, CQ_HEAD none past the last record; any other write only counts. A write that the function does not take is an Unsupported
Request, over a link that serves, and does nothing. Where the specification leaves a point open, this follows the model's choice of logs 12,
41, 58, 67, 68. -/
def Obligations.RingsAndDoorbellsAnswer : Prop :=
  (∀ (s : State) (p : PartIx) (c : SqEntry) (i : Instr), i ∈ [Instr.admitStream p c, .cancelStream p c, .closeStream p c, .suspendStream p c,
       .resumeStream p c, .modifyStream p c, .seedKey p c] →
     (∀ code, s.ringReady p = true → s.refusal p c = some code → answers i s fun t =>
       let k := s.ken p
       let l := t.ken p
       l = { k with sqHead := BitVec.ofNat 12 ((k.sqHead.toNat + 1) % s.pnum p 0x43), cqWrite := l.cqWrite, phase := l.phase }
       ∧ l.cqWrite = BitVec.ofNat 12 (if k.cqWrite.toNat + 1 = s.pnum p 0x45 then 0 else k.cqWrite.toNat + 1)
       ∧ l.phase = (k.phase != (k.cqWrite.toNat + 1 == s.pnum p 0x45))
       ∧ (∃ len, t.out = s.out ++ s.recordOut p (kenRecord 1 code (scTag c) (scEntry c) (scSid c) (s.part p).stepNow.toNat len 0 0 0 0))
       ∧ t = { s with parts := s.parts.set p { s.part p with kennel := l }, out := t.out })
     ∧ (s.ringReady p = false → answers i s fun t => t = s))
  ∧ (∀ (s : State) (p : PartIx) (via : Tlp),
     (s.takes p via = true →
       let bad (t : State) : Prop :=
         t.part p = { s.part p with kennel := { s.ken p with doorbellBad := (s.ken p).doorbellBad + 1 } } ∧ onlyPart p s t
       (∀ (w : BitVec 64), w.extractLsb' 12 4 = 0 → s.cqFree p = true →
         let e := (w.extractLsb' 0 12).toNat
         let x := s.entry p e
         s.fastStatus p e (w.extractLsb' 32 32).toNat = rpCancelled →
         answers (.fastCancel p ⟨w, via⟩) s fun t =>
           (t.ken p).entry e = (if eState x = stRunning then withMuz (withState x stCancelled) true else withState x stCancelled)
           ∧ (t.ken p).sqHead = (s.ken p).sqHead
           ∧ t.out = s.out ++ s.recordOut p (kenRecord 1 rpCancelled (w.extractLsb' 16 16).toNat e (eSid x) (s.part p).stepNow.toNat (eLen x) 0 0 0 0)
           ∧ ringFrame p e s t)
       ∧ (∀ (w : BitVec 64), w.extractLsb' 12 4 ≠ 0 → answers (.fastCancel p ⟨w, via⟩) s bad)
       ∧ (∀ (w : BitVec 32), w.toNat < 4096 →
         (w.toNat < s.pnum p 0x43 → answers (.sqTail p ⟨w, via⟩) s fun t =>
           t.part p = { s.part p with kennel := { s.ken p with sqTail := w.setWidth 12 } } ∧ onlyPart p s t)
         ∧ (w.toNat < s.pnum p 0x45 → (s.ken p).kept = [] →
           (w.toNat + s.pnum p 0x45 - (s.ken p).cqHead.toNat) % s.pnum p 0x45
             ≤ ((s.ken p).cqWrite.toNat + s.pnum p 0x45 - (s.ken p).cqHead.toNat) % s.pnum p 0x45 →
           answers (.cqHead p ⟨w, via⟩) s fun t =>
             t.part p = { s.part p with kennel := { s.ken p with cqHead := w.setWidth 12 } } ∧ onlyPart p s t))
       ∧ (∀ (w : BitVec 32), (4096 ≤ w.toNat ∨ s.pnum p 0x43 ≤ w.toNat → answers (.sqTail p ⟨w, via⟩) s bad)
         ∧ (4096 ≤ w.toNat ∨ s.pnum p 0x45 ≤ w.toNat → answers (.cqHead p ⟨w, via⟩) s bad)))
     ∧ (s.takes p via = false →
       let refused (t : State) : Prop := t = if s.serves via.link then s.emit (.unsupported via.link (some p)) else s
       (∀ w, answers (.fastCancel p ⟨w, via⟩) s refused) ∧ (∀ w, answers (.sqTail p ⟨w, via⟩) s refused) ∧ ∀ w, answers (.cqHead p ⟨w, via⟩) s refused))

/-- R172 to R176, R240, R241, R280: what a member does with a KENNEL item from the home Kennel that opens under an installed link key; NEXT
passes the item, whose unit is free again. One that does not open is counted, latches FSW bit 43 and reaches no Kennel. What the host has
written to STREAMIO since the last such row reaches memory with a unit's work (log 72), in order, where the function takes the write; one
that it does not take is an Unsupported Request and writes nothing. Then a Bark unit that serves the partition does its work of the step,
once: of every live, unmuzzled stream whose entry it serves (log 17) it writes the feature frames of the whole hops that have come, and the
output samples of a stream that ran in the step before. Nothing else of memory, no entry, and no other stream's state changes. Where the
specification leaves a point open, this follows the model's choice of logs 11, 17, 30, 72. -/
def Obligations.KennelItemsAndBarkWork : Prop :=
  (∀ (s : State) (n : PortIx) (k : KennelItem) (p : PartIx), s.inOrder n k.sqn false k.owner = true → s.forSelf n k.owner k.dst = some p →
     s.isHome p = false →
     let K := s.ken p
     ((s.part p).openItem k = none → ∃ t, Sys2Proof.Machine.exec (.kennelItem n k) s = .next t
       ∧ (t.port n).tagFail = (s.port n).tagFail + 1 ∧ (t.port n).rxNext = (s.port n).rxNext + 1 ∧ latched 43 t
       ∧ t.ken p = K ∧ t.cells = s.cells ∧ t.mem = s.mem ∧ t.dict = s.dict)
     ∧ (∀ b m, (s.part p).openItem k = some b → kenMsgOf b = some m → ∃ t, Sys2Proof.Machine.exec (.kennelItem n k) s = .next t ∧
       let L := t.ken p
       (∀ e, m = .cancel e → eLive (K.entry e.toNat) = true →
         L = { K.stopCopies e.toNat with entries := K.entries.set e.toNat (if eState (K.entry e.toNat) = stRunning
           then withMuz (withState (K.entry e.toNat) stCancelled) true else withState (K.entry e.toNat) stCancelled) })
       ∧ (∀ i key, m = .seed i key →
         ((s.part p).seedsAtOnce = true → L = { K with seeds := K.seeds.set i.toNat key })
         ∧ ((s.part p).seedsAtOnce = false → ∃ c : SqEntry, L = { K with pendingCmds := K.pendingCmds ++ [⟨c, true, false⟩] }
             ∧ scCmd c = 7 ∧ scEntry c = i.toNat ∧ scArg c 0 128 = key.toNat))
       ∧ (∀ st v, m = .map st v → L.mapWhole = true ∧ (∃ r, L.slotMap = some r ∧ r.step = st ∧ r.variant = v))
       ∧ (∀ st i r, m = .slot st i r →
         L.mapWhole = false ∧ (∃ q, L.slotMap = some q ∧ q.step = st ∧ (i.toNat < q.slots.length → q.slots[i.toNat]? = some r)))
       ∧ (∀ e i v, m = .word e i v → L = { K with homeWords := K.homeWords ++ [(e, i, v)] })
       ∧ (∀ e, m = .resume e → eState (K.entry e.toNat) = stSuspended → e.toNat < K.extra.length →
         (L.xtra e.toNat).resume = true ∧ L = { K with extra := L.extra })
       ∧ (∀ e, m = .freed e → eState (K.entry e.toNat) ≠ stFree → e.toNat < K.entries.length →
         eState (L.entry e.toNat) = stEnded ∧ eSlot (L.entry e.toNat) = 0xFFF)
       ∧ t.part p = { s.part p with kennel := L, images := (t.part p).images }
       ∧ t.port n = s.tookItem n false k.owner
       ∧ t = { s with parts := s.parts.set p (t.part p), ports := s.ports.set n (t.port n) }))
  ∧ (∀ (s : State) (p : PartIx) (u : Fin 2) (host : List StreamWrite), s.damaged = [] →
     let written := (host.filter fun w => s.takes p w.via).foldl (fun v w => v.bar2Write p w) s
     let refused := (host.filter fun w => !s.takes p w.via && s.serves w.via.link).map fun w => Out.unsupported w.via.link (some p)
     let serve (r : State × List BarkStream) (b : BarkStream) : State × List BarkStream :=
       let w := s.entry p b.entry.toNat
       if b.entry.toNat % 2 = u.val ∧ eBark w = true ∧ eLive w = true ∧ eMuz w = false then
         let a := r.1.barkInput p b
         let o := a.1.barkOutput p a.2 ((s.part p).stepNow - 1).toNat
         (o.1, r.2 ++ [o.2])
       else (r.1, r.2 ++ [b])
     (u ∈ s.barkUnits p → (s.part p).running = true → (s.ken p).barkDone.getLsbD u.val = false →
       s.faults.persist.getLsbD (40 + u.val) = false →
       ∃ t, Sys2Proof.Machine.exec (.barkWorkDone p ⟨u, host⟩) s = .next t
         ∧ (let r := (s.ken p).bark.foldl serve (written, [])
           t.mem = r.1.mem ∧ t.part p = { s.part p with kennel := { s.ken p with
             bark := r.2, barkDone := (s.ken p).barkDone ||| BitVec.twoPow 2 u.val } })
         ∧ t = { s with parts := s.parts.set p (t.part p), mem := t.mem, out := s.out ++ refused })
     ∧ (u ∉ s.barkUnits p ∨ (s.part p).running = false ∨ (s.ken p).barkDone.getLsbD u.val = true
         ∨ s.faults.persist.getLsbD (40 + u.val) = true →
       ∃ t, Sys2Proof.Machine.exec (.barkWorkDone p ⟨u, host⟩) s = .next t ∧ t = { s with mem := written.mem, out := s.out ++ refused }))

/-! Memory and weights (08) -/

/-- R171, R190, R191, R193: a copy of a suspended or resumed stream that meets no damage writes its pages and waits, done, for the boundary; the
pages of the copy count as changed in the step. The copy of a swap that meets no damage has copied its bytes from LIBRARY into its slot,
from where it had got on, and waits for the boundary of a running job. Where the specification leaves a point open, this follows the model's
choice of log 32. -/
def Obligations.CopiesWaitForTheBoundary : Prop :=
  (∀ (s : State) (p : PartIx) (e : BitVec 12) (back : Bool) (c : CopyJob),
     (s.ken p).copies.find? (fun c => c.entry == e && c.back == back && !c.done && !c.failed) = some c → s.damaged = [] →
     answers (if back then .resumeCopyDone p e else .suspendCopyDone p e) s fun t =>
       t.mem = (s.copyPages p c).mem
       ∧ t.part p = { s.part p with
           changed := (s.part p).changed ++ c.dst.filter fun a => !(s.part p).changed.contains a
           kennel := { s.ken p with copies := (s.ken p).copies.map fun d => if d.entry = e then { d with done := true } else d } }
       ∧ onlyPartAndMem p s t)
  ∧ (∀ (s : State) (p : PartIx) (i : Fin 2) (j : SwapJob), (s.part p).copying i = some j → j.copied < j.len.toNat → s.damaged = [] →
     (s.part p).stepping = true →
     let src := (s.region p rgLibrary).addr + 2097152 * j.src.toNat
     let dst := (s.region p (rgModel i)).addr
     answers (.swapCopyDone p i) s fun t =>
       t.mem = (s.writeV p (dst + j.copied) (s.readV p (src + j.copied) (j.len.toNat - j.copied))).mem
       ∧ t.part p = { s.part p with swaps := (s.part p).swaps.map (SwapJob.finish i j.len.toNat) }
       ∧ onlyPartAndMem p s t)

/-- R198, R199, R202, R203, R241, R266: a chunk whose digest is the manifest's is held, and written at its place once the destination is
LOADING; one that is not is asked for once more; an ingest with every chunk is done, VERIFIED at all of them; a stall asks the other parent
for the first chunk not held; a child's report is kept, and the last one due completes this module's own. Stated for raw form without
children to feed. Where the specification leaves a point open, this follows the model's choice of log 31. -/
def Obligations.IngestsAdvance : Prop :=
  (∀ (s : State) (p : PartIx) (k : IngestKey) (d : DistEntry) (g : Ingest) (i : BitVec 32) (chunk : Bytes), s.faults.muzzle = false →
    s.ingestEntry p = some d → (s.part p).ingestOf k = some g → g.done = false → i.toNat < mfChunks g.manifest →
    i.toNat ≠ manifestIndex → g.held.contains i = false →
    (leBytes 32 (Config.sha3_256 chunk).toNat = mfDigest g.manifest i.toNat → mfForm g.manifest = 0 → g.feeds = [] → s.damaged = [] →
      (g.flushed = true → (s.part p).steady g = true) →
      answers (.chunkReceive ⟨p, k⟩ i chunk) s fun t =>
        let h := { g with held := i :: g.held, content := g.content ++ [(i, chunk)] }
        t.part p = { (s.part p).setIngest h with wloadStatus := wloadWord 1 0 h.verified }
        ∧ t.mem = (if g.flushed then (s.writeV p (s.ingestAddr p g + chunkBytes * i.toNat) chunk).mem else s.mem)
        ∧ onlyPartAndMem p s t)
    ∧ (leBytes 32 (Config.sha3_256 chunk).toNat ≠ mfDigest g.manifest i.toNat → g.retried.contains i = false →
      answers (.chunkReceive ⟨p, k⟩ i chunk) s fun t =>
        let h := { g with retried := i :: g.retried }
        (d.fetch = true → t.part p = (s.part p).setIngest h
          ∧ t = { s with parts := s.parts.set p (t.part p), out := s.out ++ [.chunkRequest p g.key i] })
        ∧ (d.fetch = false → t = (s.modPart p fun x => x.setIngest h).askChunk p g d i.toNat false
          ∧ t.part p = { (s.part p).setIngest h with keys := (t.part p).keys }
          ∧ t = { s with parts := s.parts.set p (t.part p), ports := t.ports, free := t.free })))
  ∧ (∀ (s : State) (p : PartIx) (k : IngestKey) (g : Ingest), (s.part p).ingestOf k = some g → g.done = false → g.flushed = true →
    g.first = mfChunks g.manifest → mfForm g.manifest = 0 → (s.part p).steady g = true →
    answers (.ingestDone ⟨p, k⟩) s fun t =>
      (∃ h, (t.part p).ingestOf k = some h ∧ h.done = true ∧ h.held = g.held)
      ∧ (t.part p).wloadStatus = wloadWord 2 0 (mfChunks g.manifest) ∧ t.mem = s.mem ∧ t.cells = s.cells)
  ∧ (∀ (s : State) (p : PartIx) (k : IngestKey) (child : BitVec 14), child ∈ s.ingestChildren p →
    ((∀ g, (s.part p).ingestOf k = some g → g.done = false) →
      answers (.ingestReport ⟨p, k⟩ child) s fun t =>
        (k, child) ∈ (t.part p).childDone ∧ (∀ c ∈ (s.part p).childDone, c ∈ (t.part p).childDone)
        ∧ t.part p = { s.part p with childDone := (t.part p).childDone } ∧ onlyPart p s t)
    ∧ (∀ g d, (s.part p).ingestOf k = some g → g.done = true → g.reported = false → s.ingestEntry p = some d →
      (∀ c ∈ s.ingestChildren p, c = child ∨ (k, c) ∈ (s.part p).childDone) →
      answers (.ingestReport ⟨p, k⟩ child) s fun t =>
        (∃ h, (t.part p).ingestOf k = some h ∧ h.reported = true) ∧ (∀ c, (k, c) ∉ (t.part p).childDone)
        ∧ t.mem = s.mem ∧ t.cells = s.cells))
  ∧ (∀ (s : State) (p : PartIx) (k : IngestKey) (d : DistEntry) (g : Ingest), s.ingestEntry p = some d → (s.part p).ingestOf k = some g →
    d.fetch = false → g.done = false → g.first ≠ mfChunks g.manifest → g.switches + 1 ≠ 4 →
    answers (.ingestStall ⟨p, k⟩) s fun t =>
      let h := { g with backupParent := !g.backupParent, switches := g.switches + 1, retried := [] }
      let u := (s.modPart p fun x => x.setIngest h).askChunk p h d h.first true
      let up := ((s.part p).setIngest h).ingests.any (·.backupParent)
      t = u.goUp p d up
      ∧ t.part p = { (s.part p).setIngest h with keys := (t.part p).keys, upBackup := up }
      ∧ t = { s with parts := s.parts.set p (t.part p), ports := t.ports, free := t.free })

/-- R191, R204, Table 8-14: an access that meets an uncorrectable error damages its granule and latches the bit of its stack or group. Within
the steps of a job it counts once, and writes nothing unless it is a swap's; a cell's refill freezes the partition; a DRD outside the pages
of every RUNNING stream keeps the step from committing; VC2 and patrol do neither; the copy of a swap stops, and its slot alone becomes
FAULT at the boundary. In READY, patrol scrub reads the next frame of a channel and wraps after the last; it counts a corrected error, and
an uncorrectable one for every damaged granule of the frame, new or old, since it leaves those as they are. It changes no memory, unless an
uncorrectable error lets the slot changes of a partition outside the steps of a job take effect. Where the specification leaves a point
open, this follows the model's choice of log 13. -/
def Obligations.MemoryErrorsAreContained : Prop :=
  (∀ (s : State) (p : PartIx) (a : BitVec 64) (r : MemReader) (x : Nat), s.phys p a.toNat = some x →
     answers (.memoryError p a r) s fun t =>
       x / 256 * 256 ∈ t.damaged ∧ t.dict = s.dict ∧ t.up = s.up
       ∧ (s.partNo.fswBit (physUnit s.partNo.lpShare x).1.val = true → latched (physUnit s.partNo.lpShare x).1 t)
       ∧ ((s.part p).stepping = true →
         ((∀ i, r ≠ .swapCopy i) → t.uncorrected = s.uncorrected + 1 ∧ t.mem = s.mem)
         ∧ (∀ c e, r = .refill c e → (t.part p).frozen.isSome = true)
         ∧ (∀ c tx, r = .drd c tx → s.runningAt p a.toNat = false → (t.part p).poisoned = true)
         ∧ (r = .vc2 ∨ r = .patrol → (t.part p).frozen = (s.part p).frozen ∧ (t.part p).poisoned = (s.part p).poisoned ∧ t.cells = s.cells)
         ∧ (∀ i, r = .swapCopy i → (t.part p).slotBad[i] = true ∧ (t.part p).slotState = (s.part p).slotState
           ∧ (∀ q ∈ (t.part p).swaps, two q.slot = i → q.copying = true → q.done = true)
           ∧ ∀ q ∈ (s.part p).swaps, two q.slot ≠ i → q ∈ (t.part p).swaps)
         ∧ ∀ q, q ≠ p → t.part q = s.part q))
  ∧ (∀ (s : State) (ch : Fin 256) (r : ScrubResult), s.isReady = true →
     let counts (lp : Bool) (unit : Nat) (t : State) : Prop :=
       let at_ := patrolAddr s.partNo.lpShare lp ch.val unit
       t.corrected = s.corrected + (if r = .corrected then 1 else 0) ∧ t.cells = s.cells ∧ t.dict = s.dict
       ∧ (r ≠ .uncorrectable → t.damaged = s.damaged) ∧ (r = .uncorrectable → ∃ v < 8192, at_ v ∈ t.damaged)
       ∧ ((∀ v < 8192, at_ v ∉ t.damaged) → t.uncorrected = s.uncorrected ∧ t.mem = s.mem ∧ t.parts = s.parts)
       ∧ ((∀ p : PartIx, (s.part p).stepping = true) → t.mem = s.mem ∧ t.uncorrected
           = s.uncorrected + BitVec.ofNat 64 (t.damaged.filter fun g => (List.range 8192).any fun v => at_ v == g).length)
     (∀ (h : ch.val < 96), ch.val < s.partNo.lpShare * s.partNo.cols → answers (.patrolScrubRead true ch r) s fun t =>
       t.patrolLp = s.patrolLp.set ch.val (BitVec.ofNat 16 ((s.patrolLp[ch.val].toNat + 1) % 6144)) ∧ t.patrolHbm = s.patrolHbm
       ∧ counts true s.patrolLp[ch.val].toNat t)
     ∧ (ch.val < s.partNo.stacks * 32 → answers (.patrolScrubRead false ch r) s fun t =>
       t.patrolHbm = s.patrolHbm.set ch (BitVec.ofNat 16 ((s.patrolHbm[ch].toNat + 1) % 576)) ∧ t.patrolLp = s.patrolLp
       ∧ counts false s.patrolHbm[ch].toNat t))

/-- R182, R280, R282: re-encryption of a channel's part makes a new LPDDR5X key for that channel beside the old one, which it erases at its end;
an IDE set switch makes the other installed set active and erases the one before. When the last frame of a scrub is written, every byte of
the released column-shares is zero, no other byte has changed, and the partition without columns is OFF, with the fence on it gone; one that
keeps columns is FENCED as long as its fence stands, else ACTIVE. Where the specification leaves a point open, this follows the model's
choice of logs 48, 52. -/
def Obligations.KeysTurnOverAndScrubsEnd : Prop :=
  ((∀ (s : State) (p : PartIx) (ch : Fin 96) (k : Fin 96 × BitVec 256), (s.part p).keys.lpKeys.find? (fun o => o.1 == ch) = some k →
     (∀ o ∈ (s.part p).keys.lpOld, o.1 ≠ ch) → s.ownsCol p (ch.val / s.partNo.lpShare) = true →
     answers (.reencryption p ch) s fun t =>
       t.part p = { s.part p with keys := { (s.part p).keys with
         lpOld := k :: (s.part p).keys.lpOld
         lpKeys := (s.part p).keys.lpKeys.map fun o => if o.1 = ch then (ch, Config.entropy s.draws) else o
         lpGen := (s.part p).keys.lpGen + 1 } }
       ∧ t = { s with parts := s.parts.set p (t.part p), draws := s.draws + 1 })
   ∧ (∀ (s : State) (p : PartIx) (ch : Fin 96), s.ownsCol p (ch.val / s.partNo.lpShare) = true →
     answers (.reencryptionDone p ch) s fun t =>
       t.part p = { s.part p with keys := { (s.part p).keys with lpOld := (s.part p).keys.lpOld.filter fun o => o.1 != ch } } ∧ onlyPart p s t)
   ∧ (∀ (s : State) (p : PartIx) (k : BitVec 1536), (s.part p).keys.ideSet[two (!(s.part p).keys.ideActive)] = some k →
     answers (.ideKeySetSwitch p) s fun t =>
       (t.part p).keys.ideActive = !(s.part p).keys.ideActive
       ∧ (t.part p).keys.ideSet[two (t.part p).keys.ideActive] = some k
       ∧ (t.part p).keys.ideSet[two (s.part p).keys.ideActive] = none
       ∧ t.part p = { s.part p with keys := { (s.part p).keys with ideActive := (t.part p).keys.ideActive, ideSet := (t.part p).keys.ideSet } }
       ∧ onlyPart p s t))
  ∧ (∀ (s : State) (p : PartIx), (s.part p).partState = 2 →
     answers (.scrubDone p) s fun t =>
       (∀ a, (∃ c < 16, (s.part p).scrubCols.getLsbD c = true ∧ ∃ r ∈ s.shareRanges c, r.1 ≤ a ∧ a < r.1 + r.2) → Memory.byte t.mem a = 0)
       ∧ (∀ a, (∀ c < 16, (s.part p).scrubCols.getLsbD c = true → ∀ r ∈ s.shareRanges c, a < r.1 ∨ r.1 + r.2 ≤ a) →
           Memory.byte t.mem a = Memory.byte s.mem a)
       ∧ (t.part p).scrubCols = 0 ∧ (t.part p).scrubs = []
       ∧ (s.pnum p 1 = 0 → (t.part p).partState = 0 ∧ (t.part p).fenced = false)
       ∧ (s.pnum p 1 ≠ 0 → (t.part p).fenced = (s.part p).fenced ∧ (t.part p).partState = if (s.part p).fenced then 3 else 1)
       ∧ (∀ q, q ≠ p → t.part q = s.part q) ∧ t.cells = s.cells ∧ t.dict = s.dict)

/-- R195, R196, R272: an acknowledgement moves MIRROR_STEP and makes the mirror valid; one that does not come loses the mirror and latches FSW
bit 49. A spare that takes a mirror whose digest holds writes its pages and installs it as the boundary image of the step after its own; any
other one marks the partition. A partner sends the mirror it holds to the device that is named. Where the specification leaves a point open,
this follows the model's choice of log 33. -/
def Obligations.MirrorsFollow : Prop :=
  (∀ (s : State) (p : PartIx), (s.part p).mirrorState = 1 ∨ (s.part p).mirrorState = 2 →
    (∀ n, n ≤ (s.part p).stepCommitted → (s.part p).stepCommitted ≠ BitVec.allOnes 64 → answers (.mirrorAck p n) s fun t =>
      t.part p = { s.part p with mirrorStep := n, mirrorState := 2, mirrorWait := false
                                 mirrorDue := if (s.part p).mirrorDue = some n then none else (s.part p).mirrorDue } ∧ onlyPart p s t)
    ∧ answers (.mirrorTimeout p) s fun t =>
      t.part p = { s.part p with mirrorState := 4, mirrorWait := false, mirrorDue := none, reported := (t.part p).reported }
      ∧ latched 49 t ∧ t.cells = s.cells ∧ t.mem = s.mem ∧ t.dict = s.dict)
  ∧ (∀ (s : State) (p : PartIx) (h : MirrorHeader) (pages : List (BitVec 64 × Bytes)), (s.part p).restorable = true →
    (headerValid h = true → h.entries.length = s.pnum p 0x41 → s.damaged = [] →
      answers (.mirrorRestore p (.spare h) pages) s fun t =>
        (∃ i, (t.part p).images = [i] ∧ i.step = h.step + 1 ∧ i.variant = h.variant ∧ i.kennel = t.ken p)
        ∧ (t.ken p).entries = h.entries
        ∧ (t.ken p).kvFree = h.kvFree.map (fun o => o + BitVec.ofNat 64 (s.region p rgKv).addr)
        ∧ (t.ken p).susFree = h.susFree.map (fun o => o + BitVec.ofNat 64 (s.region p rgSuspend).addr)
        ∧ (t.part p).stepCommitted = h.step ∧ (t.part p).restoreFailed = false ∧ t.free = s.free + 1
        ∧ t.mem = (pages.foldl (fun s g => s.putBack p g.1.toNat g.2) s).mem)
    ∧ (headerValid h = false ∨ h.entries.length ≠ s.pnum p 0x41 →
      answers (.mirrorRestore p (.spare h) pages) s fun t => t.part p = { s.part p with restoreFailed := true } ∧ onlyPart p s t))
  ∧ (∀ (s : State) (p : PartIx) (dev : BitVec 14) (pages : List (BitVec 64 × Bytes)), answers (.mirrorRestore p (.holder dev) pages) s fun t =>
      t = (if s.pnum p 0x58 = 0 then s else s.restoreTo p dev)
      ∧ t.part p = { s.part p with keys := (t.part p).keys }
      ∧ t = { s with parts := s.parts.set p (t.part p), ports := t.ports, free := t.free })

/-! Jaldar links and VC2 (09) -/

/-- R227, R230, R232: a training is UP when the far OWNER_DIGEST agrees and the PRBS count is within its limit, with sequence numbers, replay
and credits at 0 and full windows; a differing digest is MISMATCH; a failed attempt is followed by another, or by FAILED with the FSW bit of
the optical engine. A fast retrain keeps numbers and replay, all of it to be sent again, and ends the grace period. What waits on other
ports may go out on the port that is UP; of those ports nothing else changes. Where the specification leaves a point open, this follows the
model's choice of logs 19, 22. -/
def Obligations.PortsTrain : Prop :=
  ∀ (s : State) (n : PortIx), s.hasPort n = true →
    let x := s.port n
    let again (t : State) : Prop :=
      (x.attempts < s.num 0x3400 9 → (t.port n).state = 1 ∧ (t.port n).attempts = x.attempts + 1 ∧ onlyPort n s t)
      ∧ (s.num 0x3400 9 ≤ x.attempts → (t.port n).state = 5 ∧ latched (portBit n) t ∧ t.parts = s.parts ∧ t.cells = s.cells)
    let others (t : State) : Prop :=
      (∀ m, m ≠ n → t.port m = { s.port m with
        q0 := (t.port m).q0, qDetour := (t.port m).qDetour, qBulk := (t.port m).qBulk, replay := (t.port m).replay })
      ∧ t = { s with ports := t.ports, msgs := t.msgs }
    (x.state = 1 → ∀ prbs rtt digest,
      (digest ≠ s.ownerDigest n → answers (.trainingDone n prbs rtt digest) s fun t =>
        t.port n = { x with prbs := prbs, rtt := rtt, state := 2 } ∧ onlyPort n s t)
      ∧ (digest = s.ownerDigest n → s.num 0x3400 1 < prbs.toNat → answers (.trainingDone n prbs rtt digest) s again)
      ∧ (digest = s.ownerDigest n → prbs.toNat ≤ s.num 0x3400 1 → answers (.trainingDone n prbs rtt digest) s fun t =>
        let y := t.port n
        y.state = 3 ∧ y.upSince = s.ns ∧ y.txSeq = 0 ∧ y.rxNext = 0 ∧ y.replay = [] ∧ y.sentLog = [] ∧ y.rxHeld = [] ∧ y.prbs = prbs ∧ y.rtt = rtt
        ∧ y.errNow = prbs.toNat
        ∧ (∀ (i : Fin 9) (c : Chan), y.chans[i][c] = { ChanState.cold with w := s.reserve n i c + s.shared n i })
        ∧ y.qByp = (if x.grace then [] else x.qByp)
        ∧ y.graceHeld = x.graceHeld ++ (if x.grace then
            ((x.replay.map (·.out) ++ x.q0 ++ x.qDetour ++ x.qBulk ++ x.qByp).filter fun o => !o.detours).map fun o => (x.downSince, o) else [])
        ∧ others t))
    ∧ (x.state = 1 → answers (.trainingFail n) s again)
    ∧ (x.state = 4 → answers (.fastRetrainFail n) s again)
    ∧ (x.state = 4 → answers (.fastRetrainDone n) s fun t =>
      let y := t.port n
      y.state = 3 ∧ y.upSince = s.ns ∧ y.txSeq = x.txSeq ∧ y.rxNext = x.rxNext ∧ y.rxHeld = x.rxHeld ∧ y.grace = false
      ∧ y.replay = x.replay.map (fun r => { r with resend := max 1 r.resend }) ∧ y.qByp = x.qByp
      ∧ (∀ (i : Fin 9) (c : Chan), y.chans[i][c] = { x.chans[i][c] with w := s.reserve n i c + s.shared n i, off := 0 }) ∧ others t)

/-- R222, R228, R231, R233: an UP port goes DOWN for its cause, counts it, begins the grace period and sends the down pattern; its numbers stay, and no
VC0 or VC1 flit waits for replay on it alone whose other port is UP and has an entry of its job; a loss of lane lock within its limit does nothing.
When the grace period of a down ends without recovery, what a full training has cut off in it goes, and if it is the last down and the port is not
UP no VC2 flit and no item is left on the port; VC0 and VC1 flits stay, and what a later down has put aside waits for its own end. -/
def Obligations.PortsGoDown : Prop :=
  (∀ (s : State) (n : PortIx), s.linkUp n = true →
     let x := s.port n
     let post (cause : BitVec 8) (t : State) : Prop :=
       let y := t.port n
       y.state = 4 ∧ y.cause = cause ∧ y.downCount = x.downCount + 1 ∧ y.grace = true ∧ y.downSince = t.ns ∧ .downPattern n ∈ t.out
       ∧ y.replay.map (·.seq) = x.replay.map (·.seq) ∧ y.txSeq = x.txSeq ∧ y.rxNext = x.rxNext
       ∧ (∀ r ∈ y.replay, r.out.detours = true → r.out.other n ≠ n → (s.port (r.out.other n)).state = 3 →
           (s.jobIx (r.out.other n) (s.ownerAt n r.out.owner).job).isSome = true → r.moved = true)
       ∧ (cause = 3 → t.parts = s.parts) ∧ t.cells = s.cells ∧ t.mem = s.mem ∧ t.dict = s.dict
     (∀ ns : BitVec 32, s.num 0x3400 3 < ns.toNat → answers (.laneLockLoss n ns) s (post 2))
     ∧ (∀ ns : BitVec 32, ns.toNat ≤ s.num 0x3400 3 → answers (.laneLockLoss n ns) s fun t => t = s)
     ∧ (s.waitsCredit n = true → answers (.creditTimeout n) s (post 3))
     ∧ answers (.downPattern n) s (post 4))
  ∧ (∀ (s : State) (n : PortIx), s.hasPort n = true → (s.port n).grace = true ∨ (s.port n).graceHeld ≠ [] →
     answers (.linkGraceExpiry n) s fun t =>
       let x := s.port n
       let y := t.port n
       let current : Bool := x.grace && x.downSince == x.graceFrom
       let kept (l : List OutFlit) : List OutFlit := if current && x.state != 3 then l.filter fun o => decide (o.chan.val < 2) else l
       y.grace = (x.grace && !current) ∧ y.graceHeld = x.graceHeld.filter (fun h => h.1 != x.graceFrom)
       ∧ y.q0 = kept x.q0 ∧ y.qDetour = kept x.qDetour ∧ y.qBulk = kept x.qBulk ∧ y.qByp = kept x.qByp
       ∧ y.replay = (if current && x.state != 3 then x.replay.filter fun r => decide (r.out.chan.val < 2) else x.replay) ∧ y.state = x.state
       ∧ 65536 * (x.graceFrom.toNat + 1000 * s.num 0x3400 7) ≤ t.up
       ∧ t.cells = s.cells ∧ t.mem = s.mem ∧ t.dict = s.dict)

/-- R211, R214, R215, R218, R223: at a position of its owner's range the oldest VC0 flit whose allocation holds the position leaves with the
next sequence number, is kept for replay and counts against the credit; a position of no owner, or of one whose partition is fenced or not
ACTIVE, carries an idle flit. Where the specification leaves a point open, this follows the model's choice of logs 18, 22. -/
def Obligations.WheelPositionsCarryTheirOwner : Prop :=
  ∀ (s : State) (n : PortIx) (pos : BitVec 16), s.linkUp n = true → pos.toNat % 64 ≠ 63 → (s.port n).qByp = [] → (s.port n).replay = [] →
    let x := s.port n
    (∀ (w : BitVec 3) (o : OutFlit) (os : List OutFlit) (f : Flit) (c : CellRef) (k : Nat), s.positionOwner n pos.toNat = some w →
      s.silenced n w = false → x.q0 = o :: os → o.owner = w → o.body = .data f → o.from_ = .dsnd c k → s.maySend n o = true →
      holdsPosition o.alloc pos.toNat = true →
      answers (.wheelPosition n pos) s fun t =>
        let g := { f with sqn := x.txSeq }
        let y := t.port n
        t.out = s.out ++ [.data n g (crc64 (flitBytes g))] ∧ y.txSeq = x.txSeq + 1 ∧ y.q0 = os
        ∧ y.replay = [⟨x.txSeq, o, s.ns, 0, none, false⟩] ∧ y.sentLog = (⟨x.txSeq, o.ix, o.chan, 4⟩ :: x.sentLog).take (2 ^ 19)
        ∧ y.chans[o.ix][o.chan].occ = x.chans[o.ix][o.chan].occ + 4 ∧ y.chans[o.ix][o.chan].sent = x.chans[o.ix][o.chan].sent + 4
        ∧ t = { s with ports := s.ports.set n y, out := t.out })
    ∧ (s.positionOwner n pos.toNat = none → answers (.wheelPosition n pos) s fun t => t = { s with out := s.out ++ [idleOut n 0] })
    ∧ (∀ w, s.positionOwner n pos.toNat = some w → s.silenced n w = true →
      answers (.wheelPosition n pos) s fun t => t = { s with out := s.out ++ [idleOut n w] })

/-- R207, R208, R216, R218, R223, R229, R234: a good data flit in order for a partition of this module joins the message of its SRC, VC and CTR
and holds four units of the pool; one for no job that the module knows is discarded and counted; one outside the acceptance window or
received before is not taken, one without room only counts; an uncorrectable one only counts until the window's limit is passed. Corrected
symbols count. Where the specification leaves a point open, this follows the model's choice of logs 18, 21. -/
def Obligations.DataFlitsAreReceived : Prop :=
  ∀ (s : State) (n : PortIx), s.linkUp n = true →
    let x := s.port n
    (∀ (f : Flit) (src : BitVec 14) (ctr : BitVec 64) (cs : List Codeword) (c : Chan), f.ft = 0 → f.vc.toNat = c.val → c.val < 3 →
      s.faults.muzzle = false → (∀ w ∈ cs, w.errors ≤ 15) →
      let r : RxFlit := .flit f (crc64 (flitBytes f)) src ctr cs
      let i := ownIx f.owner
      (f.sqn = x.rxNext → x.rxHeld = [] → s.room n i c 4 = true →
        (∀ p, s.forSelf n f.owner f.dst = some p → f.last = false → s.msgs = [] → answers (.dataFlitReceive n r) s fun t =>
          let y := t.port n
          y.rxNext = x.rxNext + 1 ∧ y.rxHeld = [] ∧ y.chans[i][c].rocc = x.chans[i][c].rocc + 4 ∧ y.chans[i][c].freed = x.chans[i][c].freed
          ∧ y.corrected = x.corrected + BitVec.ofNat 64 (rxSymbols r)
          ∧ t.msgs = [⟨p, src, f.vc, ctr, if f.vc = 2 then (f.tag.extractLsb' 0 12).setWidth 16 else f.tag, f.kph,
              [⟨f.off, f.payload.take f.len.toNat, false, n, f.owner, 4⟩], false, 0, 0, false⟩]
          ∧ t = { s with ports := s.ports.set n y, msgs := t.msgs })
        ∧ (s.forSelf n f.owner f.dst = none → s.transitOf (s.ownerAt n f.owner).job f.dst = none → answers (.dataFlitReceive n r) s fun t =>
          let y := t.port n
          y.rxNext = x.rxNext + 1 ∧ y.rxHeld = [] ∧ y.chans[i][c].rocc = x.chans[i][c].rocc ∧ y.chans[i][c].freed = x.chans[i][c].freed + 4
          ∧ y.discarded = x.discarded + 1 ∧ onlyPort n s t))
      ∧ (x.accepts f.sqn = false → answers (.dataFlitReceive n r) s fun t =>
        t.port n = { x with win := (t.port n).win, winTick := (t.port n).winTick, corrected := x.corrected + BitVec.ofNat 64 (rxSymbols r) }
        ∧ onlyPort n s t)
      ∧ (x.accepts f.sqn = true → s.room n i c 4 = false → answers (.dataFlitReceive n r) s fun t =>
        t.port n = { x with
          win := (t.port n).win, winTick := (t.port n).winTick, corrected := x.corrected + BitVec.ofNat 64 (rxSymbols r), noSpace := x.noSpace + 1 }
        ∧ onlyPort n s t))
    ∧ (((s.tickWindow n true).port n).errNow ≤ s.num 0x3400 1 → answers (.dataFlitReceive n .uncorrectable) s fun t =>
        t.port n = { x with win := (t.port n).win, winTick := (t.port n).winTick, uncorr := x.uncorr + 1 } ∧ onlyPort n s t)
    ∧ (s.num 0x3400 1 < ((s.tickWindow n true).port n).errNow → answers (.dataFlitReceive n .uncorrectable) s fun t =>
        (t.port n).state = 4 ∧ (t.port n).cause = 1 ∧ t.parts = s.parts)

/-- R209, R216, R219, R220, R221, R223, R224, R249, R269: what the items received do to an UP port. ACK frees the entries that NEXT has passed
and sends the listed ones once more; CREDIT takes what the receiver has freed off OCC; BEACON clears or counts a disagreement and from the
ninth on lowers the window by 1/64, never below the reserve; RESYNC opens the lowered windows again; a PEER item for this module counts, one
for no job that it knows is discarded and counted; a reserved one is discarded. Where the specification leaves a point open, this follows
the model's choice of logs 24, 25. -/
def Obligations.ItemsReceivedTakeEffect : Prop :=
  ∀ (s : State) (n : PortIx), s.linkUp n = true →
    let x := s.port n
    (answers (.fillItem n) s fun t => t = s)
    ∧ (∀ next nak, nak.length ≤ 8 → answers (.ackItem n next nak) s fun t =>
      let y := t.port n
      (∀ r, r ∈ y.replay ↔ ∃ q ∈ x.replay, (q.seq - next).toNat < 2 ^ 19 ∧ r = if q.seq ∈ nak then { q with resend := q.resend + 1 } else q)
      ∧ (∀ (i : Fin 9) (c : Chan), i.val < 8 ∨ c.val < 3 → y.chans[i][c] = x.chans[i][c])
      ∧ (y.chans[8][3] = { x.chans[8][3] with occ := y.chans[8][3].occ } ∧ y.chans[8][3].occ ≤ x.chans[8][3].occ)
      ∧ y = { x with replay := y.replay, chans := y.chans } ∧ onlyPort n s t)
    ∧ (∀ (o : BitVec 3) (f : List (BitVec 32)) (c : Chan) (h : c.val < f.length), answers (.creditItem n o f) s fun t =>
      let k := x.chans[ownIx o][c]
      (t.port n).chans[ownIx o][c] = { k with occ := k.occ - (f[c.val] - k.freedSeen).toNat, freedSeen := f[c.val] }
      ∧ (∀ i : Fin 9, i ≠ ownIx o → (t.port n).chans[i] = x.chans[i]) ∧ (t.port n).creditAt = s.ns ∧ onlyPort n s t)
    ∧ (∀ (o : BitVec 3) (aseq : BitVec 20) (cc : List ChanCount) (c : Chan) (h : c.val < cc.length),
      let i := ownIx o
      let k := x.chans[i][c]
      let r := s.reserve n i c
      let agree : Bool := k.sent - BitVec.ofNat 32 (x.sentFrom i c aseq) - cc[c.val].freed == cc[c.val].occ.setWidth 32
      answers (.beaconItem n o aseq cc) s fun t =>
        let l := (t.port n).chans[i][c]
        l.off = (if agree then 0 else k.off + 1)
        ∧ l.w = (if agree ∨ k.off < 8 then k.w else max r (k.w - (r + s.shared n i) / 64))
        ∧ l.freedSeen = cc[c.val].freed ∧ l.occ = k.occ - (cc[c.val].freed - k.freedSeen).toNat ∧ (t.port n).creditAt = s.ns ∧ onlyPort n s t)
    ∧ (∀ (o : BitVec 3) (sqn next : BitVec 20) (cc : List (Option ChanCount)) (c : Chan) (k : ChanCount), s.inOrder n sqn false o = true →
      cc[c.val]? = some (some k) →
      answers (.resyncItem n o sqn next cc) s fun t =>
        let i := ownIx o
        let h := x.chans[i][c]
        let l := (t.port n).chans[i][c]
        let full := s.reserve n i c + s.shared n i
        (h.w < full → l.w = full ∧ l.off = 0 ∧ l.occ = k.occ.toNat + x.sentFrom i c next ∧ l.freedSeen = k.freed)
        ∧ (full ≤ h.w → l.w = h.w ∧ l.off = h.off ∧ l.occ = h.occ ∧ l.freedSeen = h.freedSeen)
        ∧ (t.port n).rxNext = x.rxNext + 1 ∧ onlyPort n s t)
    ∧ (∀ (sqn : BitVec 20) (i : PeerItem), s.inOrder n sqn true 7 = true →
      (∀ p, s.ofJob i.job = some p → s.self p = i.dst → answers (.peerItem n ⟨sqn, i⟩) s fun t =>
        t = { s with ports := s.ports.set n (s.tookItem n true 7), peerSeen := s.peerSeen + 1 })
      ∧ (s.ofJob i.job = none → s.transitOf i.job i.dst = none → answers (.peerItem n ⟨sqn, i⟩) s fun t =>
        t = { s with ports := s.ports.set n { s.tookItem n true 7 with discarded := x.discarded + 1 } }))
    ∧ (∀ ty, answers (.reservedItem n ty) s fun t => t.port n = { x with discarded := x.discarded + 1 } ∧ onlyPort n s t)

/-- R219, R221, R224, R232: what an UP port sends of its own: a CREDIT of one owner whose FREED has grown, an ACK with NEXT and the numbers
missing, a BEACON of every owner; an unacknowledged flit is sent again after its timeout; at a multiple of 20 ms of Heel time transit owners
are resynchronised by the exact counts, and only on UP ports does their traffic return. Where the specification leaves a point open, this
follows the model's choice of log 24. -/
def Obligations.ItemsAreSent : Prop :=
  (∀ (s : State) (n : PortIx), s.linkUp n = true →
    let x := s.port n
    (∀ o, answers (.creditSend n o) s fun t =>
      (x.grown (ownIx o) = true → (t.port n).qByp = x.qByp ++ [shortOut n ⟨2, false, o, false, 0, 0, x.creditBody (ownIx o)⟩]
        ∧ (t.port n).grown (ownIx o) = false ∧ t.port n = { x with qByp := (t.port n).qByp, chans := (t.port n).chans }
        ∧ (∀ (i : Fin 9) (c : Chan), (t.port n).chans[i][c] = { x.chans[i][c] with told := (t.port n).chans[i][c].told })
        ∧ (∀ i : Fin 9, i ≠ ownIx o → (t.port n).chans[i] = x.chans[i]) ∧ onlyPort n s t)
      ∧ (x.grown (ownIx o) = false → t = s))
    ∧ (answers (.ackSend n) s fun t =>
      (∃ body, t.port n = { x with qByp := x.qByp ++ [shortOut n ⟨1, false, 7, true, 0, 0, body⟩] }
        ∧ recField body 0 20 = x.rxNext.toNat ∧ recField body 20 4 = x.missing.length
        ∧ ∀ (j : Nat) (h : j < x.missing.length), recField body (24 + 20 * j) 20 = x.missing[j].toNat) ∧ onlyPort n s t)
    ∧ (answers (.beaconSend n) s fun t =>
      let owners := ((List.range 8).map (BitVec.ofNat 3)).filter fun o => (s.ownerAt n o).kind != 0
      let beacon (o : BitVec 3) : OutFlit := shortOut n ⟨3, false, o, false, 0, 0, s.beaconBody n (ownIx o)⟩
      t.port n = { x with qByp := x.qByp ++ owners.map beacon } ∧ onlyPort n s t)
    ∧ (∀ (sqn : BitVec 20) (r : ReplayEntry), x.replay.find? (fun r => r.seq == sqn) = some r → answers (.replayTimeout n sqn) s fun t =>
      t.port n = { x with replay := x.replay.map fun e => if e.seq = sqn then { e with resend := max 1 e.resend } else e }
      ∧ 65536 * (r.sentAt.toNat + x.rtt.toNat + 1000) ≤ t.up
      ∧ t = { s with ports := s.ports.set n (t.port n), up := t.up, heel := t.heel }))
  ∧ (∀ s : State, s.heel.state ≠ 0 → s.heel.slew = 0 → s.heel.holdRate = 0 → answers .transitBoundary s fun t =>
    t.heel.now.toNat % 1310720000000 = 0 ∧ s.up < t.up
    ∧ (∀ n, (t.port n).transitMark = t.ns ∧ ((t.port n).away ≠ (s.port n).away → (s.port n).state = 3))
    ∧ (∀ n w, (s.port n).state = 3 → (s.ownerAt n w).kind = 2 →
        let body := resyncBody (s.port n).rxNext ((List.finRange 4).map fun c =>
          some ⟨(s.port n).chans[ownIx w][c].freed, BitVec.ofNat 16 (s.heldBefore n (ownIx w) c)⟩)
        shortOut n ⟨8, true, w, false, 0, 0, body⟩ ∈ (t.port n).qByp)
    ∧ t = { s with ports := t.ports, up := t.up, heel := t.heel })

/-- R191, R235, R237, R239, R280: MQ_TAIL lets the requests behind it be read. One that keeps Table 9-7 and its limits takes a fresh transaction
identifier and is outstanding; one that breaks Table 9-7 completes with status 5 at once. MC_HEAD follows the completions. A write that the
function does not take does nothing but be answered as Unsupported Request, over a link that serves. A WRITE is read from memory where the
swaps under way have left it. A response ends its request and writes its completion, a READ's after its data; a request without one ends as
LINK_LOST at the timeout, and its identifier rests; a response for no outstanding request does nothing. Where the specification leaves a
point open, this follows the model's choice of logs 35, 58. -/
def Obligations.Vc2RequestsIssueAndComplete : Prop :=
  ((∀ (s : State) (p : PartIx) (w : BitVec 32) (via : Tlp), s.takes p via = true → w.toNat < 4096 → w.toNat < s.pnum p 0x61 → s.mcFree p = true →
     let v := (s.part p).vc2
     let head : BitVec 12 := BitVec.ofNat 12 ((v.mqHead.toNat + 1) % s.pnum p 0x61)
     v.mqHead ≠ w.setWidth 12 →
     (∀ (e : BitVec 512) (n : PortIx) (i : BitVec 12), s.badRequest p e = false → (mqOp e ≤ 2 → s.mapped p (mqLaddr e) (mqLen e) = true) →
       v.out.length < s.vc2Limit p → s.portTo p (mqDev e) = some n → s.freshTxid p = some i → s.damaged = [] →
       answers (.mqTail p ⟨w, via⟩ [e]) s fun t =>
         let s' := if mqOp e = 2 then s.swapsProgress p (mqLaddr e) else s
         (t.part p).vc2 = { v with mqTail := w.setWidth 12, mqHead := head, nextTxid := i + 1, out := v.out ++ [⟨i, e, none⟩] }
         ∧ t.out = s.out ∧ t.mem = s'.mem
         ∧ t = { s' with parts := s'.parts.set p { s'.part p with vc2 := (t.part p).vc2, keys := (t.part p).keys }, ports := t.ports, free := t.free })
     ∧ (∀ e : BitVec 512, s.badRequest p e = true → s.colsOf p ≠ [] → answers (.mqTail p ⟨w, via⟩ [e]) s fun t =>
         (t.part p).vc2.out = v.out ∧ (t.part p).vc2.mqHead = head ∧ (t.part p).vc2.mqTail = w.setWidth 12
         ∧ t.out = s.out ++ s.completionOut p (vc2Record 5 (vc2Tag e) (vc2Opid e) 0 0)
         ∧ t = { s with parts := s.parts.set p { s.part p with vc2 := (t.part p).vc2 }, out := t.out }))
   ∧ (∀ (s : State) (p : PartIx) (w : BitVec 32) (via : Tlp), s.takes p via = true → w.toNat < 4096 → w.toNat < s.pnum p 0x63 →
     (s.part p).vc2.kept = [] →
     let v := (s.part p).vc2
     let dist (a : Nat) : Nat := (a + s.pnum p 0x63 - v.mcHead.toNat) % s.pnum p 0x63
     dist w.toNat ≤ dist v.mcWrite.toNat →
     answers (.mcHead p ⟨w, via⟩) s fun t => t.part p = { s.part p with vc2 := { v with mcHead := w.setWidth 12 } } ∧ onlyPart p s t)
   ∧ (∀ (s : State) (p : PartIx) (w : BitVec 32) (es : List (BitVec 512)) (via : Tlp), s.takes p via = false →
     let refused (t : State) : Prop := t = if s.serves via.link then s.emit (.unsupported via.link (some p)) else s
     answers (.mqTail p ⟨w, via⟩ es) s refused ∧ answers (.mcHead p ⟨w, via⟩) s refused))
  ∧ (∀ (s : State) (p : PartIx), s.mcFree p = true →
     let v := (s.part p).vc2
     (∀ (r : Vc2Out) (q : Vc2Req), v.out.find? (fun q => q.txid == r.txid) = some q → s.damaged = [] →
       answers (.vc2Response p r) s fun t =>
         let w := (t.part p).vc2
         let ok := mqOp q.entry = 1 ∧ r.status = 0
         let s' := if ok then s.swapsProgress p (mqLaddr q.entry) else s
         w.out = v.out.filter (fun q => q.txid != r.txid)
         ∧ t.mem = (if ok then (s'.writeV p (mqLaddr q.entry) (r.data.take (mqLen q.entry))).mem else s.mem)
         ∧ t.out = s.out ++ s.completionOut p
             (vc2Record r.status.toNat (vc2Tag q.entry) (vc2Opid q.entry) r.result.toNat (if ok then 0 else r.rstatus.toNat))
         ∧ t = { s' with parts := s'.parts.set p { s'.part p with vc2 := w }, mem := t.mem, out := t.out })
     ∧ (∀ (i : BitVec 12) (q : Vc2Req) (sent : BitVec 64), v.out.find? (fun q => q.txid == i) = some q → q.sentAt = some sent →
       answers (.vc2Timeout p i) s fun t =>
         let w := (t.part p).vc2
         w.out = v.out.filter (fun q => q.txid != i) ∧ (i, t.ns) ∈ w.resting
         ∧ 65536 * (sent.toNat + 1000 * s.num 0x3400 0xC) ≤ t.up
         ∧ t.out = s.out ++ s.completionOut p (vc2Record 1 (vc2Tag q.entry) (vc2Opid q.entry) 0 0)
         ∧ t = { s with parts := s.parts.set p { s.part p with vc2 := w }, up := t.up, heel := t.heel, out := t.out })
     ∧ (∀ r : Vc2Out, v.out.find? (fun q => q.txid == r.txid) = none → answers (.vc2Response p r) s fun t => t = s))

/-- R236, R352: a request is applied in the partition that owns the range it came through, to memory as the swaps under way have left it. READ
returns the bytes; WRITE, FADD and CAS whose OPID is neither recorded nor STALE are applied once, record their outcome and answer with the
old word, or are UNMAPPED and record that; a recorded OPID is answered as before and applied to nothing. Stated where no granule is damaged.
Where the specification leaves a point open, this follows the model's choice of logs 35, 57. -/
def Obligations.Vc2TargetsApplyOnce : Prop :=
  ∀ (s : State) (p : PartIx) (r : Vc2In), s.localOf r.port r.owner = some p → s.hasPort r.port = true → s.damaged = [] →
    let a := r.raddr.toNat
    let s' := s.swapsProgress p a
    let v := (s.part p).vc2
    let old : BitVec 64 := s'.word64 p a
    let fresh := v.recorded r.src r.opid = none ∧ r.opid ≠ 0 ∧ v.stale r.src r.opid = false
    let noted (t : State) (st : BitVec 8) (res : BitVec 64) : State := t.modPart p fun x => { x with vc2 := x.vc2.keep ⟨r.src, r.opid, st, res⟩ }
    let keep (t : State) (res : BitVec 64) : State := noted t 0 res
    (lenOk 1 a r.len.toNat = true → s.mapped p a r.len.toNat = true → answers (.vc2Read r) s fun t =>
      t = s'.answerVc2 p r ⟨0, 0, 0, s'.readV p a r.len.toNat⟩ ∧ t.mem = s'.mem ∧ (t.part p).vc2 = v)
    ∧ (fresh → lenOk 2 a r.len.toNat = true → s.mapped p a r.len.toNat = true → r.data.length = r.len.toNat →
      answers (.vc2Write r) s fun t =>
        t = (keep (s'.writeV p a r.data) 0).answerVc2 p r ⟨0, 0, 0, []⟩ ∧ t.mem = (s'.writeV p a r.data).mem
        ∧ (t.part p).vc2.recorded r.src r.opid = some ⟨r.src, r.opid, 0, 0⟩)
    ∧ (fresh → r.len = 8 → a % 8 = 0 → s.mapped p a 8 = true →
      answers (.vc2Fadd r) s (fun t =>
        t = (keep (s'.writeV p a (leBytes 8 (old + r.operand1).toNat)) old).answerVc2 p r ⟨0, old, 0, []⟩
        ∧ (t.part p).vc2.recorded r.src r.opid = some ⟨r.src, r.opid, 0, old⟩)
      ∧ answers (.vc2Cas r) s (fun t =>
        t = (keep (if old = r.operand1 then s'.writeV p a (leBytes 8 r.operand2.toNat) else s') old).answerVc2 p r ⟨0, old, 0, []⟩
        ∧ (t.part p).vc2.recorded r.src r.opid = some ⟨r.src, r.opid, 0, old⟩))
    ∧ (fresh → lenOk 2 a r.len.toNat = true → s.mapped p a r.len.toNat = false → answers (.vc2Write r) s fun t =>
        t = (noted s' 2 0).answerVc2 p r ⟨2, 0, 0, []⟩ ∧ (t.part p).vc2.recorded r.src r.opid = some ⟨r.src, r.opid, 2, 0⟩)
    ∧ (fresh → r.len = 8 → a % 8 = 0 → s.mapped p a 8 = false → ∀ i ∈ [Instr.vc2Fadd r, .vc2Cas r], answers i s fun t =>
        t = (noted s' 2 0).answerVc2 p r ⟨2, 0, 0, []⟩ ∧ (t.part p).vc2.recorded r.src r.opid = some ⟨r.src, r.opid, 2, 0⟩)
    ∧ (∀ d i, v.recorded r.src r.opid = some d → i ∈ [Instr.vc2Write r, .vc2Fadd r, .vc2Cas r] →
      answers i s fun t => t = s'.answerVc2 p r ⟨d.status.toNat, d.result, 0, []⟩ ∧ t.mem = s'.mem ∧ (t.part p).vc2 = v)
    ∧ (answers (.vc2Query r) s fun t =>
      (∀ d, v.recorded r.src r.opid = some d → t = s'.answerVc2 p r ⟨6, d.result, d.status.toNat, []⟩)
      ∧ (v.recorded r.src r.opid = none → (v.first r.src).isSome = true → v.stale r.src r.opid = false → t = s'.answerVc2 p r (.of 7))
      ∧ (v.recorded r.src r.opid = none → v.first r.src = none → t = s'.answerVc2 p r (.of 3))
      ∧ t.mem = s'.mem ∧ (t.part p).vc2 = v)

/-! Heel time (10) -/

/-- R244 to R247: a child starts an exchange under the next number on the port of its time parent; one that is still open breaks the run of good
exchanges. A parent answers a REQ of its own domain with the time of its receipt, and one of another domain not at all. T1 and T3 are
stamped as the items leave. The passage of time alone: a silent parent is exchanged for the backup that is there; LOCKED without a response
becomes HOLDOVER after 100 µs and keeps its rate, and HOLDOVER becomes LOST with FSW bit 42 at its limit; a wrap takes Heel time past 2^64
and counts in the epoch. Where the specification leaves a point open, this follows the model's choice of logs 2, 65. -/
def Obligations.HeelExchangesAndTime : Prop :=
  ((∀ (s : State) (n : PortIx), s.timePort = some n → s.isRoot = false → s.num 0x8000 6 ≠ 0 → s.linkUp n = true →
     answers .heelExchange s fun t =>
       let h := s.heel
       t.heel = { h with xseq := h.xseq + 1, t1 := some h.now, good := if h.t1.isSome then 0 else h.good }
       ∧ t.port n = { s.port n with qByp := (s.port n).qByp ++ [shortOut n ⟨4, false, 7, true, 0, 0,
           heelBody false ⟨0, BitVec.ofNat 32 (s.num 0x8000 6), h.xseq + 1, h.now, 0, 0, h.state == 2, 0⟩⟩] }
       ∧ t = { s with heel := t.heel, ports := s.ports.set n (t.port n) })
   ∧ (∀ (s : State) (n : PortIx) (r : HeelItem), s.linkUp n = true →
     (s.inDomain r.domain = true → answers (.heelReq n r) s fun t =>
       let h := s.heel
       t.port n = { s.port n with qByp := (s.port n).qByp ++ [shortOut n ⟨4, false, 7, true, 0, 0,
           heelBody true ⟨if s.isRoot then 0 else h.hops, r.domain, r.sqn, r.t1, h.now - Config.rxDelay n (s.port n).upSince, h.now,
             h.state == 2 || (s.isRoot && h.state != 0), h.epoch⟩⟩] }
       ∧ onlyPort n s t)
     ∧ (s.inDomain r.domain = false → answers (.heelReq n r) s fun t => t = s)))
  ∧ ((∀ (s : State) (n : PortIx), s.timePort = some n → s.isRoot = false → s.num 0x8000 6 ≠ 0 →
     answers .heelParentTimeout s fun t =>
       t.heel.onBackup = (if s.num 0x8000 (if s.heel.onBackup then 4 else 5) < 24 then !s.heel.onBackup else s.heel.onBackup)
       ∧ 65536 * (s.heel.lastValid.toNat + 20000) ≤ t.up ∧ t.heel.state = s.heel.state
       ∧ (∀ p, t.part p = { s.part p with reported := (t.part p).reported }) ∧ t.cells = s.cells)
   ∧ (∀ s : State, s.heel.state = 2 → s.isRoot = false → answers .holdoverEntry s fun t =>
       t.heel.state = 3 ∧ t.heel.holdSince = t.ns ∧ t.heel.slew = 0
       ∧ (s.heel.slew = 0 → t.heel.holdRate = 0) ∧ 65536 * (s.heel.lastValid.toNat + 100000) ≤ t.up ∧ s.up ≤ t.up
       ∧ t = { s with heel := t.heel, up := t.up })
   ∧ (∀ s : State, s.heel.state = 3 → answers .holdoverExpiry s fun t =>
       t.heel.state = 4 ∧ latched 42 t ∧ 65536 * (s.heel.holdSince.toNat + 1000 * s.num 0x8000 0x0A) ≤ t.up
       ∧ t.parts = s.parts ∧ t.cells = s.cells ∧ t.ports = s.ports)
   ∧ (∀ s : State, s.heel.state ≠ 0 → s.heel.holdRate = 0 ∨ (s.heel.slew = 0 ∧ s.heel.holdRate.natAbs ≤ 1) → answers .heelWrap s fun t =>
       t.heel.epoch = s.heel.epoch + 1
       ∧ (s.heel.slew = 0 → s.heel.holdRate = 0 → t.heel = { s.heel with now := 0, epoch := s.heel.epoch + 1 })
       ∧ t = { s with heel := t.heel, up := t.up }))

/-- R243, R246, R247, Table 10-2: a RESP that answers the exchange, from a LOCKED sender and with a delay of 0 to 12 µs, takes its offset as
half of the difference of the two legs; T4 is the time of receipt less the port's receive delay. UNSYNCED steps into ACQUIRING; ACQUIRING,
LOCKED and a HOLDOVER within 2 ns take the offset by rate, the 64th good exchange in a row locking. An exchange of another number changes no
more than the time that has passed. Where the specification leaves a point open, this follows the model's choice of log 26. -/
def Obligations.HeelResponsesSetTime : Prop :=
  ∀ (s : State) (n : PortIx) (r : HeelItem) (t1 rx : BitVec 64), s.heel.t1 = some t1 → s.isRoot = false → s.timePort = some n →
    s.linkUp n = true →
    let h := (s.passToHeel rx).heel
    let t4 := rx - Config.rxDelay n (s.port n).upSince
    let delay := half ((t4 - t1) - (r.t3 - r.t2))
    let offset := half ((r.t2 - t1) - (t4 - r.t3))
    (s.heel.state ≠ 0 → s.heel.slew = 0 → s.heel.holdRate = 0 → (rx - s.heel.now).toNat < 2 ^ 63 → h.now = rx)
    ∧ (s.inDomain r.domain = true → r.sqn = s.heel.xseq → r.locked = true → 0 ≤ delay.toInt → delay.toInt ≤ 12000 * 65536 →
      answers (.heelResp n r rx) s fun t =>
        let g := t.heel
        g.t1 = none ∧ g.offset = offset ∧ g.hops = r.hops + 1 ∧ g.lastValid = t.ns
        ∧ (s.heel.state = 0 → g.state = 1 ∧ g.now = rx + offset ∧ g.epoch = r.epoch)
        ∧ (s.heel.state = 1 → g.slew = offset ∧ g.now = h.now ∧ (g.state = 1 ∨ g.state = 2)
            ∧ (g.state = 2 ↔ offset.toInt.natAbs ≤ 16384 ∧ 63 ≤ s.heel.good))
        ∧ (s.heel.state = 2 → g.slew = offset ∧ g.now = h.now ∧ g.state = 2)
        ∧ (s.heel.state = 3 → g.now = h.now ∧ (g.state = 2 ↔ offset.toInt.natAbs ≤ 2 * 65536) ∧ (g.state = 2 → g.slew = offset ∧ g.holdRate = 0))
        ∧ (s.heel.state = 4 → s.noPlan = true → g.state = 1 ∧ g.now = h.now + offset)
        ∧ t = { s with heel := g, up := t.up })
    ∧ (r.sqn ≠ s.heel.xseq → answers (.heelResp n r rx) s fun t => t = s.passToHeel rx)

/-! Basnus (12) -/

/-- R291, R293, R294, R295: an OPEN on a path of its role is answered by a CHALLENGE under a SID that is not 0 and that no session and no
handshake has; the segments of an ACCEPT are joined while they keep order and TOTAL, else answered BAD_LEN; an ACCEPT whose signature
verifies under the role's key opens the session with the keys of the handshake, unless 64 are open, when it is answered BUSY (log 28);
CLOSE, 60 s of silence, and 1 s for a handshake end them, a pending commit staying pending. Where the specification leaves a point open,
this follows the model's choice of log 28. -/
def Obligations.SessionsOpenAndClose : Prop :=
  (∀ (s : State) (f : Frame), s.start.stage = 5 → s.hears f.path = true → wellFramed f = true → f.kind = 1 → f.data.length = 40 →
    let role : BitVec 4 := BitVec.ofNat 4 (recField f.data 0 4)
    ∀ part : PartIx, part.val = recField f.data 4 4 → roleOnPath role part f.path = true → (role = roleT → part.val < s.partNo.partitions) →
    s.sessions.length < 64 → s.handshakes.length < 8 →
    answers (.openFrame f) s fun t =>
      let sid := t.lastSid
      let nm := leBytes 32 (Config.entropy s.draws).toNat
      let ek := Config.mlKemEk (Config.entropy (s.draws + 1))
      let h1 := Config.sha3_512 (f.data ++ nm ++ ek)
      let sig := Config.mlDsaSign identitySeed (leBytes 64 h1.toNat) "CLR BASNUS MODULE"
      sid ≠ 0 ∧ (∀ x ∈ s.sessions, x.sid ≠ sid) ∧ (∀ h ∈ s.handshakes, h.sid ≠ sid)
      ∧ t = ({ s with lastSid := sid, draws := s.draws + 2,
                      handshakes := s.handshakes ++ [(⟨sid, role, part, f.path, h1, s.draws + 1, [], 0, s.ns⟩ : Handshake)] }).answerBody f.path 2 sid (nm ++ ek ++ sig))
  ∧ (∀ (s : State) (f : Frame) (h : Handshake), s.start.stage = 5 → s.hears f.path = true → wellFramed f = true → f.kind = 3 →
    s.handshakes.find? (fun h => h.sid == f.sid && h.reaches f.path) = some h →
    let keep (b : Bytes) : List Handshake := s.handshakes.map fun g => if g.sid = h.sid then { g with body := b, total := f.total } else g
    (joinSegment h.body h.total f = none → answers (.acceptFrame f) s fun t => t = ({ s with handshakes := keep [] }).refuseOpen f stBadLen)
    ∧ (∀ body, joinSegment h.body h.total f = some body →
      (f.more = true → answers (.acceptFrame f) s fun t => t = { s with handshakes := keep body })
      ∧ (f.more = false → body.length ≠ f.total.toNat →
        answers (.acceptFrame f) s fun t => t = ({ s with handshakes := keep [] }).refuseOpen f stBadLen)
      ∧ (f.more = false → body.length = f.total.toNat → body.length = 6195 → s.roleKey h.role h.part ≠ [] →
        let k := sessionKeys h (body.take 1568)
        let verified := Config.mlDsaVerify (s.roleKey h.role h.part) (leBytes 64 k.1.toNat) "CLR BASNUS CLIENT" (body.drop 1568)
        let rest := s.handshakes.filter (fun g => g.sid != h.sid)
        answers (.acceptFrame f) s fun t =>
          (verified = true → 64 ≤ s.sessions.length →
            t = ({ s with handshakes := rest }).answer (moduleFrame f.path 0x11 0 0 0 stBusy 0 0 false 0 0 []))
          ∧ (verified = true → s.sessions.length < 64 → ∃ (x : Session) (o : Frame), t = ({ s with handshakes := rest, sessions := s.sessions ++ [x] }).answer o
            ∧ o.path = f.path ∧ o.kind = 4 ∧ o.sid = h.sid ∧ o.tag = frameTag x.km o
            ∧ x.sid = h.sid ∧ x.role = h.role ∧ x.part = h.part ∧ x.path = f.path
            ∧ x.bootstrap = false ∧ x.kc = k.2.extractLsb' 0 256 ∧ x.km = k.2.extractLsb' 256 256 ∧ x.seqMax = 0 ∧ x.kept = [] ∧ x.staging = none
            ∧ x.notify = false)
          ∧ (verified = false → t = { s with handshakes := rest }))))
  ∧ (∀ (s : State) (f : Frame) (x : Session), s.start.stage = 5 → s.hears f.path = true → f.kind = 0x1F → s.authentic f = some x →
    answers (.closeFrame f) s fun t => t = s.closeSession x.sid ∧ ∀ y ∈ t.sessions, y.sid ≠ x.sid)
  ∧ (∀ (s : State) (x : Session), s.session x.sid = some x →
    answers (.idleTimeout x.sid) s fun t =>
      (∀ y, y ∈ t.sessions ↔ y ∈ s.sessions ∧ y.sid ≠ x.sid) ∧ 65536 * (x.seen.toNat + 60000000000) ≤ t.up
      ∧ (∀ g p, x.staging = some g → g.state = 3 → g.on = some p → (⟨g.step, p, g.objs, x.role, g.order⟩ : OrphanCommit) ∈ t.orphans)
      ∧ (∀ o ∈ s.orphans, o ∈ t.orphans) ∧ t.dict = s.dict ∧ t.parts = s.parts)
  ∧ (∀ (s : State) (h : Handshake), s.handshakes.find? (fun g => g.sid == h.sid) = some h →
    answers (.handshakeTimeout h.sid) s fun t =>
      t.handshakes = s.handshakes.filter (fun g => g.sid != h.sid) ∧ 65536 * (h.since.toNat + 1000000000) ≤ t.up
      ∧ t = { s with handshakes := t.handshakes, up := t.up, heel := t.heel })

/-- R280, R290, R291, R292, R296, R299, R307: a READ is answered from OFFSET 0 with as much of the value as its LEN and the path take, or with
the status that denies it, and changes nothing but the session; an old SEQ is answered SEQ_STALE, or as before if its answer is kept; a
frame that is not authentic only counts; a write of the scent key or counter, and one of a staged object, take their value; notices go until
acknowledged; a doorbell while DONE is 0 is ignored with OVERRUN, one of a physical function that is not there is ignored, and one that a
virtual function does not take does nothing but be answered as Unsupported Request, over a link that serves. A Tenant's selector for
diagnosis is its own (log 102). Where the specification leaves a point open, this follows the model's choice of logs 27, 29, 51, 79, 80,
102. -/
def Obligations.RequestsAreAnswered : Prop :=
  (∀ (s : State) (f : Frame) (x : Session) (i : Instr), s.requested f x → f.op = 1 → f.offset = 0 →
    (i = .basnusRead f ∧ ownRead f = false) ∨ (i = .diagData f ∧ f.index = 0xF010 ∧ f.sub = 2) ∨ (i = .scentOut f ∧ f.index = 0xF020 ∧ f.sub = 3) →
    let r := (s.noted f x).readObj x f
    (r.status = stOk → answers i s fun t =>
      let d := r.value.take (min f.len.toNat (pathCap f.path))
      ∃ ss, t = ({ s with sessions := ss }).respond x f stOk 0 r.value.length (decide (d.length < r.value.length)) d)
    ∧ (r.status ≠ stOk → answers i s fun t => ∃ ss, t = ({ s with sessions := ss }).say x f r.status))
  ∧ (∀ (s : State) (f : Frame) (x : Session), s.isReady = true → s.hears f.path = true → f.kind = 0x10 → s.authentic f = some x →
    f.seq ≤ x.seqMax → f.op = 1 → ownRead f = false →
    answers (.basnusRead f) s fun t =>
      let u := s.modSession x.sid fun y => { y with seen := s.ns }
      (∀ k, x.kept.find? (fun k => sameFrame k.request f) = some k → t = u.answer { k.response with path := f.path })
      ∧ (x.kept.find? (fun k => sameFrame k.request f) = none → ∃ r, t = u.answer r ∧ r.status = stSeqStale ∧ r.tag = frameTag x.km r))
  ∧ (∀ (s : State) (f : Frame), s.isReady = true → s.hears f.path = true → s.authentic f = none → ownRead f = false → f.op = 1 →
    answers (.basnusRead f) s fun t => t = { s with authFail := s.authFail + 1 })
  ∧ (∀ (s : State) (f : Frame) (x : Session),
    (s.written f x 0xF020 1 → answers (.basnusWrite f) s fun t =>
      t = ({ s.noted f x with scentKey := BitVec.ofNat 128 (leNat f.data) }).wrote x f)
    ∧ (s.written f x 0xF020 2 → answers (.basnusWrite f) s fun t =>
      t = ({ s.noted f x with scentCtr := BitVec.ofNat 128 (leNat f.data) }).wrote x f)
    ∧ (s.written f x 0xF010 1 → recField f.data 12 4 ≤ 10 → recField f.data 0 4 < s.partNo.partitions →
      (x.role = roleT → recField f.data 0 4 = x.part.val) → answers (.basnusWrite f) s fun t =>
      let w : BitVec 64 := BitVec.ofNat 64 (leNat f.data)
      let u := s.noted f x
      t = (if x.role = roleT then u.modPart x.part fun y => { y with diagSel := w } else { u with diagSel := w }).wrote x f)
    ∧ (∀ g, s.requested f x → f.op = 2 → f.more = false → f.offset = 0 → f.total.toNat = f.data.length → x.staging = some g → g.state = 1 →
      isStaged f.index.toNat f.sub.toNat = true → (s.noted f x).allowWrite x f = stOk →
      (stageObj ⟨f.index, f.sub, f.data⟩ g.objs).length ≤ 256 → stagedBytes (stageObj ⟨f.index, f.sub, f.data⟩ g.objs) ≤ 1048576 →
      answers (.basnusWrite f) s fun t =>
        t = ((s.noted f x).modStaging x.sid fun _ => { g with objs := stageObj ⟨f.index, f.sub, f.data⟩ g.objs }).wrote x f))
  ∧ (∀ (s : State) (f : Frame) (x : Session), s.start.stage = 5 → s.hears f.path = true → f.kind = 0x13 → s.authentic f = some x →
    answers (.noticeAck f) s fun t =>
      t = s.modSession x.sid fun y => { y with seen := s.ns, notices := y.notices.filter fun n => n.seq != f.seq })
  ∧ (∀ (s : State) (x : Session), s.session x.sid = some x → x.notify = true →
    answers (.noticeResend x.sid) s fun t => t = x.notices.foldl (fun s n => s.sendNotice x n) s)
  ∧ (∀ (s : State) (path : Path) (b : Fin 18) (len : BitVec 32) (via : Tlp), boxOf path = some b →
    let there : Bool := match path with
      | .pf l => decide (via.link = l) && s.hasPhysical l
      | .vf p => s.takes p via
      | .mgmt _ => false
    (there = true → s.start.stage = 5 →
      (∀ f, s.mailboxes[b].done = false → answers (.mbDoorbell path ⟨len, via⟩ f) s fun t =>
        t = { s with mailboxes := s.mailboxes.set b { s.mailboxes[b] with overrun := true } })
      ∧ (s.mailboxes[b].done = true → answers (.mbDoorbell path ⟨len, via⟩ none) s fun t =>
        t = { s with authFail := s.authFail + 1, mailboxes := s.mailboxes.set b ⟨true, false, 0, none⟩ })
      ∧ (∀ f : Frame, s.mailboxes[b].done = true → f.path = path → f.kind = 0x10 → f.op = 1 →
        len.toNat % 8192 = 64 + f.data.length + f.extra.length →
        answers (.mbDoorbell path ⟨len, via⟩ (some f)) s fun t =>
          let u := { s with mailboxes := s.mailboxes.set b { s.mailboxes[b] with done := false, overrun := false } }
          t = (u.serve f none).settleBox path ∧ t.mailboxes[b].done = true))
    ∧ (∀ l, path = .pf l → there = false → ∀ f, answers (.mbDoorbell path ⟨len, via⟩ f) s fun t => t = s)
    ∧ (∀ p, path = .vf p → there = false → ∀ f, answers (.mbDoorbell path ⟨len, via⟩ f) s fun t =>
      t = if s.serves via.link then s.emit (.unsupported via.link (some p)) else s))

/-- R301 to R306: a staging session opens, its set is checked and reserved or refused, takes effect at once where no partition of it runs and
otherwise stays pending for the step it names, and is aborted before that step's boundary processing. Where the specification leaves a point
open, this follows the model's choice of logs 34, 50. -/
def Obligations.StagingSessionsCommit : Prop :=
  ∀ (s : State) (f : Frame) (x : Session),
    let u := s.noted f x
    (s.written f x 0x1100 1 → x.staging = none → leNat f.data = 1 → (u.sessions.filter fun y => y.staging.isSome).length < 16 →
      answers (.stgOpen f) s fun t => t = (u.modSession x.sid fun y => { y with staging := some Staging.opened }).wrote x f)
    ∧ (∀ g, x.staging = some g →
      (s.written f x 0x1100 2 → leNat f.data = 1 → g.state ≠ 3 → g.state ≠ 4 →
        (u.checkSet g.objs none x.role = none → answers (.stgCheck f) s fun t =>
          t = (({ u with checks := u.checks + 1 }).modStaging x.sid fun g => { g with
            state := 2, report := 0, reserved := true, order := u.checks + 1, core := x.core }).wrote x f)
        ∧ (∀ e, u.checkSet g.objs none x.role = some e → answers (.stgCheck f) s fun t =>
          t = (u.modStaging x.sid fun g => { g with
            state := 1, report := checkReport x.role x.part (some e) (BitVec.allOnes 64), reserved := false }).say x f stRefused))
      ∧ (s.written f x 0x1100 3 → g.state = 2 → u.checkSet g.objs none x.role = none → u.conflict x.sid g = false →
        (u.running g.objs = [] → (∀ p, u.clockOf g = some p → (u.part p).busy = false) → answers (.stgCommit f) s fun t =>
          t = (((u.modStaging x.sid fun g => g.effected (BitVec.allOnes 64) u.heelNow).applyNow g.objs)).wrote x f)
        ∧ (∀ p, u.running g.objs = [p] → u.clockOf g = some p → BitVec.ofNat 64 (leNat f.data) ≠ BitVec.allOnes 64 →
          u.hasBegun p (BitVec.ofNat 64 (leNat f.data)) = false → answers (.stgCommit f) s fun t =>
          t = (u.modStaging x.sid fun g => { g with state := 3, step := BitVec.ofNat 64 (leNat f.data), on := some p }).wrote x f)
        ∧ (∀ p, u.running g.objs = [p] → u.clockOf g = some p → u.hasBegun p (BitVec.ofNat 64 (leNat f.data)) = true →
          answers (.stgCommit f) s fun t => t = u.say x f stTooLate))
      ∧ (∀ p, s.written f x 0x1100 5 → leNat f.data = 1 → g.state = 3 → g.on = some p →
        (u.hasBegun p g.step = false → answers (.stgAbort f) s fun t =>
          t = (u.modStaging x.sid fun g => { g with state := 6, reserved := false }).wrote x f)
        ∧ (u.hasBegun p g.step = true → answers (.stgAbort f) s fun t => t = u.say x f stTooLate)))

/-- R306: a write to STG_ABORT withdraws a pending commit, which shows STG_STATE 6 and holds no reservation any more, until its clock partition
begins boundary processing before the commit's step; after that it is answered TOO_LATE and changes nothing of the commit. -/
def Obligations.AbortsWithdrawPendingCommits : Prop :=
  ∀ (s : State) (f : Frame) (x : Session) (g : Staging) (p : PartIx), s.written f x 0x1100 5 → leNat f.data = 1 →
    x.staging = some g → g.state = 3 → g.on = some p →
    let u := s.noted f x
    (u.hasBegun p g.step = false → answers (.stgAbort f) s fun t =>
      (∀ y, t.session x.sid = some y → ∃ h, y.staging = some h ∧ h.state = 6 ∧ h.reserved = false ∧ h.objs = g.objs)
      ∧ t = (u.modStaging x.sid fun h => { h with state := 6, reserved := false }).wrote x f)
    ∧ (u.hasBegun p g.step = true → answers (.stgAbort f) s fun t => t = u.say x f stTooLate)

/-- R145, R190, R198, R264, R270, R309, R343, Table 10-7: what the writes of PLAN_IMAGE, SWAP, WLOAD, CAPTURE, VERDICT, SELF_TEST and ATT_REQ
begin, and how a plan load and a self-test end: a plan that passes every check is placed and loaded, one that does not leaves its status and
changes no memory; the audit of a capture whose seeds differ is refused (log 75); a self-test leaves every cell at zero. Where the
specification leaves a point open, this follows the model's choice of logs 20, 38, 39, 74, 75. -/
def Obligations.OrdersTakeEffect : Prop :=
  (∀ (s : State) (f : Frame) (x : Session),
    let u := s.noted f x
    let v := f.data
    (∀ p, partOfIndex f.index.toNat = some p →
      (s.written f x 0x2000 0x34 → (u.part p).load = none → (u.part p).oldPlan = none → (u.part p).partState = 1 →
        answers (.planImage f) s fun t =>
          t = ((u.setObj (0x2000 + p.val) 0x34 v).modPart p fun y => { y with
            load := some ⟨BitVec.ofNat 64 (recField v 0 64), BitVec.ofNat 64 (recField v 64 64)⟩, loadStatus := 0xFE }).wrote x f)
      ∧ (∀ i : Fin 2, i.val = recField v 0 1 → s.written f x 0x2000 0x53 → recField v 1 31 = 0 → recField v 64 64 ≠ 0 →
        recField v 64 64 ≤ (u.region p (rgModel i)).size → 2097152 * recField v 32 32 + recField v 64 64 ≤ (u.region p rgLibrary).size →
        u.slotBusy p i = false → u.libraryBusy p (2097152 * recField v 32 32) (recField v 64 64) = false → (u.part p).stepping = true →
        answers (.swapModel f) s fun t =>
          t = ((u.modPart p fun y => { y with swaps := y.swaps ++ [⟨i.val == 1, (u.part p).stepNow, BitVec.ofNat 64 (recField v 32 32),
            BitVec.ofNat 64 (recField v 64 64), false, false, 0⟩] }).setObj (0x2000 + p.val) 0x53 v).wrote x f)
      ∧ (∀ m : Bytes, (∃ b, boxOf f.path = some b) → s.written f x 0x2000 0x55 → (∃ d, u.ingestEntry p = some d ∧ d.fetch = true) →
        s.faults.muzzle = false → m.length = recField v 64 64 →
        answers (.wload f (some m)) s fun t => t = ((u.setObj (0x2000 + p.val) 0x55 v).startIngest p m).wrote x f)
      ∧ (∀ i, s.written f x 0x2000 0x7A → (u.part p).images.find? (fun i => i.step == BitVec.ofNat 64 (recField v 128 64)) = some i →
        (u.captureOf p i).length ≤ recField v 64 64 → s.faults.muzzle = false →
        (BitVec.ofNat 64 (recField v 128 64) + 1 - (u.part p).stepCommitted).toNat ≤ 2 →
        answers (.capture f) s fun t =>
          t = ((u.setObj (0x2000 + p.val) 0x7A v).writeHost p (BitVec.ofNat 64 (recField v 0 64)) (u.captureOf p i)).wrote x f))
    ∧ (s.written f x 0x8000 0x21 → recField v 48 16 = 0 → recField v 46 2 ≤ 1 → answers (.verdict f) s fun t =>
      t = ({ u with openReports := u.openReports.filter fun r =>
        !(r.job.toNat == recField v 0 32 && r.suspect.toNat == recField v 32 14) }).wrote x f)
    ∧ (s.written f x 0x8000 0x22 → leNat v = 1 → (∀ p, (s.part p).busy = false) → answers (.selfTest f) s fun t =>
      t = ({ u with selfVerdict := 1 }).wrote x f)
    ∧ (s.written f x 0x7000 0x30 → x.role ≠ roleT → recField v 261 123 = 0 →
      (recField v 256 8 / 16 % 2 = 1 → recField v 256 8 % 16 < s.partNo.partitions) → answers (.attReq f) s fun t =>
      t = (u.modSession x.sid fun y => { y with report := u.attest (recField v 256 8) (v.take 32) }).wrote x f))
  ∧ (∀ (s : State) (p : PartIx) (job : LoadJob) (b : Bytes), (s.part p).load = some job → b.length = job.len.toNat →
    s.faults.muzzle = false → ∀ audit : Option Bytes,
    (s.auditRefused p audit = true → answers (.planLoadDone p ⟨some b, audit⟩) s fun t =>
      t.part p = { s.part p with load := none, loadStatus := 0x0C, loadWhere := 0 } ∧ onlyPart p s t)
    ∧ (s.auditRefused p audit = false → answers (.planLoadDone p ⟨some b, audit⟩) s fun t =>
      (∀ pl code const, s.loadPlan p b = .ok (pl, code, const) →
        (t.part p).load = none ∧ (t.part p).loadStatus = 0 ∧ (t.part p).loadedPlan = some pl
        ∧ (s.damaged = [] → t.part p = { s.part p with load := none, loadStatus := 0, loadedPlan := some pl }
          ∧ t.mem = ((s.writeV p (halfOf (s.region p rgPlan) pl.upper).1 code).writeV p (halfOf (s.region p rgConst) pl.upper).1 const).mem
          ∧ onlyPartAndMem p s t))
      ∧ (∀ e, s.loadPlan p b = .error e →
        t.part p = { s.part p with load := none, loadStatus := (t.part p).loadStatus, loadWhere := (t.part p).loadWhere }
        ∧ (t.part p).loadStatus.toNat % 256 = e.status % 256 ∧ onlyPart p s t)))
  ∧ (∀ (s : State) (pass : Bool), s.selfVerdict = 1 → answers (.selfTestDone pass) s fun t =>
    t.selfVerdict = (if pass then 2 else 3) ∧ t.selfTime = s.heelNow ∧ (∀ c, t.cell c = Cell.cold)
    ∧ (∀ p, t.part p = if (s.part p).frozen.isSome then { s.part p with diagLost := true } else s.part p)
    ∧ t = { s with selfVerdict := t.selfVerdict, selfTime := t.selfTime, cells := t.cells, parts := t.parts })

/-! Faults and firmware (13, 14) -/

/-- R314, R315, R317, R318, R319, R324: an event latches its bit, counts, and is FIRST_ERROR if none is held; a column's stops the partition
that owns the column, one of the die-to-die bridge or the sequencer every busy partition in its way, one of a link's TLPs its functions, one
of the retriever fails the partition's ingests, one of the time-stamp unit marks the running partitions' arrivals, one over a load's hash
discards the load. A grace timer that runs out raises the level of its bit by one: level 1 fences the ACTIVE partitions of its scope, level
2 every one and sets the device Muzzle with bit 63, level 3 also pulls FAULT_N low. A watchdog of a core that runs latches bit 44 and closes
its core's sessions. Where the specification leaves a point open, this follows the model's choice of logs 53, 54, 59. -/
def Obligations.FaultsLatchAndEscalate : Prop :=
  (∀ (s : State) (e : ErrEvent),
    (s.partNo.fswBit e.bit.val = true → s.collects = true → answers (.faultLatch e) s fun t =>
      latched e.bit t ∧ t.faults.counts[e.bit] = satInc s.faults.counts[e.bit]
      ∧ (s.faults.firstError.getLsbD 0 = true → t.faults.firstError = s.faults.firstError)
      ∧ ((e.bit.val = 39 → s.damaged = []) → (∀ b, b ≠ e.bit → t.faults.counts[b] = s.faults.counts[b])
        ∧ (s.faults.firstError.getLsbD 0 = false →
          t.faults.firstError.getLsbD 0 = true ∧ t.faults.firstError.extractLsb' 8 8 = BitVec.ofNat 8 e.bit.val))
      ∧ (s.faults.fsw.getLsbD e.bit.val = false → t.faults.acked.getLsbD e.bit.val = false)
      ∧ (e.bit.val = 36 → t.power = { s.power with dead := s.power.dead ||| BitVec.twoPow 2 (e.inst.toNat % 2) })
      ∧ (e.bit.val = 37 → ∀ p, s.bothDies p = true → (s.part p).busy = true → (t.part p).frozen.isSome = true)
      ∧ (e.bit.val = 38 → e.whole = true → ∀ p, (s.part p).busy = true → (t.part p).frozen.isSome = true)
      ∧ (e.bit.val < 16 → ∀ p, s.ownsCol p e.bit.val = true → (s.part p).running = true → (t.part p).frozen.isSome = true)
      ∧ (e.bit.val = 42 → ∀ p, (s.part p).running = true → (t.part p).stampBad = true)
      ∧ (∀ p, e.part = some p → (e.bit.val = 39 → ∀ g ∈ (t.part p).ingests, g.done = true)
          ∧ (e.bit.val = 44 → e.detail = 2 → (t.part p).loadStatus = 0xFF ∧ (t.part p).loadedPlan = none ∧ (t.part p).load = none))
      ∧ (e.bit.val ≠ 39 → t.cells = s.cells ∧ t.mem = s.mem) ∧ t.dict = s.dict ∧ t.up = s.up)
    ∧ (s.partNo.fswBit e.bit.val = false ∨ s.collects = false → answers (.faultLatch e) s fun t => t = s))
  ∧ (∀ (s : State) (b : Fin 50) (ends : BitVec 64), s.faults.timer[b] = some ends →
    let l := s.faults.level[b].toNat
    l < s.escMax b.val → answers (.graceExpiry b) s fun t =>
      t.faults.level[b].toNat = l + 1
      ∧ t.faults.timer[b] = (if s.escMax b.val = l + 1 then none else some (t.ns + BitVec.ofNat 64 s.grace))
      ∧ 65536 * ends.toNat ≤ t.up
      ∧ (∀ p, (l = 0 → p ∈ s.fenceScope b) → (s.part p).partState = 1 → (t.part p).partState = 3 ∧ (t.part p).fenced = true)
      ∧ (l = 0 → ∀ p, p ∉ s.fenceScope b → t.part p = s.part p)
      ∧ (1 ≤ l → t.faults.muzzle = true ∧ t.faults.fsw.getLsbD 63 = true) ∧ (2 ≤ l → t.pins.faultN = false)
      ∧ (l = 0 → t.faults.muzzle = s.faults.muzzle) ∧ (l ≤ 1 → t.pins = s.pins)
      ∧ t.cells = s.cells ∧ t.mem = s.mem)
  ∧ (∀ (s : State) (core : Fin 2), s.collects = true → answers (.watchdogExpiry core) s fun t =>
      latched 44 t ∧ t.faults.coresDown = s.faults.coresDown ||| BitVec.twoPow 2 core.val ∧ (∀ y ∈ t.sessions, y.core ≠ (core.val == 1))
      ∧ t.parts = s.parts ∧ t.cells = s.cells ∧ t.dict = s.dict)
  ∧ (∀ (s : State) (core : Fin 2), s.collects = true → answers (.coreRestartDone core) s fun t =>
      t = { s with faults := { s.faults with coresDown := s.faults.coresDown &&& ~~~BitVec.twoPow 2 core.val } })
  ∧ (∀ (s : State) (core : Fin 2) (i : Instr), i = .watchdogExpiry core ∨ i = .coreRestartDone core → s.collects = false → answers i s fun t => t = s)

/-- R317, R320, R321: ACK stops the grace timers of latched bits without unlatching them; CLEAR unlatches each named bit unless its cause is
present, which keeps it latched, and leaves the others; for bit 48 it first discards the schedule-fault records of its scope whose freeze
has ended; a reserved bit is RANGE; bit 63 ends the Muzzle and releases FAULT_N once no latched bit stands at level 2 or 3; UNFENCE makes a
FENCED partition whose fencing bits and bit 63 are clear ACTIVE. A Tenant's write outside its scope is DENIED. Where the specification
leaves a point open, this follows the model's choice of log 53. -/
def Obligations.FaultsAreCleared : Prop :=
  ∀ (s : State) (f : Frame) (x : Session),
    let u := s.noted f x
    let v : BitVec 64 := BitVec.ofNat 64 (leNat f.data)
    (s.written f x 0x6001 2 → v &&& ~~~u.clearScope x = 0 → answers (.ackBits f) s fun t =>
      t.faults.fsw = u.faults.fsw
      ∧ (∀ b : Fin 50, t.faults.timer[b] = if v.getLsbD b.val && u.faults.fsw.getLsbD b.val then none else u.faults.timer[b])
      ∧ (∀ b : Fin 50, t.faults.acked.getLsbD b.val = (u.faults.acked.getLsbD b.val || (v.getLsbD b.val && u.faults.fsw.getLsbD b.val)))
      ∧ t = ({ u with faults := { u.faults with acked := t.faults.acked, timer := t.faults.timer } }).wrote x f)
    ∧ (s.written f x 0x6001 2 → v &&& ~~~u.clearScope x ≠ 0 → answers (.ackBits f) s fun t => t = u.say x f stDenied)
    ∧ (s.written f x 0x6001 1 → v &&& ~~~u.clearScope x ≠ 0 → answers (.clearBits f) s fun t => t = u.say x f stDenied)
    ∧ (s.written f x 0x6001 1 → v &&& ~~~u.clearScope x = 0 → v.extractLsb' 50 13 ≠ 0 → answers (.clearBits f) s fun t => t = u.say x f stRange)
    ∧ (s.written f x 0x6001 1 → v &&& ~~~u.clearScope x = 0 → v.extractLsb' 50 13 = 0 → v.getLsbD 63 = false →
      answers (.clearBits f) s fun t =>
        (∀ b : Fin 50, t.faults.fsw.getLsbD b.val = if v.getLsbD b.val then t.causeOf b.val else u.faults.fsw.getLsbD b.val)
        ∧ (∀ b : Fin 50, b.val ≠ 48 → t.causeOf b.val = u.causeOf b.val)
        ∧ (∀ b : Fin 50, v.getLsbD b.val = true → t.causeOf b.val = false →
            t.faults.level[b] = 0 ∧ t.faults.timer[b] = none ∧ t.faults.acked.getLsbD b.val = false)
        ∧ (∀ p, t.part p = if v.getLsbD 48 = true ∧ (x.role ≠ roleT ∨ p = x.part) ∧ (u.part p).frozen = none then { u.part p with sf := 0 }
            else u.part p)
        ∧ t.faults.fsw.getLsbD 63 = u.faults.fsw.getLsbD 63 ∧ t.faults.counts = u.faults.counts
        ∧ ((∀ b : Fin 50, t.faults.fsw.getLsbD b.val = false) → t.faults.firstError = 0)
        ∧ t.cells = u.cells ∧ t.mem = u.mem ∧ t.pins = u.pins)
    ∧ (s.written f x 0x6001 1 → x.role ≠ roleT → v = BitVec.twoPow 64 63 →
      (∀ b : Fin 50, u.faults.fsw.getLsbD b.val = true → u.faults.level[b].toNat < 2) → answers (.clearBits f) s fun t =>
        t.faults.muzzle = false ∧ t.pins = { u.pins with faultN := true } ∧ t.faults.fsw.getLsbD 63 = false
        ∧ (∀ b : Fin 50, t.faults.fsw.getLsbD b.val = u.faults.fsw.getLsbD b.val) ∧ t.cells = u.cells ∧ t.mem = u.mem)
    ∧ (∀ p : PartIx, s.written f x 0x6011 3 → leNat f.data = p.val →
      ((u.part p).partState = 3 → u.fenceFree p = true → answers (.unfence f) s fun t =>
        t = (u.modPart p fun y => { y with partState := 1, fenced := false, fenceBits := 0 }).wrote x f)
      ∧ ((u.part p).partState ≠ 3 ∨ u.fenceFree p = false → answers (.unfence f) s fun t => t = u.say x f stRange))

/-- R333 to R341: an image enters the crate whole; CRATE_CHECK makes it VERIFIED or REFUSED with the result of its checks; CRATE_ARM arms and
disarms a VERIFIED one; SVN_RAISE fuses the active image's SVN, never a lower one; RESTART starts the module over. A probationary start that
does not reach READY in 10 s goes back to the other bank. In Pup mode images arrive by segment, the persistent store is erased where the pin
led there, and an exit with a compatible set restarts. Where the specification leaves a point open, this follows the model's choice of log
36. -/
def Obligations.FirmwareIsServed : Prop :=
  (∀ (s : State) (f : Frame) (x : Session),
    let u := s.noted f x
    let filled (b : Bytes) : State := { u with fw := { u.fw with crate := ⟨2, 0, 0, 0, b, BitVec.ofNat 32 b.length, none⟩ } }
    (∀ b : Bytes, s.written f x 0x7000 4 → (∃ m, boxOf f.path = some m) → b.length = recField f.data 64 64 → b.length ≤ 16777216 →
        u.faults.muzzle = false →
      answers (.cratePut f (some b)) s fun t => t = (filled b).wrote x f)
    ∧ (s.written f x 0x7000 5 → answers (.crateData f) s fun t => t = (filled f.data).wrote x f)
    ∧ (s.written f x 0x7000 6 → leNat f.data = 1 → u.fw.crate.state = 2 →
      let r := u.checkImage u.fw.crate.data
      r.result ≠ 3 → answers (.crateCheck f) s fun t =>
        t.fw.crate.state = (if r.result = 0 then 3 else 5) ∧ t.fw.crate.result = BitVec.ofNat 8 r.result
        ∧ t.fw.crate.detail = BitVec.ofNat 16 r.detail ∧ t.fw.crate.data = u.fw.crate.data
        ∧ t = ({ u with fw := { u.fw with crate := t.fw.crate } }).wrote x f)
    ∧ (∀ k : BitVec 4, s.written f x 0x7000 7 → (leNat f.data = 1 ∧ u.fw.crate.state = 3 ∧ k = 4) ∨ (leNat f.data = 0 ∧ u.fw.crate.state = 4 ∧ k = 3) →
      answers (.crateArm f) s fun t => t = ({ u with fw := { u.fw with crate := { u.fw.crate with state := k } } }).wrote x f)
    ∧ (∀ (k : Fin 6) (i : Image), s.written f x 0x7000 0x11 → leNat f.data = k.val + 1 → u.activeImage (k.val + 1) = some i →
      (u.fw.svnFused[k] < i.svn → answers (.svnRaise f) s fun t =>
        t.fw.svnFused[k] = i.svn ∧ (∀ j, j ≠ k → t.fw.svnFused[j] = u.fw.svnFused[j])
        ∧ t = ({ u with fw := { u.fw with svnFused := t.fw.svnFused } }).wrote x f)
      ∧ (i.svn ≤ u.fw.svnFused[k] → answers (.svnRaise f) s fun t => t = u.say x f stRange))
    ∧ (s.written f x 0x7000 8 → f.data = [1] → (∀ p, (u.part p).jobState = 0 ∨ (u.part p).jobState = 3) →
      answers (.restartWhenIdle f) s fun t => t = (u.beginRom 2).wrote x f ∧ t.start.stage = 1 ∧ t.sessions = [])
    ∧ (s.written f x 0x7000 8 → f.data = [1] → (∃ p, (u.part p).busy = true) → answers (.restartWhenIdle f) s fun t => t = u.say x f stBusy)
    ∧ (s.written f x 0x7000 8 → f.data = [2] → answers (.restartNow f) s fun t =>
      t = (u.beginRom 3).wrote x f ∧ t.start.stage = 1 ∧ t.sessions = []))
  ∧ (∀ (s : State) (k : Fin 6), s.fw.probation = some (BitVec.ofNat 8 (k.val + 1)) → s.pins.pwrGood = true → 1 ≤ s.start.stage →
    s.start.stage ≤ 4 → answers .probationTimeout s fun t =>
      t.fw.banks[k].active = !s.fw.banks[k].active ∧ t.fw.banks[k].gen = s.fw.banks[k].gen + 1
      ∧ (∀ i, t.fw.banks[k].image s.fw.banks[k].active = some i → i.good = false)
      ∧ (∀ j, j ≠ k → t.fw.banks[j] = s.fw.banks[j]) ∧ t.fw.probation = none ∧ t.start.stage = 1 ∧ t.start.cause = 4
      ∧ latched 45 t ∧ t.fw.svnFused = s.fw.svnFused ∧ 65536 * (s.start.romAt.toNat + 10000000000) ≤ t.up)
  ∧ (∀ (s : State) (f : Frame) (y : Pup),
    (s.pupFrame f 0x20 = some y → f.offset = 0 → f.more = true → f.total.toNat ≤ 16777216 → answers (.pupPut f) s fun t =>
      (∃ z, t.start.pup = some z ∧ z.data = f.data ∧ z.kind = f.sub ∧ z.total = f.total) ∧ t.fw = s.fw ∧ t.dict = s.dict)
    ∧ (s.pupFrame f 0x22 = some y → answers (.pupErase f) s fun t =>
      t.dict = (if y.byPin then s.dict.filter fun e => !persistent e.1 else s.dict) ∧ t.fw.banks = s.fw.banks ∧ t.fw.svnFused = s.fw.svnFused
      ∧ t.start.stage = 7)
    ∧ (s.pupFrame f 0x23 = some y → firstBadIf s.partNo s.activeSet = none → answers (.pupExit f) s fun t =>
      t.start.stage = 1 ∧ t.start.cause = 3 ∧ t.fw.banks = s.fw.banks ∧ t.fw.bootCount = s.fw.bootCount + 1))

/-! Start-up and pins (15, 16) -/

/-- R335, R345, R346, R350, R351, R355, R357, R358, R366: the pins. A rise of PWR_EN begins stage RAILS; with the rails in their windows
PWR_GOOD rises, the straps are sampled and ROM begins, or waits for PERST_N, an input between its two windows counting from there (log 103);
a stalled start, a hot coolant inlet and an input outside both windows keep PWR_GOOD low; a fall of PWR_EN, a rail fault and a lost REFCLK,
this one in stage RAILS too, take the rails off and lose memory; PERST_N abandons whatever runs, its release begins ROM. PERST1_N touches
link 1 and its functions alone. Where the specification leaves a point open, this follows the model's choice of logs 2, 37, 86, 103. -/
def Obligations.PinsStartAndStop : Prop :=
  ∀ s : State,
    (s.pins.pwrEn = false → answers .pwrEnRise s fun t =>
      t = { s with pins := { s.pins with pwrEn := true, thermLatch := false }, start := { s.start with stage := 0, stalled := false } })
    ∧ (answers .pwrEnFall s fun t => coldAgain s t ∧ t.mem = [] ∧ t.authFail = 0 ∧ t.up = 0 ∧ t.start.stage = 0
        ∧ t.pins = { s.pins with pwrEn := false, pwrGood := false, faultN := true } ∧ t.faults = Faults.cold)
    ∧ (∀ geo bifur, s.pins.pwrEn = true → s.pins.pwrGood = false → s.start.stalled = false → s.power.temps[inletIx].toInt ≤ warnLimit inletIx →
      s.power.input ≠ .out → answers (.railsDone geo bifur) s fun t =>
        t.power.excursion = (if s.power.input = .short then some 0 else none) ∧
        t.pins.pwrGood = true ∧ t.pins.geo = geo ∧ t.pins.bifurN = bifur ∧ t.up = 0 ∧ t.start.cause = 0
        ∧ (s.pins.perstN = true → t.start.stage = 1 ∧ t.start.waiting = false ∧ t.fw.bootCount = s.fw.bootCount + 1 ∧ coldAgain s t)
        ∧ (s.pins.perstN = false → t.start.stage = 0 ∧ t.start.waiting = true ∧ t.fw = s.fw))
    ∧ (∀ geo bifur, s.start.stalled = true ∨ warnLimit inletIx < s.power.temps[inletIx].toInt ∨ s.power.input = .out →
      answers (.railsDone geo bifur) s fun t => t = s)
    ∧ (s.pins.pwrGood = true → s.start.waiting = false → answers .perstAssert s fun t =>
      coldAgain s t ∧ t.mem = s.mem ∧ t.start.stage = 0 ∧ t.start.cause = 1 ∧ t.start.waiting = true ∧ t.pins.perstN = false ∧ t.up = s.up)
    ∧ (∀ r, s.pins.perstN = false → s.pins.pwrGood = true → s.start.waiting = true → answers (.perstRelease r) s fun t =>
      t.pins.perstN = true ∧ t.pins.recoveryN = r ∧ t.start.stage = 1 ∧ t.start.waiting = false ∧ t.start.cause = s.start.cause
      ∧ t.start.log[5] = s.ns ∧ t.fw.bootCount = s.fw.bootCount + 1 ∧ coldAgain s t ∧ t.mem = s.mem)
    ∧ (s.pins.bifurN = false → s.pins.pwrGood = true → answers .perst1Assert s fun t =>
      t.power = { s.power with pcie := s.power.pcie.set 1 0, trained := s.power.trained &&& 1, dead := s.power.dead &&& 1 }
      ∧ t.pins = { s.pins with perst1N := false }
      ∧ t.mailboxes[0] = s.mailboxes[0] ∧ t.mailboxes[1] = Mailbox.cold
      ∧ (∀ p : PartIx, t.mailboxes[2 + p.val]'(by omega) = if s.pnum p 3 = 1 then Mailbox.cold else s.mailboxes[2 + p.val]'(by omega)) ∧ t = { s with pins := t.pins, power := t.power, mailboxes := t.mailboxes })
    ∧ (∀ i, i = .railFault ∧ s.pins.pwrGood = true ∨ i = .refclkLoss ∧ s.pins.pwrEn = true → answers i s fun t =>
      coldAgain s t ∧ t.mem = [] ∧ t.authFail = 0 ∧ t.up = 0 ∧ t.start.stage = 0 ∧ t.start.stalled = true ∧ t.pins = { s.pins with pwrGood := false, faultN := true })

/-- R336, R337, R339, R347, R348, R349, Table 15-1: the stages. ROM goes to POST with a compatible set of verified images, or to Pup mode where
RECOVERY_N is low; POST records its failed columns, crypto engines and optical engines; MEMORY leaves every frame at zero; with every
processor running the module is READY, each stage logging its end; a stage past its limit stalls with FAULT_N low. In ROM, with no image of
a KIND that may be selected the module goes to Pup mode; an image on probation that fails, else the first active one that does not verify
and whose fallback fits, gives way to its fallback, from which ROM starts again; a set that does not fit together stays in stage ROM. An
ARMED crate is checked again: a failure makes it REFUSED and changes no bank; a good write puts the image into the fallback bank, selects it
and begins its probation; a write error leaves it ARMED and the selectors as they are (log 36); one read back bad is put back at once. Where
the specification leaves a point open, this follows the model's choice of logs 36, 37, 77, 86. -/
def Obligations.StagesFollow : Prop :=
  ((∀ s : State, s.inStage 1 = true →
     (s.pins.recoveryN = false → s.start.cause ≤ 1 → answers .romDone s fun t =>
       t.start.stage = 7 ∧ (∃ y, t.start.pup = some y ∧ y.byPin = true) ∧ t.fw = s.fw)
     ∧ (s.start.rom.bad = 0 → s.pins.recoveryN = true → s.fw.crate.state ≠ 4 → (∀ k, s.fw.probation = some k → s.activeFails k.toNat = false) →
       s.setReady = true → (∀ k, s.partNo.kind k = true → ∃ b, s.fwBanks k = some b
         ∧ (s.usableIn k b.active).isSome = true) → answers .romDone s fun t =>
       t.start.stage = 2 ∧ t.start.log[0] = s.ns ∧ t.fw.banks = s.fw.banks
       ∧ t.fw.actResult = (if s.start.cause = 4 then s.fw.actResult else 0)
       ∧ t = { s with start := t.start, fw := { s.fw with actResult := t.fw.actResult } }))
   ∧ (∀ (s : State) (cols : BitVec 16) (crypto : CryptoFail) (oe : BitVec 6), s.inStage 2 = true → answers (.postDone cols crypto oe) s fun t =>
       t.start.stage = 3 ∧ t.start.log[1] = s.ns
       ∧ (∀ g : Fin 16, t.post.badCols.getLsbD g.val = (cols.getLsbD g.val && decide (g.val < s.partNo.cols)))
       ∧ t.post.badCrypto = crypto ∧ (s.badEngines crypto ≠ [] → latched 43 t)
       ∧ (∀ n : PortIx, oe.getLsbD (n.val / 4) = true → n.val < s.partNo.ports → (t.port n).state = 5 ∧ (t.port n).postFailed = true)
       ∧ (∀ n : PortIx, oe.getLsbD (n.val / 4) = false → t.port n = s.port n) ∧ t.parts = s.parts ∧ t.fw = s.fw ∧ t.mem = s.mem)
   ∧ (∀ (s : State) (st : BitVec 8) (dv : BitVec 24), s.inStage 3 = true → answers (.memoryDone st dv) s fun t =>
       t.start.stage = 4 ∧ t.start.log[2] = s.ns ∧ t.mem = [] ∧ t.damaged = [] ∧ t.post = { s.post with badShares := s.sharesOf st dv }
       ∧ (∀ k : Fin 8, st.getLsbD k.val = true → s.partNo.fswBit (16 + k.val) = true → latched ⟨16 + k.val, by omega⟩ t)
       ∧ t.parts = s.parts ∧ t.fw = s.fw)
   ∧ (∀ s : State, s.inStage 4 = true → answers .firmwareDone s fun t =>
       t.start.stage = 5 ∧ t.start.log[3] = s.ns ∧ t.start.log[4] = s.ns ∧ t.fw = { s.fw with probation := none }
       ∧ t.out = s.out ++ (if s.pins.bifurN then [.readiness 0] else [.readiness 0, .readiness 1])
       ∧ (∀ p, t.part p = { s.part p with attributed := [] }) ∧ t.mem = s.mem ∧ t.faults.fsw = s.faults.fsw)
   ∧ (∀ (s : State) (from_ limit : Nat), s.pins.pwrGood = true → s.start.stalled = false → s.start.waiting = false →
       s.stageLimit = some (from_, limit) → s.fw.probation = none → answers .stageTimeout s fun t =>
       t.start = { s.start with stalled := true } ∧ t.pins = { s.pins with faultN := false } ∧ 65536 * (from_ + limit) ≤ t.up
       ∧ t = { s with start := t.start, pins := t.pins, up := t.up, heel := t.heel })
   ∧ (∀ s : State, s.pins.pwrGood = false → s.pins.pwrEn = true → s.start.stalled = false → answers .stageTimeout s fun t =>
       t = { s with start := { s.start with stalled := true }, pins := { s.pins with faultN := false } }))
  ∧ (∀ s : State, s.inStage 1 = true → (s.pins.recoveryN = true ∨ 1 < s.start.cause) →
     let m := s.measureBanks s.start.rom.bad
     let crate := m.fw.crate
     let v := m.checkImage crate.data
     let back (k : Nat) (t : State) : Prop :=
       (∀ j : Fin 6, j.val + 1 = k → t.fw.banks[j].active = !m.fw.banks[j].active ∧ t.fw.banks[j].gen = m.fw.banks[j].gen + 1
         ∧ ∀ i, t.fw.banks[j].image m.fw.banks[j].active = some i → i.good = false)
       ∧ (∀ j : Fin 6, j.val + 1 ≠ k → t.fw.banks[j] = m.fw.banks[j])
       ∧ t.start.stage = 1 ∧ t.start.cause = 4 ∧ latched 45 t ∧ t.fw.probation ≠ some (BitVec.ofNat 8 k) ∧ t.fw.svnFused = s.fw.svnFused
     (m.selectable = false → answers .romDone s fun t =>
       t.start.stage = 7 ∧ (∃ y, t.start.pup = some y ∧ y.byPin = false) ∧ t.fw = m.fw ∧ t.dict = s.dict)
     ∧ (m.selectable = true →
       (∀ k, m.fw.probation = some k → m.activeFails k.toNat = true → answers .romDone s (back k.toNat))
       ∧ ((∀ k, m.fw.probation = some k → m.activeFails k.toNat = false) →
         (∀ k, m.givesWay = some k → answers .romDone s (back k))
         ∧ (m.givesWay = none →
           (crate.state ≠ 4 → answers .romDone s fun t =>
             t.fw.banks = m.fw.banks ∧ t.start.stage = (if m.setReady then 2 else 1) ∧ t.dict = s.dict)
           ∧ (crate.state = 4 → answers .romDone s fun t =>
             (v.result ≠ 0 →
               t.fw.crate.state = 5 ∧ t.fw.crate.result = BitVec.ofNat 8 v.result ∧ t.fw.crate.data = crate.data ∧ t.fw.banks = m.fw.banks
               ∧ t.fw.actResult.extractLsb' 0 4 = 2 ∧ t.fw.actResult.extractLsb' 8 8 = BitVec.ofNat 8 v.result
               ∧ (v.result = 3 → latched 45 t) ∧ t.start.stage = (if m.setReady then 2 else 1))
             ∧ (∀ i, v.result = 0 → v.image = some i →
               let k := i.kind.toNat
               (s.start.rom.write = .good →
                 (∀ j : Fin 6, j.val + 1 = k → t.fw.banks[j].active = !m.fw.banks[j].active ∧ t.fw.banks[j].gen = m.fw.banks[j].gen + 1
                   ∧ t.fw.banks[j].image (!m.fw.banks[j].active) = some i
                   ∧ t.fw.banks[j].image m.fw.banks[j].active = m.fw.banks[j].image m.fw.banks[j].active)
                 ∧ (∀ j : Fin 6, j.val + 1 ≠ k → t.fw.banks[j] = m.fw.banks[j])
                 ∧ t.fw.crate = Crate.empty ∧ t.fw.probation = some i.kind ∧ t.fw.actResult = actWord 1 k rcOk 0
                 ∧ t.start.stage = (if t.setReady then 2 else 1))
               ∧ (s.start.rom.write = .error →
                 t.fw.crate = crate ∧ (∀ j : Fin 6, t.fw.banks[j].active = m.fw.banks[j].active
                   ∧ t.fw.banks[j].image m.fw.banks[j].active = m.fw.banks[j].image m.fw.banks[j].active)
                 ∧ t.fw.actResult = actWord 2 k rcFlash 0 ∧ t.fw.probation = m.fw.probation)
               ∧ (s.start.rom.write = .bad →
                 t.fw.crate = Crate.empty ∧ t.start.stage = 1 ∧ t.start.cause = 4 ∧ latched 45 t ∧ t.fw.probation = none
                 ∧ (∀ j : Fin 6, t.fw.banks[j].active = m.fw.banks[j].active
                   ∧ t.fw.banks[j].image m.fw.banks[j].active = m.fw.banks[j].image m.fw.banks[j].active))))))))

/-- R356, R357, R361, R363, R364: input voltage, temperatures and PCIe links. An input outside 46 to 56 V is an excursion with bit 46, outside
42 to 58 V, or for 10 ms, it takes the rails off; a short dip counts. A sensor beyond its warning limit latches bit 47 and at its critical
limit takes the rails off with THERM_N held; a trained link that is lost latches bit 36. Each cause ends with its return. Where the
specification leaves a point open, this follows the model's choice of logs 37, 53, 103. -/
def Obligations.SensorsAreWatched : Prop :=
  ∀ s : State, s.pins.pwrGood = true → s.start.waiting = false → s.start.stage ≠ 0 →
    (∀ mv : BitVec 32,
      (42000 ≤ mv.toNat ∧ mv.toNat < 46000 ∨ 56000 < mv.toNat ∧ mv.toNat ≤ 58000 → s.power.excursion = none →
        answers (.inputExcursion mv) s fun t =>
          latched 46 t ∧ t.power = { s.power with inputMv := mv, input := .short, excursion := some s.ns } ∧ t.pins = s.pins ∧ t.parts = s.parts)
      ∧ (mv.toNat < 42000 ∨ 58000 < mv.toNat → answers (.inputExcursion mv) s fun t =>
          t.pins.pwrGood = false ∧ t.mem = [] ∧ coldAgain s t ∧ t.power.inputMv = mv)
      ∧ (46000 ≤ mv.toNat → mv.toNat ≤ 56000 → answers (.inputReturn mv) s fun t =>
          t.power = { s.power with inputMv := mv, input := .full, excursion := none } ∧ t.faults.persist.getLsbD 46 = false
          ∧ t = { s with power := t.power, faults := { s.faults with persist := t.faults.persist } }))
    ∧ (answers .inputDip s fun t => t = { s with power := { s.power with dips := s.power.dips + 1 } })
    ∧ (∀ since, s.power.excursion = some since → answers .inputExcursionTimeout s fun t => t.pins.pwrGood = false ∧ t.mem = [] ∧ coldAgain s t)
    ∧ (∀ (k : SensorIx) (v : BitVec 32) (i : Instr), i = .thermalWarning k v ∨ i = .thermalCritical k v →
      (s.hasSensor k = false → answers i s fun t => t = s)
      ∧ (s.hasSensor k = true → warnLimit k < v.toInt → v.toInt < criticalLimit k → s.power.warn.getLsbD k.val = false → answers i s fun t =>
        latched 47 t ∧ t.power.temps[k] = v ∧ t.power.warn = s.power.warn ||| BitVec.twoPow 7 k.val ∧ t.thermLow = true ∧ t.parts = s.parts)
      ∧ (s.hasSensor k = true → criticalLimit k ≤ v.toInt → s.pins.pwrEn = true → answers i s fun t =>
        t.pins.pwrGood = false ∧ t.pins.thermLatch = true ∧ t.thermLow = true ∧ t.mem = [] ∧ coldAgain s t))
    ∧ (∀ temps : List (BitVec 32), temps.length = 7 → (∀ k : SensorIx, s.hasSensor k = true → ∀ v, temps[k.val]? = some v → v.toInt ≤ warnLimit k - 48) →
      answers (.thermalWarningClear temps) s fun t =>
        (∀ k : SensorIx, some t.power.temps[k] = if s.hasSensor k then temps[k.val]? else some s.power.temps[k])
        ∧ t.power = { s.power with temps := t.power.temps, warn := 0 } ∧ t.faults.persist.getLsbD 47 = false
        ∧ t = { s with power := t.power, faults := { s.faults with persist := t.faults.persist } })
    ∧ (∀ l : Fin 2, s.power.pcie[l] ≠ 0 → answers (.pcieLinkDown l) s fun t =>
      latched 36 t ∧ t.power = { s.power with pcie := s.power.pcie.set l 0 } ∧ t.parts = s.parts)
    ∧ (∀ (l : Fin 2) (rate width : BitVec 4),
      (s.pins.perstN = true → 1 ≤ rate.toNat → rate.toNat ≤ 6 → width = (if s.pins.bifurN then 4 else 3) → (l = 1 → s.pins.bifurN = false) →
        answers (.pcieLinkUp l rate width) s fun t =>
          t.power.pcie = s.power.pcie.set l (BitVec.ofNat 8 (rate.toNat + 16 * width.toNat)) ∧ t.power.trained.getLsbD l.val = true
          ∧ t.power.dead = s.power.dead &&& ~~~BitVec.twoPow 2 l.val
          ∧ (∀ m : Fin 2, m ≠ l → s.power.trained.getLsbD m.val = false → t.faults.persist.getLsbD 36 = false)
          ∧ t = { s with pins := t.pins, power := t.power, faults := { s.faults with persist := t.faults.persist } })
      ∧ (rate = 0 ∨ 6 < rate.toNat ∨ width ≠ (if s.pins.bifurN then 4 else 3) → answers (.pcieLinkUp l rate width) s fun t => t = s))

/-- R308, R360, Table 16-2: while PWR_GOOD is high the tray bus answers each of its nine registers with its bytes, the lowest first, behind
their number for a block, and their packet error code, and changes nothing; while it is low it does not answer. A port answers Neighbor
Discovery on the addresses it has, Echo over the next hop to the sender, and discards anything else. Where the specification leaves a point
open, this follows the model's choice of logs 60, 81. -/
def Obligations.TrayBusAndPortsAnswer : Prop :=
  (∀ (s : State) (i : Instr) (c : Byte) (b : Bytes),
    (i = .smbStatus ∧ c = 0x00 ∧ b = leBytes 1 (s.start.stage.toNat % 8 + 8 * s.thermLow.toNat + 16 * (!s.pins.faultN).toNat
      + 32 * (decide (∃ p, (s.part p).govHold = true)).toNat))
    ∨ (i = .smbPower ∧ c = 0x10 ∧ b = leBytes 2 s.power.now.toNat) ∨ (i = .smbVoltage ∧ c = 0x11 ∧ b = leBytes 2 (s.power.inputMv.toNat / 10))
    ∨ (i = .smbHottest ∧ c = 0x20 ∧ ∃ k : SensorIx, s.hasSensor k = true ∧ b = leBytes 2 s.power.temps[k].toNat
        ∧ ∀ j : SensorIx, s.hasSensor j = true → s.power.temps[j].toInt ≤ s.power.temps[k].toInt)
    ∨ (i = .smbInlet ∧ c = 0x21 ∧ b = leBytes 2 s.power.temps[4].toNat) ∨ (i = .smbOutlet ∧ c = 0x22 ∧ b = leBytes 2 s.power.temps[5].toNat)
    ∨ (i = .smbFsw ∧ c = 0x30 ∧ b = 8 :: leBytes 8 s.faults.fsw.toNat) ∨ (i = .smbSerial ∧ c = 0x40 ∧ b = 24 :: serialBytes)
    ∨ (i = .smbPartNumber ∧ c = 0x41 ∧ b = 16 :: padTo 16 s.partNo.name) →
    (s.pins.pwrGood = true → answers i s fun t => t = { s with out := s.out ++ [.smbus b (smbPec c b)] })
    ∧ (s.pins.pwrGood = false → answers i s fun t => t = s))
  ∧ (∀ (s : State) (port : Fin 2) (a peer : BitVec 128) (d : Bytes),
    (s.answersOn port a = true → answers (.icmpv6Message port (.neighborSolicit a)) s fun t => t = { s with out := s.out ++ [.icmp port (some a) a []] })
    ∧ (∀ h, s.answersOn port a = true → s.nextHop port peer = some h → answers (.icmpv6Message port (.echoRequest peer a d)) s fun t =>
        t = { s with out := s.out ++ [.icmp port (some h) a d] })
    ∧ (∀ m, m = .neighborSolicit a ∧ s.answersOn port a = false
        ∨ m = .echoRequest peer a d ∧ (s.answersOn port a = false ∨ s.nextHop port peer = none) ∨ m = .other →
      answers (.icmpv6Message port m) s fun t => t = s))

/-! Whole steps, reset, encodings -/

/-- The queue (log 2): a step runs the command at the front on the state with the rest of the queue; on an empty queue one nanosecond passes while
the module has power. -/
def Obligations.StepRunsTheFrontCommand : Prop :=
  (∀ (s : State) (c : Instr) (cs : List Instr), s.pending = c :: cs → step s = exec c { s with pending := cs })
  ∧ ∀ s : State, s.pending = [] → step s = .next (if s.pins.pwrGood then s.pass 65536 else s)

/-- R351 and the chapters that name reset values: what reset leaves. The values of the factory firmware, of memory and of the pins are the model's
own (logs 1, 7, 10) and are not named here. Reset has the form of `State.inForm`. -/
def Obligations.ResetIsCold : Prop :=
  State.reset.pending = [] ∧ State.reset.inForm
  ∧ (∀ p, State.reset.part p = Partition.cold) ∧ (∀ c, State.reset.cell c = Cell.cold) ∧ (∀ n, State.reset.port n = Port.cold)
  ∧ Partition.cold.partState = 0 ∧ Partition.cold.jobState = 0 ∧ Partition.cold.stepNow = BitVec.allOnes 64
  ∧ Partition.cold.loadStatus = 0xFF ∧ Partition.cold.runPlan = none ∧ Partition.cold.holdTotal = 0 ∧ Partition.cold.keys = Keys.none
  ∧ Partition.cold.kennel.sqHead = 0 ∧ Partition.cold.kennel.cqHead = 0 ∧ Partition.cold.kennel.phase = true
  ∧ Port.cold.state = 0 ∧ State.reset.heel.state = 0 ∧ State.reset.heel.hops = 0xFF ∧ State.reset.faults.fsw = 0
  ∧ State.reset.faults.firstError = 0 ∧ State.reset.sessions = [] ∧ State.reset.start.stage = 5 ∧ (∀ b : Fin 18, State.reset.mailboxes[b].done = true)
  ∧ ∀ p : PartIx, State.reset.colsOf p = []

/-- R78, R109 and the layouts of Tables 4-7, 4-12, 5-2, 5-6 and 5-10: a word of each kind of engine, field by field, is the instruction it
stands for. -/
def Obligations.WordsDecodeByTheirTables : Prop :=
  decodeWord .mxe 0b000011_000101_00000001_10_1_0_1_0_0000000_111111_0010_0100_00000100000001_010#64
    = some (.macc ⟨⟨5, 1⟩, 2, true, false, 1, false, 0, 63, 2, 4, 257, 2⟩)
  ∧ decodeWord .vxe 0b001000_000000_00000000_000111_1_000010_1_000011_0_000000_0_01_1000_0_0000_00000#64
    = some (.vadd ⟨⟨0, 0⟩, 7, true, 2, true, 3, false, 0, false, 1, 8, false, 0⟩)
  ∧ decodeWord .dme 0b001000_000011_00000001_0001_1_00000100000000_000000001111_010_1111111111#64
    = some (.drd ⟨3, 1, 1, true, 256, 15, 2, -1⟩)
  ∧ decodeWord .sqe 0b000001_000000_00000000_00100_0_00101_1_1_00000_0_0001_1111111111111110_00000#64
    = some (.salu ⟨⟨0, 0⟩, 4, false, 5, true, true, 0, false, 1, -2⟩)
  ∧ (∀ e, decodeWord e 0b111000_000011_0000000000010000_1_1_01_00000000000000000000000110010000#64
    = some (.wait ⟨3, 16, true, true, 1, 400⟩))
  ∧ (∀ e, decodeWord e 0b111100_0000000000000000000000000000000000000000000000000000000000#64 = some .stepend)

/-- R78, R80, R109: encoding and decoding agree. The word of every instruction that an engine has, with every operand at every value, decodes in
that engine to the instruction; and a word that an engine decodes is the word of what it decodes to, so that no bit is dropped. Where the
specification leaves a point open, this follows the model's choice of log 43. -/
def Obligations.EncodingsAgree : Prop :=
  (∀ (e : Eng) (op : EngOp), op.engine = none ∨ op.engine = some e → decodeWord e (encodeWord op) = some op)
  ∧ ∀ (e : Eng) (w : BitVec 64) (op : EngOp), decodeWord e w = some op → encodeWord op = w ∧ (op.engine = none ∨ op.engine = some e)

/-- The invariant of every step: from any state in the form of `State.inForm`, whatever command is in front, a step answers a next state, which is in
that form. -/
def Obligations.EveryStepKeepsTheForm : Prop := ∀ s : State, s.inForm → ∃ t, step s = .next t ∧ t.inForm

/-- R338, and the queue: whatever the state and the command in front, a step answers a next state, takes exactly that command off the queue, keeps the part number, and lowers no fused SVN
minimum. -/
def Obligations.NoStepLowersAFuse : Prop :=
  ∀ s : State, ∃ t, step s = .next t ∧ t.pending = s.pending.tail ∧ stands s t
end

