-- ==== Sys2Proof/Laws/Bytes.lean ====
section
/-!
SUPPORT. Laws of byte strings and of the numbers and fields that they hold.
-/

namespace Sys2Proof.Machine

@[simp] theorem length_leBytes (n x : Nat) : (leBytes n x).length = n := by
  induction n generalizing x with
  | zero => rfl
  | succ n ih => simp [leBytes, ih]

theorem leNat_lt (bs : Bytes) : leNat bs < 256 ^ bs.length := by
  induction bs with
  | nil => simp [leNat]
  | cons b bs ih =>
    have := b.isLt
    simp only [leNat, List.length_cons, pow_succ]
    omega

theorem leNat_leBytes (n x : Nat) : leNat (leBytes n x) = x % 256 ^ n := by
  induction n generalizing x with
  | zero => simp [leBytes, leNat, Nat.mod_one]
  | succ n ih =>
    rw [leBytes, leNat, ih, pow_succ, BitVec.toNat_ofNat, Nat.mul_comm (256 ^ n) 256, Nat.mod_mul]

theorem leBytes_leNat (bs : Bytes) : leBytes bs.length (leNat bs) = bs := by
  induction bs with
  | nil => rfl
  | cons b bs ih =>
    have hb := b.isLt
    have h1 : BitVec.ofNat 8 (b.toNat + 256 * leNat bs) = b := by
      apply BitVec.eq_of_toNat_eq
      simp only [BitVec.toNat_ofNat]
      omega
    have h2 : (b.toNat + 256 * leNat bs) / 256 = leNat bs := by omega
    simp only [List.length_cons, leBytes, leNat]
    rw [h1, h2, ih]

theorem leNat_append (a b : Bytes) : leNat (a ++ b) = leNat a + 256 ^ a.length * leNat b := by
  induction a with
  | nil => simp [leNat]
  | cons x xs ih =>
    simp only [List.cons_append, leNat, ih, List.length_cons, pow_succ]
    ring

/-- A field that lies in the first part of a byte string is the field of that part. -/
theorem recField_append (a b : Bytes) (lo n : Nat) (h : lo + n ≤ 8 * a.length) : recField (a ++ b) lo n = recField a lo n := by
  obtain ⟨k, hk⟩ := Nat.exists_eq_add_of_le h
  have h256 : (256 : Nat) ^ a.length = 2 ^ lo * (2 ^ n * 2 ^ k) := by
    rw [← pow_add, ← pow_add, ← Nat.add_assoc, ← hk, show (256 : Nat) = 2 ^ 8 by norm_num, ← pow_mul]
  unfold recField
  rw [leNat_append, h256, Nat.mul_assoc, Nat.add_mul_div_left _ _ (by positivity : 0 < 2 ^ lo), Nat.mul_assoc, Nat.add_mul_mod_self_left]

/-- A field is below its width. -/
theorem recField_lt (bs : Bytes) (lo n : Nat) : recField bs lo n < 2 ^ n := Nat.mod_lt _ (by positivity)

end Sys2Proof.Machine
end

