-- ==== Sys2Proof/Laws/State.lean ====
section
/-!
SUPPORT. Laws of the state: what each named update leaves, one lemma per field and per accessor.
-/

namespace Sys2Proof.Machine

/-! `setPart` -/

@[simp] theorem State.setPart_pending (s : State) (p : PartIx) (x : Partition) : (s.setPart p x).pending = s.pending := rfl
@[simp] theorem State.setPart_partNo (s : State) (p : PartIx) (x : Partition) : (s.setPart p x).partNo = s.partNo := rfl
@[simp] theorem State.setPart_up (s : State) (p : PartIx) (x : Partition) : (s.setPart p x).up = s.up := rfl
@[simp] theorem State.setPart_heel (s : State) (p : PartIx) (x : Partition) : (s.setPart p x).heel = s.heel := rfl
@[simp] theorem State.setPart_start (s : State) (p : PartIx) (x : Partition) : (s.setPart p x).start = s.start := rfl
@[simp] theorem State.setPart_pins (s : State) (p : PartIx) (x : Partition) : (s.setPart p x).pins = s.pins := rfl
@[simp] theorem State.setPart_power (s : State) (p : PartIx) (x : Partition) : (s.setPart p x).power = s.power := rfl
@[simp] theorem State.setPart_post (s : State) (p : PartIx) (x : Partition) : (s.setPart p x).post = s.post := rfl
@[simp] theorem State.setPart_fw (s : State) (p : PartIx) (x : Partition) : (s.setPart p x).fw = s.fw := rfl
@[simp] theorem State.setPart_dict (s : State) (p : PartIx) (x : Partition) : (s.setPart p x).dict = s.dict := rfl
@[simp] theorem State.setPart_faults (s : State) (p : PartIx) (x : Partition) : (s.setPart p x).faults = s.faults := rfl
@[simp] theorem State.setPart_sessions (s : State) (p : PartIx) (x : Partition) : (s.setPart p x).sessions = s.sessions := rfl
@[simp] theorem State.setPart_handshakes (s : State) (p : PartIx) (x : Partition) : (s.setPart p x).handshakes = s.handshakes := rfl
@[simp] theorem State.setPart_orphans (s : State) (p : PartIx) (x : Partition) : (s.setPart p x).orphans = s.orphans := rfl
@[simp] theorem State.setPart_lastSid (s : State) (p : PartIx) (x : Partition) : (s.setPart p x).lastSid = s.lastSid := rfl
@[simp] theorem State.setPart_checks (s : State) (p : PartIx) (x : Partition) : (s.setPart p x).checks = s.checks := rfl
@[simp] theorem State.setPart_authFail (s : State) (p : PartIx) (x : Partition) : (s.setPart p x).authFail = s.authFail := rfl
@[simp] theorem State.setPart_mailboxes (s : State) (p : PartIx) (x : Partition) : (s.setPart p x).mailboxes = s.mailboxes := rfl
@[simp] theorem State.setPart_unheard (s : State) (p : PartIx) (x : Partition) : (s.setPart p x).unheard = s.unheard := rfl
@[simp] theorem State.setPart_noticeLost (s : State) (p : PartIx) (x : Partition) : (s.setPart p x).noticeLost = s.noticeLost := rfl
@[simp] theorem State.setPart_openReports (s : State) (p : PartIx) (x : Partition) : (s.setPart p x).openReports = s.openReports := rfl
@[simp] theorem State.setPart_peerSeen (s : State) (p : PartIx) (x : Partition) : (s.setPart p x).peerSeen = s.peerSeen := rfl
@[simp] theorem State.setPart_selfVerdict (s : State) (p : PartIx) (x : Partition) : (s.setPart p x).selfVerdict = s.selfVerdict := rfl
@[simp] theorem State.setPart_selfTime (s : State) (p : PartIx) (x : Partition) : (s.setPart p x).selfTime = s.selfTime := rfl
@[simp] theorem State.setPart_scentKey (s : State) (p : PartIx) (x : Partition) : (s.setPart p x).scentKey = s.scentKey := rfl
@[simp] theorem State.setPart_scentCtr (s : State) (p : PartIx) (x : Partition) : (s.setPart p x).scentCtr = s.scentCtr := rfl
@[simp] theorem State.setPart_diagSel (s : State) (p : PartIx) (x : Partition) : (s.setPart p x).diagSel = s.diagSel := rfl
@[simp] theorem State.setPart_corrected (s : State) (p : PartIx) (x : Partition) : (s.setPart p x).corrected = s.corrected := rfl
@[simp] theorem State.setPart_uncorrected (s : State) (p : PartIx) (x : Partition) : (s.setPart p x).uncorrected = s.uncorrected := rfl
@[simp] theorem State.setPart_patrolHbm (s : State) (p : PartIx) (x : Partition) : (s.setPart p x).patrolHbm = s.patrolHbm := rfl
@[simp] theorem State.setPart_patrolLp (s : State) (p : PartIx) (x : Partition) : (s.setPart p x).patrolLp = s.patrolLp := rfl
@[simp] theorem State.setPart_cells (s : State) (p : PartIx) (x : Partition) : (s.setPart p x).cells = s.cells := rfl
@[simp] theorem State.setPart_ports (s : State) (p : PartIx) (x : Partition) : (s.setPart p x).ports = s.ports := rfl
@[simp] theorem State.setPart_msgs (s : State) (p : PartIx) (x : Partition) : (s.setPart p x).msgs = s.msgs := rfl
@[simp] theorem State.setPart_mem (s : State) (p : PartIx) (x : Partition) : (s.setPart p x).mem = s.mem := rfl
@[simp] theorem State.setPart_damaged (s : State) (p : PartIx) (x : Partition) : (s.setPart p x).damaged = s.damaged := rfl
@[simp] theorem State.setPart_draws (s : State) (p : PartIx) (x : Partition) : (s.setPart p x).draws = s.draws := rfl
@[simp] theorem State.setPart_free (s : State) (p : PartIx) (x : Partition) : (s.setPart p x).free = s.free := rfl
@[simp] theorem State.setPart_out (s : State) (p : PartIx) (x : Partition) : (s.setPart p x).out = s.out := rfl

/-! `setCell` -/

@[simp] theorem State.setCell_pending (s : State) (c : CellRef) (x : Cell) : (s.setCell c x).pending = s.pending := rfl
@[simp] theorem State.setCell_partNo (s : State) (c : CellRef) (x : Cell) : (s.setCell c x).partNo = s.partNo := rfl
@[simp] theorem State.setCell_up (s : State) (c : CellRef) (x : Cell) : (s.setCell c x).up = s.up := rfl
@[simp] theorem State.setCell_heel (s : State) (c : CellRef) (x : Cell) : (s.setCell c x).heel = s.heel := rfl
@[simp] theorem State.setCell_start (s : State) (c : CellRef) (x : Cell) : (s.setCell c x).start = s.start := rfl
@[simp] theorem State.setCell_pins (s : State) (c : CellRef) (x : Cell) : (s.setCell c x).pins = s.pins := rfl
@[simp] theorem State.setCell_power (s : State) (c : CellRef) (x : Cell) : (s.setCell c x).power = s.power := rfl
@[simp] theorem State.setCell_post (s : State) (c : CellRef) (x : Cell) : (s.setCell c x).post = s.post := rfl
@[simp] theorem State.setCell_fw (s : State) (c : CellRef) (x : Cell) : (s.setCell c x).fw = s.fw := rfl
@[simp] theorem State.setCell_dict (s : State) (c : CellRef) (x : Cell) : (s.setCell c x).dict = s.dict := rfl
@[simp] theorem State.setCell_faults (s : State) (c : CellRef) (x : Cell) : (s.setCell c x).faults = s.faults := rfl
@[simp] theorem State.setCell_sessions (s : State) (c : CellRef) (x : Cell) : (s.setCell c x).sessions = s.sessions := rfl
@[simp] theorem State.setCell_handshakes (s : State) (c : CellRef) (x : Cell) : (s.setCell c x).handshakes = s.handshakes := rfl
@[simp] theorem State.setCell_orphans (s : State) (c : CellRef) (x : Cell) : (s.setCell c x).orphans = s.orphans := rfl
@[simp] theorem State.setCell_lastSid (s : State) (c : CellRef) (x : Cell) : (s.setCell c x).lastSid = s.lastSid := rfl
@[simp] theorem State.setCell_checks (s : State) (c : CellRef) (x : Cell) : (s.setCell c x).checks = s.checks := rfl
@[simp] theorem State.setCell_authFail (s : State) (c : CellRef) (x : Cell) : (s.setCell c x).authFail = s.authFail := rfl
@[simp] theorem State.setCell_mailboxes (s : State) (c : CellRef) (x : Cell) : (s.setCell c x).mailboxes = s.mailboxes := rfl
@[simp] theorem State.setCell_unheard (s : State) (c : CellRef) (x : Cell) : (s.setCell c x).unheard = s.unheard := rfl
@[simp] theorem State.setCell_noticeLost (s : State) (c : CellRef) (x : Cell) : (s.setCell c x).noticeLost = s.noticeLost := rfl
@[simp] theorem State.setCell_openReports (s : State) (c : CellRef) (x : Cell) : (s.setCell c x).openReports = s.openReports := rfl
@[simp] theorem State.setCell_peerSeen (s : State) (c : CellRef) (x : Cell) : (s.setCell c x).peerSeen = s.peerSeen := rfl
@[simp] theorem State.setCell_selfVerdict (s : State) (c : CellRef) (x : Cell) : (s.setCell c x).selfVerdict = s.selfVerdict := rfl
@[simp] theorem State.setCell_selfTime (s : State) (c : CellRef) (x : Cell) : (s.setCell c x).selfTime = s.selfTime := rfl
@[simp] theorem State.setCell_scentKey (s : State) (c : CellRef) (x : Cell) : (s.setCell c x).scentKey = s.scentKey := rfl
@[simp] theorem State.setCell_scentCtr (s : State) (c : CellRef) (x : Cell) : (s.setCell c x).scentCtr = s.scentCtr := rfl
@[simp] theorem State.setCell_diagSel (s : State) (c : CellRef) (x : Cell) : (s.setCell c x).diagSel = s.diagSel := rfl
@[simp] theorem State.setCell_corrected (s : State) (c : CellRef) (x : Cell) : (s.setCell c x).corrected = s.corrected := rfl
@[simp] theorem State.setCell_uncorrected (s : State) (c : CellRef) (x : Cell) : (s.setCell c x).uncorrected = s.uncorrected := rfl
@[simp] theorem State.setCell_patrolHbm (s : State) (c : CellRef) (x : Cell) : (s.setCell c x).patrolHbm = s.patrolHbm := rfl
@[simp] theorem State.setCell_patrolLp (s : State) (c : CellRef) (x : Cell) : (s.setCell c x).patrolLp = s.patrolLp := rfl
@[simp] theorem State.setCell_parts (s : State) (c : CellRef) (x : Cell) : (s.setCell c x).parts = s.parts := rfl
@[simp] theorem State.setCell_ports (s : State) (c : CellRef) (x : Cell) : (s.setCell c x).ports = s.ports := rfl
@[simp] theorem State.setCell_msgs (s : State) (c : CellRef) (x : Cell) : (s.setCell c x).msgs = s.msgs := rfl
@[simp] theorem State.setCell_mem (s : State) (c : CellRef) (x : Cell) : (s.setCell c x).mem = s.mem := rfl
@[simp] theorem State.setCell_damaged (s : State) (c : CellRef) (x : Cell) : (s.setCell c x).damaged = s.damaged := rfl
@[simp] theorem State.setCell_draws (s : State) (c : CellRef) (x : Cell) : (s.setCell c x).draws = s.draws := rfl
@[simp] theorem State.setCell_free (s : State) (c : CellRef) (x : Cell) : (s.setCell c x).free = s.free := rfl
@[simp] theorem State.setCell_out (s : State) (c : CellRef) (x : Cell) : (s.setCell c x).out = s.out := rfl

/-! `setPort` -/

@[simp] theorem State.setPort_pending (s : State) (n : PortIx) (x : Port) : (s.setPort n x).pending = s.pending := rfl
@[simp] theorem State.setPort_partNo (s : State) (n : PortIx) (x : Port) : (s.setPort n x).partNo = s.partNo := rfl
@[simp] theorem State.setPort_up (s : State) (n : PortIx) (x : Port) : (s.setPort n x).up = s.up := rfl
@[simp] theorem State.setPort_heel (s : State) (n : PortIx) (x : Port) : (s.setPort n x).heel = s.heel := rfl
@[simp] theorem State.setPort_start (s : State) (n : PortIx) (x : Port) : (s.setPort n x).start = s.start := rfl
@[simp] theorem State.setPort_pins (s : State) (n : PortIx) (x : Port) : (s.setPort n x).pins = s.pins := rfl
@[simp] theorem State.setPort_power (s : State) (n : PortIx) (x : Port) : (s.setPort n x).power = s.power := rfl
@[simp] theorem State.setPort_post (s : State) (n : PortIx) (x : Port) : (s.setPort n x).post = s.post := rfl
@[simp] theorem State.setPort_fw (s : State) (n : PortIx) (x : Port) : (s.setPort n x).fw = s.fw := rfl
@[simp] theorem State.setPort_dict (s : State) (n : PortIx) (x : Port) : (s.setPort n x).dict = s.dict := rfl
@[simp] theorem State.setPort_faults (s : State) (n : PortIx) (x : Port) : (s.setPort n x).faults = s.faults := rfl
@[simp] theorem State.setPort_sessions (s : State) (n : PortIx) (x : Port) : (s.setPort n x).sessions = s.sessions := rfl
@[simp] theorem State.setPort_handshakes (s : State) (n : PortIx) (x : Port) : (s.setPort n x).handshakes = s.handshakes := rfl
@[simp] theorem State.setPort_orphans (s : State) (n : PortIx) (x : Port) : (s.setPort n x).orphans = s.orphans := rfl
@[simp] theorem State.setPort_lastSid (s : State) (n : PortIx) (x : Port) : (s.setPort n x).lastSid = s.lastSid := rfl
@[simp] theorem State.setPort_checks (s : State) (n : PortIx) (x : Port) : (s.setPort n x).checks = s.checks := rfl
@[simp] theorem State.setPort_authFail (s : State) (n : PortIx) (x : Port) : (s.setPort n x).authFail = s.authFail := rfl
@[simp] theorem State.setPort_mailboxes (s : State) (n : PortIx) (x : Port) : (s.setPort n x).mailboxes = s.mailboxes := rfl
@[simp] theorem State.setPort_unheard (s : State) (n : PortIx) (x : Port) : (s.setPort n x).unheard = s.unheard := rfl
@[simp] theorem State.setPort_noticeLost (s : State) (n : PortIx) (x : Port) : (s.setPort n x).noticeLost = s.noticeLost := rfl
@[simp] theorem State.setPort_openReports (s : State) (n : PortIx) (x : Port) : (s.setPort n x).openReports = s.openReports := rfl
@[simp] theorem State.setPort_peerSeen (s : State) (n : PortIx) (x : Port) : (s.setPort n x).peerSeen = s.peerSeen := rfl
@[simp] theorem State.setPort_selfVerdict (s : State) (n : PortIx) (x : Port) : (s.setPort n x).selfVerdict = s.selfVerdict := rfl
@[simp] theorem State.setPort_selfTime (s : State) (n : PortIx) (x : Port) : (s.setPort n x).selfTime = s.selfTime := rfl
@[simp] theorem State.setPort_scentKey (s : State) (n : PortIx) (x : Port) : (s.setPort n x).scentKey = s.scentKey := rfl
@[simp] theorem State.setPort_scentCtr (s : State) (n : PortIx) (x : Port) : (s.setPort n x).scentCtr = s.scentCtr := rfl
@[simp] theorem State.setPort_diagSel (s : State) (n : PortIx) (x : Port) : (s.setPort n x).diagSel = s.diagSel := rfl
@[simp] theorem State.setPort_corrected (s : State) (n : PortIx) (x : Port) : (s.setPort n x).corrected = s.corrected := rfl
@[simp] theorem State.setPort_uncorrected (s : State) (n : PortIx) (x : Port) : (s.setPort n x).uncorrected = s.uncorrected := rfl
@[simp] theorem State.setPort_patrolHbm (s : State) (n : PortIx) (x : Port) : (s.setPort n x).patrolHbm = s.patrolHbm := rfl
@[simp] theorem State.setPort_patrolLp (s : State) (n : PortIx) (x : Port) : (s.setPort n x).patrolLp = s.patrolLp := rfl
@[simp] theorem State.setPort_parts (s : State) (n : PortIx) (x : Port) : (s.setPort n x).parts = s.parts := rfl
@[simp] theorem State.setPort_cells (s : State) (n : PortIx) (x : Port) : (s.setPort n x).cells = s.cells := rfl
@[simp] theorem State.setPort_msgs (s : State) (n : PortIx) (x : Port) : (s.setPort n x).msgs = s.msgs := rfl
@[simp] theorem State.setPort_mem (s : State) (n : PortIx) (x : Port) : (s.setPort n x).mem = s.mem := rfl
@[simp] theorem State.setPort_damaged (s : State) (n : PortIx) (x : Port) : (s.setPort n x).damaged = s.damaged := rfl
@[simp] theorem State.setPort_draws (s : State) (n : PortIx) (x : Port) : (s.setPort n x).draws = s.draws := rfl
@[simp] theorem State.setPort_free (s : State) (n : PortIx) (x : Port) : (s.setPort n x).free = s.free := rfl
@[simp] theorem State.setPort_out (s : State) (n : PortIx) (x : Port) : (s.setPort n x).out = s.out := rfl

/-! `emit` -/

@[simp] theorem State.emit_pending (s : State) (o : Out) : (s.emit o).pending = s.pending := rfl
@[simp] theorem State.emit_partNo (s : State) (o : Out) : (s.emit o).partNo = s.partNo := rfl
@[simp] theorem State.emit_up (s : State) (o : Out) : (s.emit o).up = s.up := rfl
@[simp] theorem State.emit_heel (s : State) (o : Out) : (s.emit o).heel = s.heel := rfl
@[simp] theorem State.emit_start (s : State) (o : Out) : (s.emit o).start = s.start := rfl
@[simp] theorem State.emit_pins (s : State) (o : Out) : (s.emit o).pins = s.pins := rfl
@[simp] theorem State.emit_power (s : State) (o : Out) : (s.emit o).power = s.power := rfl
@[simp] theorem State.emit_post (s : State) (o : Out) : (s.emit o).post = s.post := rfl
@[simp] theorem State.emit_fw (s : State) (o : Out) : (s.emit o).fw = s.fw := rfl
@[simp] theorem State.emit_dict (s : State) (o : Out) : (s.emit o).dict = s.dict := rfl
@[simp] theorem State.emit_faults (s : State) (o : Out) : (s.emit o).faults = s.faults := rfl
@[simp] theorem State.emit_sessions (s : State) (o : Out) : (s.emit o).sessions = s.sessions := rfl
@[simp] theorem State.emit_handshakes (s : State) (o : Out) : (s.emit o).handshakes = s.handshakes := rfl
@[simp] theorem State.emit_orphans (s : State) (o : Out) : (s.emit o).orphans = s.orphans := rfl
@[simp] theorem State.emit_lastSid (s : State) (o : Out) : (s.emit o).lastSid = s.lastSid := rfl
@[simp] theorem State.emit_checks (s : State) (o : Out) : (s.emit o).checks = s.checks := rfl
@[simp] theorem State.emit_authFail (s : State) (o : Out) : (s.emit o).authFail = s.authFail := rfl
@[simp] theorem State.emit_mailboxes (s : State) (o : Out) : (s.emit o).mailboxes = s.mailboxes := rfl
@[simp] theorem State.emit_unheard (s : State) (o : Out) : (s.emit o).unheard = s.unheard := rfl
@[simp] theorem State.emit_noticeLost (s : State) (o : Out) : (s.emit o).noticeLost = s.noticeLost := rfl
@[simp] theorem State.emit_openReports (s : State) (o : Out) : (s.emit o).openReports = s.openReports := rfl
@[simp] theorem State.emit_peerSeen (s : State) (o : Out) : (s.emit o).peerSeen = s.peerSeen := rfl
@[simp] theorem State.emit_selfVerdict (s : State) (o : Out) : (s.emit o).selfVerdict = s.selfVerdict := rfl
@[simp] theorem State.emit_selfTime (s : State) (o : Out) : (s.emit o).selfTime = s.selfTime := rfl
@[simp] theorem State.emit_scentKey (s : State) (o : Out) : (s.emit o).scentKey = s.scentKey := rfl
@[simp] theorem State.emit_scentCtr (s : State) (o : Out) : (s.emit o).scentCtr = s.scentCtr := rfl
@[simp] theorem State.emit_diagSel (s : State) (o : Out) : (s.emit o).diagSel = s.diagSel := rfl
@[simp] theorem State.emit_corrected (s : State) (o : Out) : (s.emit o).corrected = s.corrected := rfl
@[simp] theorem State.emit_uncorrected (s : State) (o : Out) : (s.emit o).uncorrected = s.uncorrected := rfl
@[simp] theorem State.emit_patrolHbm (s : State) (o : Out) : (s.emit o).patrolHbm = s.patrolHbm := rfl
@[simp] theorem State.emit_patrolLp (s : State) (o : Out) : (s.emit o).patrolLp = s.patrolLp := rfl
@[simp] theorem State.emit_parts (s : State) (o : Out) : (s.emit o).parts = s.parts := rfl
@[simp] theorem State.emit_cells (s : State) (o : Out) : (s.emit o).cells = s.cells := rfl
@[simp] theorem State.emit_ports (s : State) (o : Out) : (s.emit o).ports = s.ports := rfl
@[simp] theorem State.emit_msgs (s : State) (o : Out) : (s.emit o).msgs = s.msgs := rfl
@[simp] theorem State.emit_mem (s : State) (o : Out) : (s.emit o).mem = s.mem := rfl
@[simp] theorem State.emit_damaged (s : State) (o : Out) : (s.emit o).damaged = s.damaged := rfl
@[simp] theorem State.emit_draws (s : State) (o : Out) : (s.emit o).draws = s.draws := rfl
@[simp] theorem State.emit_free (s : State) (o : Out) : (s.emit o).free = s.free := rfl

/-! `setObj` -/

@[simp] theorem State.setObj_pending (s : State) (i j : Nat) (v : Bytes) : (s.setObj i j v).pending = s.pending := rfl
@[simp] theorem State.setObj_partNo (s : State) (i j : Nat) (v : Bytes) : (s.setObj i j v).partNo = s.partNo := rfl
@[simp] theorem State.setObj_up (s : State) (i j : Nat) (v : Bytes) : (s.setObj i j v).up = s.up := rfl
@[simp] theorem State.setObj_heel (s : State) (i j : Nat) (v : Bytes) : (s.setObj i j v).heel = s.heel := rfl
@[simp] theorem State.setObj_start (s : State) (i j : Nat) (v : Bytes) : (s.setObj i j v).start = s.start := rfl
@[simp] theorem State.setObj_pins (s : State) (i j : Nat) (v : Bytes) : (s.setObj i j v).pins = s.pins := rfl
@[simp] theorem State.setObj_power (s : State) (i j : Nat) (v : Bytes) : (s.setObj i j v).power = s.power := rfl
@[simp] theorem State.setObj_post (s : State) (i j : Nat) (v : Bytes) : (s.setObj i j v).post = s.post := rfl
@[simp] theorem State.setObj_fw (s : State) (i j : Nat) (v : Bytes) : (s.setObj i j v).fw = s.fw := rfl
@[simp] theorem State.setObj_faults (s : State) (i j : Nat) (v : Bytes) : (s.setObj i j v).faults = s.faults := rfl
@[simp] theorem State.setObj_sessions (s : State) (i j : Nat) (v : Bytes) : (s.setObj i j v).sessions = s.sessions := rfl
@[simp] theorem State.setObj_handshakes (s : State) (i j : Nat) (v : Bytes) : (s.setObj i j v).handshakes = s.handshakes := rfl
@[simp] theorem State.setObj_orphans (s : State) (i j : Nat) (v : Bytes) : (s.setObj i j v).orphans = s.orphans := rfl
@[simp] theorem State.setObj_lastSid (s : State) (i j : Nat) (v : Bytes) : (s.setObj i j v).lastSid = s.lastSid := rfl
@[simp] theorem State.setObj_checks (s : State) (i j : Nat) (v : Bytes) : (s.setObj i j v).checks = s.checks := rfl
@[simp] theorem State.setObj_authFail (s : State) (i j : Nat) (v : Bytes) : (s.setObj i j v).authFail = s.authFail := rfl
@[simp] theorem State.setObj_mailboxes (s : State) (i j : Nat) (v : Bytes) : (s.setObj i j v).mailboxes = s.mailboxes := rfl
@[simp] theorem State.setObj_unheard (s : State) (i j : Nat) (v : Bytes) : (s.setObj i j v).unheard = s.unheard := rfl
@[simp] theorem State.setObj_noticeLost (s : State) (i j : Nat) (v : Bytes) : (s.setObj i j v).noticeLost = s.noticeLost := rfl
@[simp] theorem State.setObj_openReports (s : State) (i j : Nat) (v : Bytes) : (s.setObj i j v).openReports = s.openReports := rfl
@[simp] theorem State.setObj_peerSeen (s : State) (i j : Nat) (v : Bytes) : (s.setObj i j v).peerSeen = s.peerSeen := rfl
@[simp] theorem State.setObj_selfVerdict (s : State) (i j : Nat) (v : Bytes) : (s.setObj i j v).selfVerdict = s.selfVerdict := rfl
@[simp] theorem State.setObj_selfTime (s : State) (i j : Nat) (v : Bytes) : (s.setObj i j v).selfTime = s.selfTime := rfl
@[simp] theorem State.setObj_scentKey (s : State) (i j : Nat) (v : Bytes) : (s.setObj i j v).scentKey = s.scentKey := rfl
@[simp] theorem State.setObj_scentCtr (s : State) (i j : Nat) (v : Bytes) : (s.setObj i j v).scentCtr = s.scentCtr := rfl
@[simp] theorem State.setObj_diagSel (s : State) (i j : Nat) (v : Bytes) : (s.setObj i j v).diagSel = s.diagSel := rfl
@[simp] theorem State.setObj_corrected (s : State) (i j : Nat) (v : Bytes) : (s.setObj i j v).corrected = s.corrected := rfl
@[simp] theorem State.setObj_uncorrected (s : State) (i j : Nat) (v : Bytes) : (s.setObj i j v).uncorrected = s.uncorrected := rfl
@[simp] theorem State.setObj_patrolHbm (s : State) (i j : Nat) (v : Bytes) : (s.setObj i j v).patrolHbm = s.patrolHbm := rfl
@[simp] theorem State.setObj_patrolLp (s : State) (i j : Nat) (v : Bytes) : (s.setObj i j v).patrolLp = s.patrolLp := rfl
@[simp] theorem State.setObj_parts (s : State) (i j : Nat) (v : Bytes) : (s.setObj i j v).parts = s.parts := rfl
@[simp] theorem State.setObj_cells (s : State) (i j : Nat) (v : Bytes) : (s.setObj i j v).cells = s.cells := rfl
@[simp] theorem State.setObj_ports (s : State) (i j : Nat) (v : Bytes) : (s.setObj i j v).ports = s.ports := rfl
@[simp] theorem State.setObj_msgs (s : State) (i j : Nat) (v : Bytes) : (s.setObj i j v).msgs = s.msgs := rfl
@[simp] theorem State.setObj_mem (s : State) (i j : Nat) (v : Bytes) : (s.setObj i j v).mem = s.mem := rfl
@[simp] theorem State.setObj_damaged (s : State) (i j : Nat) (v : Bytes) : (s.setObj i j v).damaged = s.damaged := rfl
@[simp] theorem State.setObj_draws (s : State) (i j : Nat) (v : Bytes) : (s.setObj i j v).draws = s.draws := rfl
@[simp] theorem State.setObj_free (s : State) (i j : Nat) (v : Bytes) : (s.setObj i j v).free = s.free := rfl
@[simp] theorem State.setObj_out (s : State) (i j : Nat) (v : Bytes) : (s.setObj i j v).out = s.out := rfl

/-! `pass` -/

@[simp] theorem State.pass_pending (s : State) (d : Nat) : (s.pass d).pending = s.pending := rfl
@[simp] theorem State.pass_partNo (s : State) (d : Nat) : (s.pass d).partNo = s.partNo := rfl
@[simp] theorem State.pass_start (s : State) (d : Nat) : (s.pass d).start = s.start := rfl
@[simp] theorem State.pass_pins (s : State) (d : Nat) : (s.pass d).pins = s.pins := rfl
@[simp] theorem State.pass_power (s : State) (d : Nat) : (s.pass d).power = s.power := rfl
@[simp] theorem State.pass_post (s : State) (d : Nat) : (s.pass d).post = s.post := rfl
@[simp] theorem State.pass_fw (s : State) (d : Nat) : (s.pass d).fw = s.fw := rfl
@[simp] theorem State.pass_dict (s : State) (d : Nat) : (s.pass d).dict = s.dict := rfl
@[simp] theorem State.pass_faults (s : State) (d : Nat) : (s.pass d).faults = s.faults := rfl
@[simp] theorem State.pass_sessions (s : State) (d : Nat) : (s.pass d).sessions = s.sessions := rfl
@[simp] theorem State.pass_handshakes (s : State) (d : Nat) : (s.pass d).handshakes = s.handshakes := rfl
@[simp] theorem State.pass_orphans (s : State) (d : Nat) : (s.pass d).orphans = s.orphans := rfl
@[simp] theorem State.pass_lastSid (s : State) (d : Nat) : (s.pass d).lastSid = s.lastSid := rfl
@[simp] theorem State.pass_checks (s : State) (d : Nat) : (s.pass d).checks = s.checks := rfl
@[simp] theorem State.pass_authFail (s : State) (d : Nat) : (s.pass d).authFail = s.authFail := rfl
@[simp] theorem State.pass_mailboxes (s : State) (d : Nat) : (s.pass d).mailboxes = s.mailboxes := rfl
@[simp] theorem State.pass_unheard (s : State) (d : Nat) : (s.pass d).unheard = s.unheard := rfl
@[simp] theorem State.pass_noticeLost (s : State) (d : Nat) : (s.pass d).noticeLost = s.noticeLost := rfl
@[simp] theorem State.pass_openReports (s : State) (d : Nat) : (s.pass d).openReports = s.openReports := rfl
@[simp] theorem State.pass_peerSeen (s : State) (d : Nat) : (s.pass d).peerSeen = s.peerSeen := rfl
@[simp] theorem State.pass_selfVerdict (s : State) (d : Nat) : (s.pass d).selfVerdict = s.selfVerdict := rfl
@[simp] theorem State.pass_selfTime (s : State) (d : Nat) : (s.pass d).selfTime = s.selfTime := rfl
@[simp] theorem State.pass_scentKey (s : State) (d : Nat) : (s.pass d).scentKey = s.scentKey := rfl
@[simp] theorem State.pass_scentCtr (s : State) (d : Nat) : (s.pass d).scentCtr = s.scentCtr := rfl
@[simp] theorem State.pass_diagSel (s : State) (d : Nat) : (s.pass d).diagSel = s.diagSel := rfl
@[simp] theorem State.pass_corrected (s : State) (d : Nat) : (s.pass d).corrected = s.corrected := rfl
@[simp] theorem State.pass_uncorrected (s : State) (d : Nat) : (s.pass d).uncorrected = s.uncorrected := rfl
@[simp] theorem State.pass_patrolHbm (s : State) (d : Nat) : (s.pass d).patrolHbm = s.patrolHbm := rfl
@[simp] theorem State.pass_patrolLp (s : State) (d : Nat) : (s.pass d).patrolLp = s.patrolLp := rfl
@[simp] theorem State.pass_parts (s : State) (d : Nat) : (s.pass d).parts = s.parts := rfl
@[simp] theorem State.pass_cells (s : State) (d : Nat) : (s.pass d).cells = s.cells := rfl
@[simp] theorem State.pass_ports (s : State) (d : Nat) : (s.pass d).ports = s.ports := rfl
@[simp] theorem State.pass_msgs (s : State) (d : Nat) : (s.pass d).msgs = s.msgs := rfl
@[simp] theorem State.pass_mem (s : State) (d : Nat) : (s.pass d).mem = s.mem := rfl
@[simp] theorem State.pass_damaged (s : State) (d : Nat) : (s.pass d).damaged = s.damaged := rfl
@[simp] theorem State.pass_draws (s : State) (d : Nat) : (s.pass d).draws = s.draws := rfl
@[simp] theorem State.pass_free (s : State) (d : Nat) : (s.pass d).free = s.free := rfl
@[simp] theorem State.pass_out (s : State) (d : Nat) : (s.pass d).out = s.out := rfl

/-! Accessors after an update of another part of the state -/

@[simp] theorem State.setPart_cell (s : State) (p : PartIx) (x : Partition) (d : CellRef) : (s.setPart p x).cell d = s.cell d := rfl
@[simp] theorem State.setPart_port (s : State) (p : PartIx) (x : Partition) (m : PortIx) : (s.setPart p x).port m = s.port m := rfl
@[simp] theorem State.setPart_obj (s : State) (p : PartIx) (x : Partition) (k l : Nat) : (s.setPart p x).obj k l = s.obj k l := rfl
@[simp] theorem State.setPart_num (s : State) (p : PartIx) (x : Partition) (k l : Nat) : (s.setPart p x).num k l = s.num k l := rfl
@[simp] theorem State.setPart_pobj (s : State) (p : PartIx) (x : Partition) (q : PartIx) (l : Nat) : (s.setPart p x).pobj q l = s.pobj q l := rfl
@[simp] theorem State.setPart_pnum (s : State) (p : PartIx) (x : Partition) (q : PartIx) (l : Nat) : (s.setPart p x).pnum q l = s.pnum q l := rfl
@[simp] theorem State.setPart_owner (s : State) (p : PartIx) (x : Partition) (k : Fin 16) : (s.setPart p x).owner k = s.owner k := rfl
@[simp] theorem State.setPart_ownsCol (s : State) (p : PartIx) (x : Partition) (q : PartIx) (k : Nat) : (s.setPart p x).ownsCol q k = s.ownsCol q k := rfl
@[simp] theorem State.setPart_colsOf (s : State) (p : PartIx) (x : Partition) (q : PartIx) : (s.setPart p x).colsOf q = s.colsOf q := rfl
@[simp] theorem State.setPart_cellsOf (s : State) (p : PartIx) (x : Partition) (q : PartIx) : (s.setPart p x).cellsOf q = s.cellsOf q := rfl
@[simp] theorem State.setPart_jobTag (s : State) (p : PartIx) (x : Partition) (q : PartIx) : (s.setPart p x).jobTag q = s.jobTag q := rfl
@[simp] theorem State.setPart_ns (s : State) (p : PartIx) (x : Partition) : (s.setPart p x).ns = s.ns := rfl
@[simp] theorem State.setPart_heelNow (s : State) (p : PartIx) (x : Partition) : (s.setPart p x).heelNow = s.heelNow := rfl
@[simp] theorem State.setCell_part (s : State) (c : CellRef) (x : Cell) (q : PartIx) : (s.setCell c x).part q = s.part q := rfl
@[simp] theorem State.setCell_port (s : State) (c : CellRef) (x : Cell) (m : PortIx) : (s.setCell c x).port m = s.port m := rfl
@[simp] theorem State.setCell_obj (s : State) (c : CellRef) (x : Cell) (k l : Nat) : (s.setCell c x).obj k l = s.obj k l := rfl
@[simp] theorem State.setCell_num (s : State) (c : CellRef) (x : Cell) (k l : Nat) : (s.setCell c x).num k l = s.num k l := rfl
@[simp] theorem State.setCell_pobj (s : State) (c : CellRef) (x : Cell) (q : PartIx) (l : Nat) : (s.setCell c x).pobj q l = s.pobj q l := rfl
@[simp] theorem State.setCell_pnum (s : State) (c : CellRef) (x : Cell) (q : PartIx) (l : Nat) : (s.setCell c x).pnum q l = s.pnum q l := rfl
@[simp] theorem State.setCell_owner (s : State) (c : CellRef) (x : Cell) (k : Fin 16) : (s.setCell c x).owner k = s.owner k := rfl
@[simp] theorem State.setCell_ownsCol (s : State) (c : CellRef) (x : Cell) (q : PartIx) (k : Nat) : (s.setCell c x).ownsCol q k = s.ownsCol q k := rfl
@[simp] theorem State.setCell_colsOf (s : State) (c : CellRef) (x : Cell) (q : PartIx) : (s.setCell c x).colsOf q = s.colsOf q := rfl
@[simp] theorem State.setCell_cellsOf (s : State) (c : CellRef) (x : Cell) (q : PartIx) : (s.setCell c x).cellsOf q = s.cellsOf q := rfl
@[simp] theorem State.setCell_jobTag (s : State) (c : CellRef) (x : Cell) (q : PartIx) : (s.setCell c x).jobTag q = s.jobTag q := rfl
@[simp] theorem State.setCell_ns (s : State) (c : CellRef) (x : Cell) : (s.setCell c x).ns = s.ns := rfl
@[simp] theorem State.setCell_heelNow (s : State) (c : CellRef) (x : Cell) : (s.setCell c x).heelNow = s.heelNow := rfl
@[simp] theorem State.setPort_part (s : State) (n : PortIx) (x : Port) (q : PartIx) : (s.setPort n x).part q = s.part q := rfl
@[simp] theorem State.setPort_cell (s : State) (n : PortIx) (x : Port) (d : CellRef) : (s.setPort n x).cell d = s.cell d := rfl
@[simp] theorem State.setPort_obj (s : State) (n : PortIx) (x : Port) (k l : Nat) : (s.setPort n x).obj k l = s.obj k l := rfl
@[simp] theorem State.setPort_num (s : State) (n : PortIx) (x : Port) (k l : Nat) : (s.setPort n x).num k l = s.num k l := rfl
@[simp] theorem State.setPort_pobj (s : State) (n : PortIx) (x : Port) (q : PartIx) (l : Nat) : (s.setPort n x).pobj q l = s.pobj q l := rfl
@[simp] theorem State.setPort_pnum (s : State) (n : PortIx) (x : Port) (q : PartIx) (l : Nat) : (s.setPort n x).pnum q l = s.pnum q l := rfl
@[simp] theorem State.setPort_owner (s : State) (n : PortIx) (x : Port) (k : Fin 16) : (s.setPort n x).owner k = s.owner k := rfl
@[simp] theorem State.setPort_ownsCol (s : State) (n : PortIx) (x : Port) (q : PartIx) (k : Nat) : (s.setPort n x).ownsCol q k = s.ownsCol q k := rfl
@[simp] theorem State.setPort_colsOf (s : State) (n : PortIx) (x : Port) (q : PartIx) : (s.setPort n x).colsOf q = s.colsOf q := rfl
@[simp] theorem State.setPort_cellsOf (s : State) (n : PortIx) (x : Port) (q : PartIx) : (s.setPort n x).cellsOf q = s.cellsOf q := rfl
@[simp] theorem State.setPort_jobTag (s : State) (n : PortIx) (x : Port) (q : PartIx) : (s.setPort n x).jobTag q = s.jobTag q := rfl
@[simp] theorem State.setPort_ns (s : State) (n : PortIx) (x : Port) : (s.setPort n x).ns = s.ns := rfl
@[simp] theorem State.setPort_heelNow (s : State) (n : PortIx) (x : Port) : (s.setPort n x).heelNow = s.heelNow := rfl
@[simp] theorem State.emit_part (s : State) (o : Out) (q : PartIx) : (s.emit o).part q = s.part q := rfl
@[simp] theorem State.emit_cell (s : State) (o : Out) (d : CellRef) : (s.emit o).cell d = s.cell d := rfl
@[simp] theorem State.emit_port (s : State) (o : Out) (m : PortIx) : (s.emit o).port m = s.port m := rfl
@[simp] theorem State.emit_obj (s : State) (o : Out) (k l : Nat) : (s.emit o).obj k l = s.obj k l := rfl
@[simp] theorem State.emit_num (s : State) (o : Out) (k l : Nat) : (s.emit o).num k l = s.num k l := rfl
@[simp] theorem State.emit_pobj (s : State) (o : Out) (q : PartIx) (l : Nat) : (s.emit o).pobj q l = s.pobj q l := rfl
@[simp] theorem State.emit_pnum (s : State) (o : Out) (q : PartIx) (l : Nat) : (s.emit o).pnum q l = s.pnum q l := rfl
@[simp] theorem State.emit_owner (s : State) (o : Out) (k : Fin 16) : (s.emit o).owner k = s.owner k := rfl
@[simp] theorem State.emit_ownsCol (s : State) (o : Out) (q : PartIx) (k : Nat) : (s.emit o).ownsCol q k = s.ownsCol q k := rfl
@[simp] theorem State.emit_colsOf (s : State) (o : Out) (q : PartIx) : (s.emit o).colsOf q = s.colsOf q := rfl
@[simp] theorem State.emit_cellsOf (s : State) (o : Out) (q : PartIx) : (s.emit o).cellsOf q = s.cellsOf q := rfl
@[simp] theorem State.emit_jobTag (s : State) (o : Out) (q : PartIx) : (s.emit o).jobTag q = s.jobTag q := rfl
@[simp] theorem State.emit_ns (s : State) (o : Out) : (s.emit o).ns = s.ns := rfl
@[simp] theorem State.emit_heelNow (s : State) (o : Out) : (s.emit o).heelNow = s.heelNow := rfl
@[simp] theorem State.setObj_part (s : State) (i j : Nat) (v : Bytes) (q : PartIx) : (s.setObj i j v).part q = s.part q := rfl
@[simp] theorem State.setObj_cell (s : State) (i j : Nat) (v : Bytes) (d : CellRef) : (s.setObj i j v).cell d = s.cell d := rfl
@[simp] theorem State.setObj_port (s : State) (i j : Nat) (v : Bytes) (m : PortIx) : (s.setObj i j v).port m = s.port m := rfl
@[simp] theorem State.setObj_ns (s : State) (i j : Nat) (v : Bytes) : (s.setObj i j v).ns = s.ns := rfl
@[simp] theorem State.setObj_heelNow (s : State) (i j : Nat) (v : Bytes) : (s.setObj i j v).heelNow = s.heelNow := rfl
@[simp] theorem State.pass_part (s : State) (d : Nat) (q : PartIx) : (s.pass d).part q = s.part q := rfl
@[simp] theorem State.pass_cell (s : State) (d : Nat) (r : CellRef) : (s.pass d).cell r = s.cell r := rfl
@[simp] theorem State.pass_port (s : State) (d : Nat) (m : PortIx) : (s.pass d).port m = s.port m := rfl
@[simp] theorem State.pass_obj (s : State) (d : Nat) (k l : Nat) : (s.pass d).obj k l = s.obj k l := rfl
@[simp] theorem State.pass_num (s : State) (d : Nat) (k l : Nat) : (s.pass d).num k l = s.num k l := rfl
@[simp] theorem State.pass_pobj (s : State) (d : Nat) (q : PartIx) (l : Nat) : (s.pass d).pobj q l = s.pobj q l := rfl
@[simp] theorem State.pass_pnum (s : State) (d : Nat) (q : PartIx) (l : Nat) : (s.pass d).pnum q l = s.pnum q l := rfl
@[simp] theorem State.pass_owner (s : State) (d : Nat) (k : Fin 16) : (s.pass d).owner k = s.owner k := rfl
@[simp] theorem State.pass_ownsCol (s : State) (d : Nat) (q : PartIx) (k : Nat) : (s.pass d).ownsCol q k = s.ownsCol q k := rfl
@[simp] theorem State.pass_colsOf (s : State) (d : Nat) (q : PartIx) : (s.pass d).colsOf q = s.colsOf q := rfl
@[simp] theorem State.pass_cellsOf (s : State) (d : Nat) (q : PartIx) : (s.pass d).cellsOf q = s.cellsOf q := rfl
@[simp] theorem State.pass_jobTag (s : State) (d : Nat) (q : PartIx) : (s.pass d).jobTag q = s.jobTag q := rfl

/-! Accessors after an update of the same part of the state -/

@[simp] theorem State.part_setPart_same (s : State) (p : PartIx) (x : Partition) : (s.setPart p x).part p = x := by
  simp [State.part, State.setPart]

theorem State.part_setPart_of_ne (s : State) (p q : PartIx) (x : Partition) (h : q ≠ p) : (s.setPart p x).part q = s.part q := by
  have : p.val ≠ q.val := fun e => h (Fin.ext e.symm)
  simp [State.part, State.setPart, this]

/-- Cells of different references stand at different places. -/
theorem CellRef.ix_inj {c d : CellRef} (h : c.ix = d.ix) : c = d := by
  have hv : c.row.val * 16 + c.col.val = d.row.val * 16 + d.col.val := congrArg Fin.val h
  have hc := c.col.isLt
  have hd := d.col.isLt
  cases c; cases d
  simp only [CellRef.mk.injEq, Fin.ext_iff] at hv ⊢
  omega

@[simp] theorem State.cell_setCell_same (s : State) (c : CellRef) (x : Cell) : (s.setCell c x).cell c = x := by
  simp [State.cell, State.setCell]

theorem State.cell_setCell_of_ne (s : State) (c d : CellRef) (x : Cell) (h : d ≠ c) : (s.setCell c x).cell d = s.cell d := by
  have : c.ix.val ≠ d.ix.val := fun e => h (CellRef.ix_inj (Fin.ext e)).symm
  simp [State.cell, State.setCell, this]

@[simp] theorem State.port_setPort_same (s : State) (n : PortIx) (x : Port) : (s.setPort n x).port n = x := by
  simp [State.port, State.setPort]

theorem State.port_setPort_of_ne (s : State) (n m : PortIx) (x : Port) (h : m ≠ n) : (s.setPort n x).port m = s.port m := by
  have : n.val ≠ m.val := fun e => h (Fin.ext e.symm)
  simp [State.port, State.setPort, this]

theorem State.modPart_eq (s : State) (p : PartIx) (f : Partition → Partition) : s.modPart p f = s.setPart p (f (s.part p)) := rfl
theorem State.modCell_eq (s : State) (c : CellRef) (f : Cell → Cell) : s.modCell c f = s.setCell c (f (s.cell c)) := rfl
theorem State.modPort_eq (s : State) (n : PortIx) (f : Port → Port) : s.modPort n f = s.setPort n (f (s.port n)) := rfl

/-- Setting a value twice keeps the last one. -/
theorem dictSet_same (k : Nat) (v w : Bytes) (l : List (Nat × Bytes)) : dictSet k w (dictSet k v l) = dictSet k w l := by
  induction l with
  | nil => simp [dictSet]
  | cons e es ih =>
    simp only [dictSet]
    split
    · simp [dictSet]
    · split
      · simp [dictSet]
      · rename_i h1 h2; simp [dictSet, h1, h2, ih]

/-- An object that has just been set holds its value. -/
theorem State.find_dictSet (k j : Nat) (v : Bytes) (l : List (Nat × Bytes)) :
    (dictSet k v l).find? (fun e => e.1 == j) = if k = j then some (k, v) else l.find? fun e => e.1 == j := by
  induction l with
  | nil => by_cases h : k = j <;> simp [dictSet, h]
  | cons e es ih =>
    simp only [dictSet]
    by_cases hj : k = j
    · subst hj
      split
      · simp
      · split
        · simp
        · rename_i h1 h2
          have : ¬ e.1 = k := fun he => h2 he.symm
          simp [this, ih]
    · split
      · simp [hj]
      · split
        · rename_i h2; subst h2; simp [List.find?_cons, hj]
        · simp [List.find?_cons, hj, ih]

theorem State.obj_setObj_same (s : State) (i j : Nat) (v : Bytes) : (s.setObj i j v).obj i j = v := by
  simp [State.obj, State.setObj, State.find_dictSet]

theorem State.obj_setObj_of_ne (s : State) (i j k l : Nat) (v : Bytes) (h : objKey i j ≠ objKey k l) :
    (s.setObj i j v).obj k l = s.obj k l := by
  simp [State.obj, State.setObj, State.find_dictSet, h]

end Sys2Proof.Machine
end

