-- ==== Sys2Proof/Laws/Engine.lean ====
section
/-!
SUPPORT. Laws of issue: what an instruction does that reaches an engine which can issue it.
-/

namespace Sys2Proof.Machine

@[simp] theorem Cell.eng_setEng_same (c : Cell) (e : Eng) (x : Engine) : (c.setEng e x).eng e = x := by cases e <;> rfl

@[simp] theorem Cell.setEng_setEng (c : Cell) (e : Eng) (x y : Engine) : (c.setEng e x).setEng e y = c.setEng e y := by cases e <;> rfl

@[simp] theorem Cell.setEng_eng (c : Cell) (e : Eng) : c.setEng e (c.eng e) = c := by cases e <;> rfl

@[simp] theorem Cell.setEng_txs (c : Cell) (e : Eng) (x : Engine) : (c.setEng e x).txs = c.txs := by cases e <;> rfl

@[simp] theorem Cell.setEng_staging (c : Cell) (e : Eng) (x : Engine) : (c.setEng e x).staging = c.staging := by cases e <;> rfl

@[simp] theorem State.setCell_cell (s : State) (c : CellRef) : s.setCell c (s.cell c) = s := by
  simp [State.setCell, State.cell]

@[simp] theorem State.setPart_part (s : State) (p : PartIx) : s.setPart p (s.part p) = s := by
  simp [State.setPart, State.part]

@[simp] theorem State.setCell_setCell (s : State) (c : CellRef) (x y : Cell) : (s.setCell c x).setCell c y = s.setCell c y := by
  simp [State.setCell, Vector.set_set]

@[simp] theorem State.setCell_ctx (s : State) (c : CellRef) (x : Cell) (p : PartIx) : (s.setCell c x).ctx p = s.ctx p := rfl

/-- The instruction at the head of a queue would hold its partition: only for want of a transaction number or of a place in the staging
buffer (R42, R123). -/
def holdOfOp (c : Cell) (o : EngOp) : Option HoldWhy :=
  let full := c.txs.toList.all (·.isSome)
  let stg := decide (stagingDepth ≤ c.staging.length)
  match o with
  | .drd _ | .drcv _ => if full then some .tx65 else none
  | .dwr _ | .dsnd _ => if full then some .tx65 else if stg then some .staging else none
  | _ => none

/-- An instruction that its engine does not put off or spill: a DPOP while the VXE may still pop comes after it (R44), and a LOOP on a full stack
leaves nothing known of it (R9, R27). -/
def Cell.lets (c : Cell) (e : Eng) (cyc : BitVec 32) : EngOp → Bool
  | .loop _ => decide ((c.eng e).loops.length < loopDepth)
  | .dpop _ => !c.vxe.canIssue cyc
  | _ => true

/-- A DPOP. -/
def isDpop : EngOp → Bool
  | .dpop _ => true
  | _ => false

theorem Cell.lets_loop {c : Cell} {e : Eng} {cyc : BitVec 32} {o : EngOp} (h : c.lets e cyc o = true) :
    (isLoop o && decide (loopDepth ≤ (c.eng e).loops.length)) = false := by
  cases o <;> simp_all [Cell.lets, isLoop]

theorem Cell.lets_dpop {c : Cell} {e : Eng} {cyc : BitVec 32} {o : EngOp} (h : c.lets e cyc o = true) :
    (isDpop o && c.vxe.canIssue cyc) = false := by
  cases o <;> simp_all [Cell.lets, isDpop]

theorem Cell.popWaits_false {c : Cell} {e : Eng} {cyc : BitVec 32} {o : EngOp} {b : Bool} (hf : c.fetch e = .op o b)
    (h : (isDpop o && c.vxe.canIssue cyc) = false) : c.popWaits e cyc = false := by
  unfold Cell.popWaits
  rw [hf]
  cases o <;> simp_all [isDpop]

theorem Cell.holdOf_queue (c : Cell) (e : Eng) (o : EngOp) (os : List EngOp) (h : (c.eng e).iq = o :: os) :
    c.holdOf e = holdOfOp c o := by
  simp only [Cell.holdOf, Cell.fetch, h, holdOfOp]
  cases o <;> rfl

/-- An instruction that reaches an engine with an empty queue stands at its head. -/
theorem State.engine_enqueues {s : State} {p : PartIx} {c : CellRef} {e : Eng} {o : EngOp} (h : s.ready p c e = true) :
    s.engine c e o = (s.setCell c ((s.cell c).setEng e { (s.cell c).eng e with iq := [o] })).issueHead p c e := by
  simp only [State.ready, Bool.and_eq_true, beq_iff_eq, List.isEmpty_iff] at h
  obtain ⟨⟨⟨⟨ho, hr⟩, hfr⟩, hc⟩, hq⟩ := h
  have hend : ((s.cell c).eng e).ended = false := by
    simp only [Engine.canIssue, Bool.and_eq_true, Bool.not_eq_true'] at hc; exact hc.1.1
  have cond : ¬ ((!(s.part p).runs) = true ∨ ((s.cell c).eng e).ended = true ∨ queueDepth ≤ ((s.cell c).eng e).iq.length) := by
    simp [hr, hend, hq, queueDepth]
  have enq : (s.modCell c fun k => let g := k.eng e; k.setEng e { g with iq := g.iq ++ [o] })
      = s.setCell c ((s.cell c).setEng e { (s.cell c).eng e with iq := [o] }) := by
    simp only [State.modCell_eq, hq, List.nil_append]
  unfold State.engine
  simp only [ho]
  rw [if_neg cond, enq]
  simp only [State.setCell_part, hfr, true_or, if_true]

/-- The head of a queue issues, if its engine is free, nothing holds it and its plan meets no fault (R25); nothing else changes but what
races with a new transaction (R122) and the seeds that the step has drawn (R264). -/
theorem State.issueHead_issues {s : State} {p : PartIx} {c : CellRef} {e : Eng} {o : EngOp} {g : Engine} (k : Cell)
    (hr : (s.part p).runs = true) (hfr : (s.part p).front = true) (hw : o.wf = true)
    (hk : s.cell c = k.setEng e g) (hg : g.iq = [o]) (hgk : { g with iq := [] } = k.eng e) (hcan : g.canIssue (s.part p).cyc = true)
    (hh : holdOfOp k o = none) (hy : k.lets e (s.part p).cyc o = true)
    (hf : (planOf (s.ctx p) ⟨c, e, g.pc, (s.part p).cyc⟩ k o).fault ⟨c, e, g.pc, (s.part p).cyc⟩ k = none) :
    s.issueHead p c e = .next ((({ s.setCell c (k.apply (s.ctx p) ⟨c, e, g.pc, (s.part p).cyc⟩
        (planOf (s.ctx p) ⟨c, e, g.pc, (s.part p).cyc⟩ k o)) with
      free := s.free + (planOf (s.ctx p) ⟨c, e, g.pc, (s.part p).cyc⟩ k o).draws }).noteRaces p c (k.setEng e g)).noteSeeds p c (k.setEng e g)) := by
  have hctx : { s.ctx p with free := s.free } = s.ctx p := rfl
  have hhold : (k.setEng e g).holdOf e = none := by
    rw [Cell.holdOf_queue _ e o [] (by simp [hg])]
    simpa [holdOfOp] using hh
  have hfetch : (k.setEng e g).fetch e = .op o true := by simp [Cell.fetch, hg, hw]
  have hcan' : g.canIssue (s.ctx p).cyc = true := hcan
  have hloops : g.loops = (k.eng e).loops := by rw [← hgk]
  have hfull : (isLoop o && decide (loopDepth ≤ g.loops.length)) = false := by rw [hloops]; exact Cell.lets_loop hy
  have hpop : (k.setEng e g).popWaits e (s.part p).cyc = false := by
    have hv : k.vxe.canIssue (s.part p).cyc = (k.setEng e g).vxe.canIssue (s.part p).cyc := by
      cases e <;> first | rfl | (show k.vxe.canIssue _ = g.canIssue _; rw [show k.vxe = k.eng .vxe from rfl, ← hgk]; rfl)
    refine Cell.popWaits_false hfetch ?_
    rw [← hv]; exact Cell.lets_dpop hy
  have horg : (⟨c, e, g.pc, (s.ctx p).cyc⟩ : Origin) = ⟨c, e, g.pc, (s.part p).cyc⟩ := rfl
  have hi : issueEng (s.ctx p) c ⟨k.setEng e g, [], s.free⟩ e
      = ⟨k.apply (s.ctx p) ⟨c, e, g.pc, (s.part p).cyc⟩ (planOf (s.ctx p) ⟨c, e, g.pc, (s.part p).cyc⟩ k o), [],
          s.free + (planOf (s.ctx p) ⟨c, e, g.pc, (s.part p).cyc⟩ k o).draws⟩ := by
    simp only [issueEng, Cell.eng_setEng_same, hcan', if_true, hfetch, Cell.setEng_setEng, hg, List.tail_cons, hgk,
      Cell.setEng_eng, Cell.issue, hctx, horg, hfull, Bool.not_false, Bool.and_self, hf]
  have hp (y : State) : (y.modPart p fun x => { x with pendFaults := x.pendFaults ++ [] }) = y := by
    rw [State.modPart_eq]; simp only [List.append_nil]; exact State.setPart_part y p
  unfold State.issueHead
  simp only [hr, hfr, hk, Cell.eng_setEng_same, hcan, Bool.not_true, Bool.false_eq_true, or_self, if_false, hpop, hhold, Option.isSome_none, hctx,
    hi, hp, done]

/-- Issue of a well-formed instruction by a free engine: the cell does everything its plan says (R25), and nothing else changes but what
races with a new transaction (R122) and the seeds that the step has drawn (R264). -/
theorem State.engine_issues {s : State} {p : PartIx} {c : CellRef} {e : Eng} {o : EngOp} (h : s.ready p c e = true) (hw : o.wf = true)
    (hh : holdOfOp (s.cell c) o = none) (hy : (s.cell c).lets e (s.part p).cyc o = true)
    (hf : (planOf (s.ctx p) (s.org p c e) (s.cell c) o).fault (s.org p c e) (s.cell c) = none) :
    s.engine c e o = .next ((({ s.setCell c ((s.cell c).apply (s.ctx p) (s.org p c e) (planOf (s.ctx p) (s.org p c e) (s.cell c) o)) with
      free := s.free + (planOf (s.ctx p) (s.org p c e) (s.cell c) o).draws }).noteRaces p c
        ((s.cell c).setEng e { (s.cell c).eng e with iq := [o] })).noteSeeds p c ((s.cell c).setEng e { (s.cell c).eng e with iq := [o] })) := by
  rw [State.engine_enqueues h]
  simp only [State.ready, Bool.and_eq_true, beq_iff_eq, List.isEmpty_iff] at h
  obtain ⟨⟨⟨⟨ho, hr⟩, hfr⟩, hc⟩, hq⟩ := h
  have hgk : { { (s.cell c).eng e with iq := [o] } with iq := [] } = (s.cell c).eng e := by
    cases hE : (s.cell c).eng e; simp only [hE] at hq; simp [hq]
  have main := State.issueHead_issues (s := s.setCell c ((s.cell c).setEng e { (s.cell c).eng e with iq := [o] })) (p := p)
    (c := c) (e := e) (o := o) (s.cell c) hr hfr hw (State.cell_setCell_same _ _ _) rfl hgk hc hh hy hf
  rw [main, State.setCell_setCell]
  rfl

/-- A cell that starts no transaction races with nothing. -/
theorem State.noteRaces_same (s : State) (p : PartIx) (c : CellRef) (before : Cell) (h : (s.cell c).txs = before.txs) :
    s.noteRaces p c before = s := by
  have step : ∀ (l : List (Fin 64)), l.foldl (fun s i =>
      match (s.cell c).txs[i] with
      | some t => if before.txs[i].isNone then s.noteRace p c i t else s
      | none => s) s = s := by
    intro l
    induction l with
    | nil => rfl
    | cons i l ih =>
      rw [List.foldl_cons]
      cases hi : (s.cell c).txs[i] with
      | none => exact ih
      | some t =>
        have : before.txs[i].isNone = false := by rw [← h, hi]; rfl
        simp only [this, Bool.false_eq_true, if_false]
        exact ih
  exact step _

@[simp] theorem Cell.setEng_drawn (c : Cell) (e : Eng) (x : Engine) : (c.setEng e x).drawn = c.drawn := by cases e <;> rfl

/-- A cell that draws by no entry of its own adds no seed to the step's. -/
theorem State.noteSeeds_same (s : State) (p : PartIx) (c : CellRef) (before : Cell) (h : (s.cell c).drawn = before.drawn) :
    s.noteSeeds p c before = s := by
  simp [State.noteSeeds, h]

/-! What a plan does to a cell -/

/-- Two cells differ in the tracking state of registers only: LAND and LIVE (R29). -/
structure Cell.tracks (k l : Cell) : Prop where
  rest : l = { k with a := l.a, wb := l.wb, pal := l.pal, v := l.v, m := l.m, p := l.p, s := l.s }
  same : k.sameValues l

theorem Cell.sameValues_refl (k : Cell) : k.sameValues k := ⟨rfl, rfl, rfl, rfl, rfl, rfl, rfl⟩

theorem Cell.sameValues_trans {k l n : Cell} (h : k.sameValues l) (h' : l.sameValues n) : k.sameValues n := by
  obtain ⟨a, b, c, d, e, f, g⟩ := h
  obtain ⟨a', b', c', d', e', f', g'⟩ := h'
  exact ⟨a'.trans a, b'.trans b, c'.trans c, d'.trans d, e'.trans e, f'.trans f, g'.trans g⟩

theorem Cell.tracks_refl (k : Cell) : k.tracks k := ⟨rfl, k.sameValues_refl⟩

theorem Cell.tracks_trans {k l n : Cell} (h : k.tracks l) (h' : l.tracks n) : k.tracks n :=
  ⟨by rw [h'.rest, h.rest], Cell.sameValues_trans h.same h'.same⟩

/-- A register file of which one register keeps its value keeps all values. -/
theorem map_val_wr {α : Type} {n w : Nat} (v : Vector (Reg α) n) (i : BitVec w) (r : Reg α) (hn : 2 ^ w ≤ n)
    (h : r.val = (rd v i hn).val) : (wr v i r hn).map (·.val) = v.map (·.val) := by
  ext j hj
  simp only [wr, Vector.getElem_map, Vector.getElem_set]
  split
  · rename_i e; subst e; simpa [rd] using h
  · rfl

@[simp] theorem rd_wr {α : Type} {n w : Nat} (v : Vector α n) (i j : BitVec w) (x : α) (hn : 2 ^ w ≤ n) :
    rd (wr v i x hn) j hn = if i = j then x else rd v j hn := by
  simp only [rd, wr, Vector.getElem_set, BitVec.toNat_inj]

theorem Cell.track_tracks (c : Cell) (r : RegName) (f : {α : Type} → Reg α → Reg α) (hf : ∀ {α : Type} (x : Reg α), (f x).val = x.val) :
    c.tracks (c.track r f) := by
  cases r <;> refine ⟨rfl, ?_⟩ <;> simp [Cell.sameValues, Cell.track, map_val_wr, hf]

theorem Cell.clearLive_tracks (c : Cell) (r : RegName) : c.tracks (c.clearLive r) :=
  c.track_tracks r (fun x => { x with live := false }) fun _ => rfl

theorem Cell.raiseLand_tracks (c : Cell) (r : RegName) (t : BitVec 32) : c.tracks (c.raiseLand r t) :=
  c.track_tracks r (fun x => { x with land := if x.land < t then t else x.land }) fun _ => rfl

theorem Cell.lastUses_tracks (us : List Use) (c : Cell) : c.tracks (c.lastUses us) := by
  induction us generalizing c with
  | nil => exact c.tracks_refl
  | cons u us ih =>
    simp only [Cell.lastUses]
    split
    · exact Cell.tracks_trans (c.clearLive_tracks u.reg) (ih _)
    · exact ih c

theorem Cell.raises_tracks (rs : List (RegName × BitVec 32)) (c : Cell) :
    c.tracks (rs.foldl (fun c r => c.raiseLand r.1 r.2) c) := by
  induction rs generalizing c with
  | nil => exact c.tracks_refl
  | cons r rs ih => exact Cell.tracks_trans (c.raiseLand_tracks r.1 r.2) (ih (c.raiseLand r.1 r.2))

/-- LAND never falls when a landing is scheduled (R29). -/
theorem Cell.landOf_raiseLand (c : Cell) (r q : RegName) (t : BitVec 32) : c.landOf q ≤ (c.raiseLand r t).landOf q := by
  cases r <;> cases q <;> simp only [Cell.raiseLand, Cell.track, Cell.landOf, rd_wr, BitVec.le_refl] <;> split <;>
    (try subst_vars) <;> (try exact BitVec.le_refl _) <;> split <;> (try exact BitVec.le_refl _) <;> (rename_i h; exact BitVec.le_of_lt h)

theorem Cell.landOf_raiseLand_self (c : Cell) (r : RegName) (t : BitVec 32) : t ≤ (c.raiseLand r t).landOf r := by
  cases r <;> simp only [Cell.raiseLand, Cell.track, Cell.landOf, rd_wr, if_true] <;> split <;>
    (try exact BitVec.le_refl _) <;> (rename_i h; exact BitVec.not_lt.1 h)

theorem Cell.landOf_raises (rs : List (RegName × BitVec 32)) (c : Cell) (q : RegName) :
    c.landOf q ≤ (rs.foldl (fun c r => c.raiseLand r.1 r.2) c).landOf q := by
  induction rs generalizing c with
  | nil => exact BitVec.le_refl _
  | cons r rs ih => exact BitVec.le_trans (c.landOf_raiseLand r.1 q r.2) (ih _)

theorem Cell.landOf_raises_mem (rs : List (RegName × BitVec 32)) (c : Cell) (r : RegName × BitVec 32) (h : r ∈ rs) :
    r.2 ≤ (rs.foldl (fun c r => c.raiseLand r.1 r.2) c).landOf r.1 := by
  induction rs generalizing c with
  | nil => cases h
  | cons x rs ih =>
    rcases List.mem_cons.1 h with rfl | h
    · exact BitVec.le_trans (c.landOf_raiseLand_self r.1 r.2) (Cell.landOf_raises rs _ r.1)
    · exact ih _ h

/-- What a plan without a pop, a transaction and a prefetch does to a cell. -/
structure Cell.applied (k l : Cell) (o : Origin) (pl : Plan) : Prop where
  frame : issued o.eng k { l with reports := k.reports, xpush := k.xpush }
  landings : l.landings = k.landings ++ pl.lands
  signals : l.signals = k.signals ++ pl.signals
  accesses : l.accesses = (k.accesses ++ (match pl.read with
    | some r => r.2.mapIdx fun j g => ⟨o.issued + BitVec.ofNat 32 j, g, o, .read k.nextStream⟩
    | none => [])) ++ pl.stores
  streams : l.streams = k.streams ++ (match pl.read with
    | some r => [⟨k.nextStream, o, r.1, r.2.length, []⟩]
    | none => [])
  txs : l.txs = k.txs
  reports : l.reports = k.reports ++ pl.report.toList
  xpush : l.xpush = if pl.xdie then some o.issued else k.xpush
  land : ∀ r ∈ pl.raises, r.2 ≤ l.landOf r.1
  engine : l.eng o.eng = (k.eng o.eng).flow o.issued pl.flow

theorem Cell.setEng_fields (c : Cell) (e : Eng) (g : Engine) :
    c.setEng e g = { c with mxe := (c.setEng e g).mxe, vxe := (c.setEng e g).vxe, dme := (c.setEng e g).dme, sqe := (c.setEng e g).sqe } := by
  cases e <;> rfl

theorem Cell.landOf_setEng (c : Cell) (e : Eng) (g : Engine) (q : RegName) : (c.setEng e g).landOf q = c.landOf q := by
  cases e <;> cases q <;> rfl

theorem Cell.eng_setEng_of_ne (c : Cell) (d e : Eng) (g : Engine) (h : d ≠ e) : (c.setEng e g).eng d = c.eng d := by
  cases d <;> cases e <;> first | rfl | exact absurd rfl h

/-- Engines of a cell are those of another of which only other fields differ. -/
theorem Cell.eng_congr {c d : Cell} (h1 : c.mxe = d.mxe) (h2 : c.vxe = d.vxe) (h3 : c.dme = d.dme) (h4 : c.sqe = d.sqe) (e : Eng) :
    c.eng e = d.eng e := by cases e <;> assumption

theorem Cell.apply_applied (k : Cell) (x : StepCtx) (o : Origin) (pl : Plan) (hp : pl.pop = none) (ht : pl.tx = none) (hs : pl.spf = none)
    (hd : pl.drawn = none) : k.applied (k.apply x o pl) o pl := by
  have tr := Cell.tracks_trans (Cell.lastUses_tracks pl.uses k) (Cell.raises_tracks pl.raises (k.lastUses pl.uses))
  have hl := fun r h => Cell.landOf_raises_mem pl.raises (k.lastUses pl.uses) r h
  unfold Cell.apply
  simp only [hp, ht, hs, hd, Cell.startTx, Option.toList_none, List.append_nil]
  generalize pl.raises.foldl (fun c r => c.raiseLand r.1 r.2) (k.lastUses pl.uses) = b at tr hl
  have hb := tr.rest
  have heng : ∀ e, b.eng e = k.eng e := fun e => by rw [hb]; cases e <;> rfl
  cases hr : pl.read with
  | none =>
    simp only [Cell.startRead]
    refine ⟨⟨?_, ?_, ?_⟩, ?_, ?_, ?_, ?_, ?_, ?_, ?_, ?_, ?_⟩
    · rw [Cell.setEng_fields]; exact tr.same
    · intro d hd
      refine (Cell.eng_congr (d := Cell.setEng _ o.eng _) rfl rfl rfl rfl d).trans ((Cell.eng_setEng_of_ne _ d o.eng _ hd).trans ?_)
      rw [← heng]; cases d <;> rfl
    · rw [Cell.setEng_fields]; rw [hb]
    · rw [Cell.setEng_fields]; show b.landings ++ _ = _; rw [hb]
    · rw [Cell.setEng_fields]; show b.signals ++ _ = _; rw [hb]
    · rw [Cell.setEng_fields]; show b.accesses ++ _ = _; rw [hb]; simp [hr]
    · rw [Cell.setEng_fields]; show b.streams = _; rw [hb]; simp [hr]
    · rw [Cell.setEng_fields]; show b.txs = _; rw [hb]
    · rw [Cell.setEng_fields]; show b.reports ++ _ = _; rw [hb]
    · rw [Cell.setEng_fields]; show (if _ then _ else b.xpush) = _; rw [hb]
    · intro r h; rw [Cell.landOf_setEng]; exact hl r h
    · rw [Cell.eng_setEng_same, ← heng]; cases o.eng <;> rfl
  | some rd =>
    simp only [Cell.startRead]
    refine ⟨⟨?_, ?_, ?_⟩, ?_, ?_, ?_, ?_, ?_, ?_, ?_, ?_, ?_⟩
    · rw [Cell.setEng_fields]; exact tr.same
    · intro d hd
      refine (Cell.eng_congr (d := Cell.setEng _ o.eng _) rfl rfl rfl rfl d).trans ((Cell.eng_setEng_of_ne _ d o.eng _ hd).trans ?_)
      rw [← heng]; cases d <;> rfl
    · rw [Cell.setEng_fields]; rw [hb]
    · rw [Cell.setEng_fields]; show b.landings ++ _ = _; rw [hb]
    · rw [Cell.setEng_fields]; show b.signals ++ _ = _; rw [hb]
    · rw [Cell.setEng_fields]; show (b.accesses ++ _) ++ _ = _; rw [hb]; simp [hr]
    · rw [Cell.setEng_fields]; show b.streams ++ _ = _; rw [hb]; simp [hr]
    · rw [Cell.setEng_fields]; show b.txs = _; rw [hb]
    · rw [Cell.setEng_fields]; show b.reports ++ _ = _; rw [hb]
    · rw [Cell.setEng_fields]; show (if _ then _ else b.xpush) = _; rw [hb]
    · intro r h; rw [Cell.landOf_setEng]; exact hl r h
    · rw [Cell.eng_setEng_same, ← heng]; cases o.eng <;> rfl

/-- Issue of an instruction that pops, transfers and prefetches nothing: its cell does what the plan says, and nothing else changes. -/
theorem State.engine_applied {s : State} {p : PartIx} {c : CellRef} {e : Eng} {o : EngOp} {pl : Plan} (h : s.ready p c e = true)
    (hw : o.wf = true) (hpl : planOf (s.ctx p) (s.org p c e) (s.cell c) o = pl) (hp : pl.pop = none) (ht : pl.tx = none)
    (hs : pl.spf = none) (hd : pl.drawn = none) (hh : holdOfOp (s.cell c) o = none) (hy : (s.cell c).lets e (s.part p).cyc o = true) (hf : pl.fault (s.org p c e) (s.cell c) = none) :
    ∃ t, s.engine c e o = .next t ∧ onlyCell c s t ∧ (s.cell c).applied (t.cell c) (s.org p c e) pl ∧ t.free = s.free + pl.draws := by
  subst hpl
  rw [State.engine_issues h hw hh hy hf]
  have ap := (s.cell c).apply_applied (s.ctx p) (s.org p c e) _ hp ht hs hd
  have dr : ((s.cell c).apply (s.ctx p) (s.org p c e) (planOf (s.ctx p) (s.org p c e) (s.cell c) o)).drawn = (s.cell c).drawn :=
by
    have h := congrArg Cell.drawn ap.frame.2.2; exact h
  rw [State.noteRaces_same, State.noteSeeds_same]
  · refine ⟨_, rfl, ?_, ?_, rfl⟩
    · simp [onlyCell, State.setCell, State.cell]
    · show (s.cell c).applied ((s.setCell c _).cell c) _ _
      rw [State.cell_setCell_same]; exact ap
  · show ((s.setCell c _).cell c).drawn = _
    rw [State.cell_setCell_same, Cell.setEng_drawn]; exact dr
  · show ((s.setCell c _).cell c).txs = _
    rw [State.cell_setCell_same, Cell.setEng_txs]; exact ap.txs

/-- A cell keeps its reports and the cycle of its last push across the dies where the plan names none. -/
theorem Cell.applied.plain {k l : Cell} {o : Origin} {pl : Plan} (h : k.applied l o pl) (hr : pl.report = none) (hx : pl.xdie = false) :
    issued o.eng k l := by
  have e1 : l.reports = k.reports := by rw [h.reports, hr]; simp
  have e2 : l.xpush = k.xpush := by rw [h.xpush, hx]; simp
  have := h.frame
  rw [← e1, ← e2] at this
  exact this

theorem signalAfter_eq (o : Origin) (sg : SigF) : sigOf o sg = signalAfter o sg := by
  simp [sigOf, sigAt, signalAfter, BitVec.toNat_eq]

/-- Issue of an instruction that lands values computed at once. -/
theorem State.engine_lands {s : State} {p : PartIx} {c : CellRef} {e : Eng} {o : EngOp} {sg : SigF} {us : List Use} {kill : Bool}
    {lat n : BitVec 32} {vals : List LandVal} (h : s.ready p c e = true) (hw : o.wf = true)
    (hpl : planOf (s.ctx p) (s.org p c e) (s.cell c) o = landing (s.org p c e) sg us kill lat n vals)
    (hh : holdOfOp (s.cell c) o = none) (hy : (s.cell c).lets e (s.part p).cyc o = true) (hu : (s.cell c).earlyUse (s.part p).cyc us = none) :
    ∃ t, s.engine c e o = .next t ∧ lands s t p c e sg kill lat n vals := by
  have hf : (landing (s.org p c e) sg us kill lat n vals).fault (s.org p c e) (s.cell c) = none := by
    have : (s.cell c).earlyUse (s.org p c e).issued us = none := hu
    simp [Plan.fault, landing, this]
  obtain ⟨t, h1, h2, h3, -⟩ := State.engine_applied h hw hpl rfl rfl rfl rfl hh hy hf
  refine ⟨t, h1, h2, h3.plain rfl rfl, h3.landings, ?_, ?_, ?_, ?_, h3.engine⟩
  · rw [h3.signals, ← signalAfter_eq]; rfl
  · intro v hv
    exact h3.land (v.reg, (s.org p c e).issued + lat) (by simp only [landing, List.mem_map]; exact ⟨v, hv, rfl⟩)
  · rw [h3.accesses]; simp [landing]
  · rw [h3.streams]; simp [landing]

/-- Issue of an instruction that reads granules into a sink. -/
theorem State.engine_reads {s : State} {p : PartIx} {c : CellRef} {e : Eng} {o : EngOp} {sg : SigF} {us : List Use} {pl : Plan}
    {dst : List (RegName × BitVec 32)} {ports : List PortKind} {sink : Sink} {gs : List (BitVec 14)} {n : BitVec 32}
    (h : s.ready p c e = true) (hw : o.wf = true)
    (hpl : planOf (s.ctx p) (s.org p c e) (s.cell c) o = { pl with flow := .next n })
    (hb : { pl with flow := .next 1, draws := 0 } = loading (s.org p c e) sg us dst ports sink gs)
    (hh : holdOfOp (s.cell c) o = none) (hy : (s.cell c).lets e (s.part p).cyc o = true) (hu : (s.cell c).earlyUse (s.part p).cyc us = none)
    (hport : ∀ k ∈ ports, (s.cell c).portHeld
      ⟨k, (s.part p).cyc, (s.part p).cyc + BitVec.ofNat 32 gs.length - 1, (s.part p).cyc⟩ = none) :
    ∃ t, s.engine c e o = .next t ∧ reads s t p c e sg sink gs dst n ∧ t.free = s.free + pl.draws := by
  have fields : pl.uses = us ∧ pl.pop = none ∧ pl.tx = none ∧ pl.spf = none ∧ pl.xdie = false ∧ pl.stores = [] ∧ pl.lands = []
      ∧ pl.read = some (sink, gs) ∧ pl.report = none ∧ pl.signals = sigOf (s.org p c e) sg
      ∧ pl.raises = dst.map (fun d => (d.1, (s.org p c e).issued + d.2))
      ∧ pl.ports = ports.map (fun k => ⟨k, (s.org p c e).issued, (s.org p c e).issued + BitVec.ofNat 32 gs.length - 1, (s.org p c e).issued⟩) ∧ pl.drawn = none := by
    have := hb; simp only [loading, Plan.mk.injEq] at this; simp [this]
  obtain ⟨f1, f2, f3, f4, f5, f6, f7, f8, f9, f10, f11, f12, f13⟩ := fields
  have hf : ({ pl with flow := .next n } : Plan).fault (s.org p c e) (s.cell c) = none := by
    have h1 : (s.cell c).earlyUse (s.org p c e).issued us = none := hu
    have h2 : (ports.map (fun k => (⟨k, (s.org p c e).issued, (s.org p c e).issued + BitVec.ofNat 32 gs.length - 1,
        (s.org p c e).issued⟩ : PortWindow))).findSome? (fun w => ((s.cell c).portHeld w).map fun v => (w.port, v)) = none := by
      rw [List.findSome?_eq_none_iff]
      intro w hw
      obtain ⟨k, hk, rfl⟩ := List.mem_map.1 hw
      simpa [State.org] using hport k hk
    simp only [Plan.fault, f1, f2, f3, f5, f12, h1, h2, Option.bind_none, Bool.false_eq_true, if_false]
  obtain ⟨t, h1, h2, h3, h4⟩ := State.engine_applied h hw hpl f2 f3 f4 f13 hh hy hf
  have hi := h3.plain f9 f5
  have hx : ({ t.cell c with xpush := (s.cell c).xpush } : Cell) = t.cell c := by
    have : (t.cell c).xpush = (s.cell c).xpush := by rw [h3.xpush]; simp [f5]
    rw [← this]
  refine ⟨t, h1, ⟨h2, by rw [hx]; exact hi, ?_, ?_, ?_, ?_, ?_, h3.engine⟩, h4⟩
  · rw [h3.streams]; simp [f8]
  · rw [h3.accesses]; simp [f8, f6]
  · rw [h3.signals, ← signalAfter_eq]; simp [f10]
  · intro d hd
    exact h3.land (d.1, (s.org p c e).issued + d.2) (by simp only [f11, List.mem_map]; exact ⟨d, hd, rfl⟩)
  · rw [h3.landings]; simp [f7]

/-- The head of a queue issues, holds or waits: the answer is a next state. -/
theorem State.issueHead_answers (s : State) (p : PartIx) (c : CellRef) (e : Eng) : ∃ t, s.issueHead p c e = .next t := by
  unfold State.issueHead
  by_cases h : (!(s.part p).runs) = true ∨ (!(s.part p).front) = true ∨ (!((s.cell c).eng e).canIssue (s.part p).cyc) = true
  · exact ⟨s, if_pos h⟩
  · by_cases w : (s.cell c).popWaits e (s.part p).cyc = true
    · exact ⟨_, (if_neg h).trans (if_pos w)⟩
    · by_cases k : ((s.cell c).holdOf e).isSome = true
      · exact ⟨_, (if_neg h).trans ((if_neg w).trans (if_pos k))⟩
      · exact ⟨_, (if_neg h).trans ((if_neg w).trans (if_neg k))⟩

/-- The command of an engine instruction always answers a next state. -/
theorem State.engine_answers (s : State) (c : CellRef) (e : Eng) (o : EngOp) : ∃ t, s.engine c e o = .next t := by
  unfold State.engine
  cases s.owner c.col with
  | none => exact ⟨s, rfl⟩
  | some p =>
    by_cases h : (!(s.part p).runs) = true ∨ ((s.cell c).eng e).ended = true ∨ queueDepth ≤ ((s.cell c).eng e).iq.length
    · exact ⟨s, if_pos h⟩
    · obtain ⟨t, ht⟩ := State.issueHead_answers _ p c e
      exact ⟨t, (if_neg h).trans ht⟩

end Sys2Proof.Machine
end

