-- ==== Sys2Proof/Laws/Memory.lean ====
section
/-!
SUPPORT. Laws of byte memories: the canonical form as a pairwise order, what reading a byte after a write or a clear gives, and that both
keep the canonical form.
-/

namespace Sys2Proof.Machine

/-- The canonical form: no listed zero, addresses strictly rising. -/
theorem Memory.wf_iff (m : Memory) :
    Memory.wf m = true ↔ (∀ c ∈ m, c.2 ≠ unlisted) ∧ m.Pairwise fun c d => c.1 < d.1 := by
  induction m with
  | nil => simp [Memory.wf]
  | cons c m ih =>
    cases m with
    | nil => simp [Memory.wf]
    | cons d m =>
      simp only [Memory.wf, Bool.and_eq_true, decide_eq_true_eq, bne_iff_ne, ih, List.mem_cons, List.pairwise_cons,
        forall_eq_or_imp]
      constructor
      · rintro ⟨⟨hc, hcd⟩, ⟨hd, hm⟩, hp, hr⟩
        exact ⟨⟨hc, hd, hm⟩, ⟨hcd, fun e he => Nat.lt_trans hcd (hp e he)⟩, hp, hr⟩
      · rintro ⟨⟨hc, hd, hm⟩, ⟨hcd, -⟩, hp, hr⟩
        exact ⟨⟨hc, hcd⟩, ⟨hd, hm⟩, hp, hr⟩

/-- The entries of a byte string list only its nonzero bytes, each at its own address. -/
theorem Memory.mem_entries (bs : Bytes) (a : Nat) (c : Host.Cell) :
    c ∈ Memory.entries a bs → c.2 ≠ unlisted ∧ a ≤ c.1 ∧ c.1 < a + bs.length := by
  induction bs generalizing a with
  | nil => simp [Memory.entries]
  | cons b bs ih =>
    intro h
    have tail : c ∈ Memory.entries (a + 1) bs → c.2 ≠ unlisted ∧ a ≤ c.1 ∧ c.1 < a + (b :: bs).length := fun h => by
      have := ih _ h
      simp only [List.length_cons]
      exact ⟨this.1, by omega, by omega⟩
    simp only [Memory.entries] at h
    split at h
    · exact tail h
    · rename_i hb
      rcases List.mem_cons.1 h with rfl | h
      · simp only [List.length_cons]; exact ⟨hb, by omega, by omega⟩
      · exact tail h

theorem Memory.entries_rising (bs : Bytes) (a : Nat) : (Memory.entries a bs).Pairwise fun c d => c.1 < d.1 := by
  induction bs generalizing a with
  | nil => simp [Memory.entries]
  | cons b bs ih =>
    simp only [Memory.entries]
    split
    · exact ih _
    · refine List.pairwise_cons.2 ⟨fun d hd => ?_, ih _⟩
      have := Memory.mem_entries bs (a + 1) d hd
      exact Nat.lt_of_succ_le this.2.1

/-- A write keeps the canonical form. -/
theorem Memory.write_wf (m : Memory) (a : Nat) (bs : Bytes) (h : Memory.wf m = true) : Memory.wf (Memory.write m a bs) = true := by
  rw [Memory.wf_iff] at h ⊢
  obtain ⟨h0, hp⟩ := h
  constructor
  · intro c hc
    simp only [Memory.write, List.mem_append, List.mem_filter] at hc
    rcases hc with (⟨hc, -⟩ | hc) | ⟨hc, -⟩
    · exact h0 c hc
    · exact (Memory.mem_entries bs a c hc).1
    · exact h0 c hc
  · simp only [Memory.write, List.append_assoc]
    refine List.pairwise_append.2 ⟨hp.filter _, List.pairwise_append.2 ⟨Memory.entries_rising bs a, hp.filter _, ?_⟩, ?_⟩
    · intro c hc d hd
      have := Memory.mem_entries bs a c hc
      simp only [List.mem_filter, decide_eq_true_eq] at hd
      omega
    · intro c hc d hd
      simp only [List.mem_filter, decide_eq_true_eq] at hc
      rcases List.mem_append.1 hd with hd | hd
      · have := Memory.mem_entries bs a d hd; omega
      · simp only [List.mem_filter, decide_eq_true_eq] at hd; omega

/-- A clear keeps the canonical form. -/
theorem Memory.clear_wf (m : Memory) (a n : Nat) (h : Memory.wf m = true) : Memory.wf (Memory.clear m a n) = true := by
  rw [Memory.wf_iff] at h ⊢
  obtain ⟨h0, hp⟩ := h
  constructor
  · intro c hc
    simp only [Memory.clear, List.mem_append, List.mem_filter] at hc
    rcases hc with ⟨hc, -⟩ | ⟨hc, -⟩ <;> exact h0 c hc
  · refine List.pairwise_append.2 ⟨hp.filter _, hp.filter _, ?_⟩
    intro c hc d hd
    simp only [List.mem_filter, decide_eq_true_eq] at hc hd
    omega

theorem Memory.nil_wf : Memory.wf [] = true := rfl

/-! Reading a byte -/

/-- A byte of a memory in two parts, by the side that its address lies on. -/
theorem Memory.byte_append (m n : Memory) (b : Nat) :
    Memory.byte (m ++ n) b = if m.any (fun c => c.1 == b) then Memory.byte m b else Memory.byte n b := by
  induction m with
  | nil => simp
  | cons c m ih =>
    simp only [Memory.byte, List.cons_append, List.find?_cons, List.any_cons] at ih ⊢
    by_cases h : c.1 == b
    · simp [h]
    · simp only [h, Bool.false_or]
      exact ih

theorem Memory.byte_of_no_entry (m : Memory) (b : Nat) (h : ∀ c ∈ m, c.1 ≠ b) : Memory.byte m b = unlisted := by
  have : m.find? (fun c => c.1 == b) = none := by
    rw [List.find?_eq_none]; intro c hc; simpa using h c hc
  simp [Memory.byte, this]

theorem Memory.byte_filter (m : Memory) (f : Host.Cell → Bool) (b : Nat) (h : ∀ c : Host.Cell, c.1 = b → f c = true) :
    Memory.byte (m.filter f) b = Memory.byte m b := by
  have : (m.filter f).find? (fun c => c.1 == b) = m.find? (fun c => c.1 == b) := by
    induction m with
    | nil => rfl
    | cons c m ih =>
      by_cases hc : c.1 = b
      · simp [h c hc, hc]
      · by_cases hf : f c
        · simp [hf, hc, ih]
        · simp [hf, hc, ih]
  simp [Memory.byte, this]

theorem Memory.byte_entries (bs : Bytes) (a b : Nat) :
    Memory.byte (Memory.entries a bs) b = if a ≤ b then bs.getD (b - a) unlisted else unlisted := by
  induction bs generalizing a with
  | nil => simp [Memory.entries, Memory.byte, unlisted]
  | cons x bs ih =>
    by_cases hx : x = unlisted
    · simp only [Memory.entries, hx, if_true, ih]
      by_cases h : a + 1 ≤ b
      · obtain ⟨k, rfl⟩ : ∃ k, b = a + 1 + k := ⟨b - (a + 1), by omega⟩
        rw [if_pos h, if_pos (by omega), show a + 1 + k - a = k + 1 by omega, show a + 1 + k - (a + 1) = k by omega]
        simp
      · by_cases hb : a ≤ b
        · obtain rfl : a = b := by omega
          simp
        · simp [h, hb]
    · simp only [Memory.entries, hx, if_false]
      by_cases hb : a = b
      · subst hb; simp [Memory.byte]
      · have : Memory.byte ((a, x) :: Memory.entries (a + 1) bs) b = Memory.byte (Memory.entries (a + 1) bs) b := by
          simp [Memory.byte, hb]
        rw [this, ih]
        by_cases h : a + 1 ≤ b
        · obtain ⟨k, rfl⟩ : ∃ k, b = a + 1 + k := ⟨b - (a + 1), by omega⟩
          rw [if_pos h, if_pos (by omega), show a + 1 + k - a = k + 1 by omega, show a + 1 + k - (a + 1) = k by omega]
          simp
        · rw [if_neg h, if_neg (by omega)]

/-- Read after write, of one byte: the byte written inside the range, what stood there before outside it. -/
theorem Memory.byte_write (m : Memory) (a : Nat) (bs : Bytes) (b : Nat) :
    Memory.byte (Memory.write m a bs) b =
      if a ≤ b ∧ b < a + bs.length then bs.getD (b - a) unlisted else Memory.byte m b := by
  simp only [Memory.write, List.append_assoc]
  by_cases h1 : b < a
  · rw [if_neg (by omega), Memory.byte_append]
    split
    · exact Memory.byte_filter m _ b fun c hc => by simp [hc, h1]
    · rename_i hn
      have none1 : ∀ c ∈ m, c.1 ≠ b := fun c hc he => hn (List.any_eq_true.2 ⟨c, List.mem_filter.2 ⟨hc, by simp [he, h1]⟩, by simp [he]⟩)
      rw [Memory.byte_of_no_entry m b none1]
      refine Memory.byte_of_no_entry _ b fun c hc he => ?_
      rcases List.mem_append.1 hc with hc | hc
      · have := Memory.mem_entries bs a c hc; omega
      · exact none1 c (List.mem_filter.1 hc).1 he
  · have side : ¬ ((m.filter (fun c => decide (c.1 < a))).any fun c => c.1 == b) = true := by
      simp only [List.any_eq_true, List.mem_filter, decide_eq_true_eq, beq_iff_eq, not_exists, not_and]
      rintro c ⟨-, hc⟩ rfl; exact h1 hc
    rw [Memory.byte_append, if_neg side, Memory.byte_append]
    by_cases h2 : b < a + bs.length
    · rw [if_pos (show a ≤ b ∧ b < a + bs.length from ⟨by omega, h2⟩)]
      split
      · rw [Memory.byte_entries, if_pos (by omega)]
      · rename_i hn
        have e : Memory.byte (Memory.entries a bs) b = unlisted := Memory.byte_of_no_entry _ b fun c hc he =>
          hn (List.any_eq_true.2 ⟨c, hc, by simp [he]⟩)
        rw [Memory.byte_entries, if_pos (by omega)] at e
        rw [e]
        refine Memory.byte_of_no_entry _ b fun c hc he => ?_
        simp only [List.mem_filter, decide_eq_true_eq] at hc
        omega
    · rw [if_neg (show ¬ (a ≤ b ∧ b < a + bs.length) by omega)]
      have : ¬ ((Memory.entries a bs).any fun c => c.1 == b) = true := by
        simp only [List.any_eq_true, beq_iff_eq, not_exists, not_and]
        rintro c hc rfl
        have := Memory.mem_entries bs a c hc; omega
      rw [if_neg this]
      exact Memory.byte_filter m _ b fun c hc => by simp only [decide_eq_true_eq, hc]; omega

/-- Read after clear, of one byte. -/
theorem Memory.byte_clear (m : Memory) (a n b : Nat) :
    Memory.byte (Memory.clear m a n) b = if a ≤ b ∧ b < a + n then unlisted else Memory.byte m b := by
  simp only [Memory.clear]
  by_cases h : a ≤ b ∧ b < a + n
  · rw [if_pos h]
    refine Memory.byte_of_no_entry _ b fun c hc he => ?_
    simp only [List.mem_append, List.mem_filter, decide_eq_true_eq] at hc
    omega
  · rw [if_neg h, Memory.byte_append]
    by_cases h1 : b < a
    · split
      · exact Memory.byte_filter m _ b fun c hc => by simp [hc, h1]
      · rename_i hn
        have none1 : ∀ c ∈ m, c.1 ≠ b := fun c hc he => hn (List.any_eq_true.2 ⟨c, List.mem_filter.2 ⟨hc, by simp [he, h1]⟩, by simp [he]⟩)
        rw [Memory.byte_of_no_entry m b none1]
        exact Memory.byte_of_no_entry _ b fun c hc he => none1 c (List.mem_filter.1 hc).1 he
    · have : ¬ ((m.filter (fun c => decide (c.1 < a))).any fun c => c.1 == b) = true := by
        simp only [List.any_eq_true, List.mem_filter, decide_eq_true_eq, beq_iff_eq, not_exists, not_and]
        rintro c ⟨-, hc⟩ rfl; exact h1 hc
      rw [if_neg this]
      exact Memory.byte_filter m _ b fun c hc => by simp only [decide_eq_true_eq, hc]; omega

/-- A read gives as many bytes as asked for. -/
theorem Memory.length_read (m : Memory) (a n : Nat) : (Memory.read m a n).length = n := by simp [Memory.read]

/-- The i-th byte of a read is the byte at its address. -/
theorem Memory.getD_read (m : Memory) (a n i : Nat) (h : i < n) : (Memory.read m a n).getD i 0 = Memory.byte m (a + i) := by
  have : Memory.byte (m.filter fun c => decide (a ≤ c.1) && decide (c.1 < a + n)) (a + i) = Memory.byte m (a + i) :=
    Memory.byte_filter m _ _ fun c hc => by simp only [hc, Bool.and_eq_true, decide_eq_true_eq]; omega
  simp [Memory.read, List.getD_eq_getElem?_getD, h, this]

/-- A read of what a write has just stored gives the bytes written. -/
theorem Memory.read_write (m : Memory) (a : Nat) (bs : Bytes) : Memory.read (Memory.write m a bs) a bs.length = bs := by
  apply List.ext_getElem (by simp [Memory.read])
  intro i h1 h2
  have h3 := Memory.getD_read (Memory.write m a bs) a bs.length i (by simpa [Memory.read] using h1)
  rw [Memory.byte_write, if_pos ⟨by omega, by omega⟩, show a + i - a = i by omega] at h3
  simpa [List.getD_eq_getElem?_getD, h1, h2] using h3

end Sys2Proof.Machine
end

