-- ==== Sys2Proof/Laws/Kept.lean ====
section
/-!
SUPPORT. Laws of the invariant: what one operation never does. `Kept s t` is what every operation of a command keeps between the state before
and the state after; each law carries it through one more operation.
-/

namespace Sys2Proof.Machine

/-- Between two states of one command: the queue and the part number stand, no fused SVN falls, and stored data stays in form. -/
structure Kept (s t : State) : Prop where
  pending : t.pending = s.pending
  partNo : t.partNo = s.partNo
  fuses : ∀ k : Fin 6, s.fw.svnFused[k] ≤ t.fw.svnFused[k]
  mem : Memory.wf s.mem = true → Memory.wf t.mem = true
  stores : (∀ c : CellRef, Memory.wf (s.cell c).store = true) → ∀ c : CellRef, Memory.wf (t.cell c).store = true
  dict : (s.dict.Pairwise fun a b => a.1 < b.1) → t.dict.Pairwise fun a b => a.1 < b.1

namespace Kept

variable {s t : State}

theorem refl (s : State) : Kept s s := ⟨rfl, rfl, fun _ => BitVec.le_refl _, id, id, id⟩

theorem trans {u : State} (h : Kept s t) (k : Kept t u) : Kept s u :=
  ⟨k.pending.trans h.pending, k.partNo.trans h.partNo, fun i => BitVec.le_trans (h.fuses i) (k.fuses i), k.mem ∘ h.mem, k.stores ∘ h.stores,
    k.dict ∘ h.dict⟩

theorem form (h : Kept s t) (f : s.inForm) : t.inForm := ⟨h.mem f.1, h.stores f.2.1, h.dict f.2.2⟩

/-- Writing other fields keeps it. -/
theorem others (h : Kept s t) {up heel start pins power post faults sessions handshakes orphans lastSid checks authFail mailboxes unheard
    noticeLost openReports peerSeen selfVerdict selfTime scentKey scentCtr diagSel corrected uncorrected patrolHbm patrolLp parts ports msgs damaged draws
    free out} :
    Kept s ⟨t.pending, t.partNo, up, heel, start, pins, power, post, t.fw, t.dict, faults, sessions, handshakes, orphans, lastSid, checks,
      authFail, mailboxes, unheard, noticeLost, openReports, peerSeen, selfVerdict, selfTime, scentKey, scentCtr, diagSel, corrected, uncorrected, patrolHbm,
      patrolLp, parts, t.cells, ports, msgs, t.mem, damaged, draws, free, out⟩ :=
  ⟨h.pending, h.partNo, h.fuses, h.mem, h.stores, h.dict⟩

theorem setPart (h : Kept s t) (p : PartIx) (x : Partition) : Kept s (t.setPart p x) := h.others
theorem modPart (h : Kept s t) (p : PartIx) (f : Partition → Partition) : Kept s (t.modPart p f) := h.others
theorem setPort (h : Kept s t) (n : PortIx) (x : Port) : Kept s (t.setPort n x) := h.others
theorem modPort (h : Kept s t) (n : PortIx) (f : Port → Port) : Kept s (t.modPort n f) := h.others
theorem emit (h : Kept s t) (o : Out) : Kept s (t.emit o) := h.others
theorem draw (h : Kept s t) (w : Nat) : Kept s (t.draw w).2 := h.others
theorem entropy (h : Kept s t) : Kept s t.entropy.2 := h.others

/-- A cell whose store is in form may replace any cell. -/
theorem setCell (h : Kept s t) (c : CellRef) (x : Cell) (hx : Memory.wf (t.cell c).store = true → Memory.wf x.store = true) :
    Kept s (t.setCell c x) :=
  ⟨h.pending, h.partNo, h.fuses, h.mem, fun f d => by
    by_cases e : d = c
    · subst e; rw [State.cell_setCell_same]; exact hx (h.stores f d)
    · rw [State.cell_setCell_of_ne _ _ _ _ e]; exact h.stores f d, h.dict⟩

theorem modCell (h : Kept s t) (c : CellRef) (f : Cell → Cell) (hf : ∀ k, Memory.wf k.store = true → Memory.wf (f k).store = true) :
    Kept s (t.modCell c f) := h.setCell c _ (hf _)

/-- A change of cells that leaves their stores alone. -/
theorem modCell_same (h : Kept s t) (c : CellRef) (f : Cell → Cell) (hf : ∀ k, (f k).store = k.store) : Kept s (t.modCell c f) :=
  h.modCell c f fun k hk => (hf k).symm ▸ hk

theorem foldl {α : Type} (f : State → α → State) (hf : ∀ t a, Kept t (f t a)) (l : List α) (h : Kept s t) : Kept s (l.foldl f t) := by
  induction l generalizing t with
  | nil => exact h
  | cons a l ih => exact ih (h.trans (hf t a))

/-- A fold over something that holds a state. -/
theorem foldl_via {α β : Type} (g : β → State) (f : β → α → β) (hf : ∀ b a, Kept (g b) (g (f b a))) (l : List α) (b : β) (h : Kept s (g b)) :
    Kept s (g (l.foldl f b)) := by
  induction l generalizing b with
  | nil => exact h
  | cons a l ih => exact ih _ (h.trans (hf b a))

/-- A fold that carries a state beside something else. -/
theorem foldl_fst {α β : Type} (f : State × β → α → State × β) (hf : ∀ r a, Kept r.1 (f r a).1) (l : List α) {b : β} (h : Kept s t) :
    Kept s (l.foldl f (t, b)).1 := by
  induction l generalizing t b with
  | nil => exact h
  | cons a l ih => exact ih (h.trans (hf (t, b) a))

theorem ite {c : Prop} [Decidable c] {u : State} (h : Kept s t) (k : Kept s u) : Kept s (if c then t else u) := by
  split <;> assumption

theorem modCells (h : Kept s t) (p : PartIx) (f : CellRef → Cell → Cell) (hf : ∀ c k, Memory.wf k.store = true → Memory.wf (f c k).store = true) :
    Kept s (t.modCells p f) := foldl _ (fun t c => (refl t).modCell c _ (hf c)) _ h

/-! Time -/

theorem pass (h : Kept s t) (d : Nat) : Kept s (t.pass d) := h.others
theorem passTo (h : Kept s t) (d : Nat) : Kept s (t.passTo d) := h.others
theorem passToHeel (h : Kept s t) (d : BitVec 64) : Kept s (t.passToHeel d) := ite (h.pass _) h
theorem idle (h : Kept s t) : Kept s t.idle := ite (h.pass _) h

/-! Objects -/

theorem dictSet_rising (k : Nat) (v : Bytes) (l : List (Nat × Bytes)) (h : l.Pairwise fun a b => a.1 < b.1) :
    (dictSet k v l).Pairwise fun a b => a.1 < b.1 := by
  have lower : ∀ (l : List (Nat × Bytes)) (e : Nat × Bytes), e ∈ dictSet k v l → e.1 = k ∨ e ∈ l := by
    intro l
    induction l with
    | nil => intro e he; simp only [dictSet, List.mem_singleton] at he; exact .inl (by rw [he])
    | cons a l ih =>
      intro e he
      simp only [dictSet] at he
      split at he
      · rcases List.mem_cons.1 he with rfl | he'
        · exact .inl rfl
        · exact .inr he'
      · split at he
        · rcases List.mem_cons.1 he with rfl | he'
          · exact .inl rfl
          · exact .inr (List.mem_cons_of_mem _ he')
        · rcases List.mem_cons.1 he with rfl | he'
          · exact .inr List.mem_cons_self
          · rcases ih e he' with h | h
            · exact .inl h
            · exact .inr (List.mem_cons_of_mem _ h)
  induction l with
  | nil => simp [dictSet]
  | cons a l ih =>
    simp only [dictSet]
    split
    · rename_i hk
      exact List.pairwise_cons.2 ⟨fun b hb => by
        rcases List.mem_cons.1 hb with rfl | hb
        · exact hk
        · exact Nat.lt_trans hk ((List.pairwise_cons.1 h).1 b hb), h⟩
    · split
      · rename_i hk
        exact List.pairwise_cons.2 ⟨fun b hb => hk ▸ (List.pairwise_cons.1 h).1 b hb, (List.pairwise_cons.1 h).2⟩
      · rename_i h1 h2
        refine List.pairwise_cons.2 ⟨fun b hb => ?_, ih (List.pairwise_cons.1 h).2⟩
        rcases lower l b hb with hb | hb
        · omega
        · exact (List.pairwise_cons.1 h).1 b hb

theorem setObj (h : Kept s t) (i j : Nat) (v : Bytes) : Kept s (t.setObj i j v) :=
  ⟨h.pending, h.partNo, h.fuses, h.mem, h.stores, fun f => dictSet_rising _ v _ (h.dict f)⟩

/-! Memory -/

theorem writeV (h : Kept s t) (p : PartIx) (a : Nat) (bs : Bytes) : Kept s (t.writeV p a bs) := by
  refine foldl _ (fun u i => ?_) _ h
  dsimp only
  split
  · exact ⟨rfl, rfl, fun _ => BitVec.le_refl _, Memory.write_wf _ _ _, id, id⟩
  · exact refl u

/-! Faults -/

theorem toLink (h : Kept s t) (l : Fin 2) (o : Out) : Kept s (t.toLink l o) := ite (h.emit _) h

theorem interrupt (h : Kept s t) (p : PartIx) (v : BitVec 2) : Kept s (t.interrupt p v) := h.toLink _ _

theorem pfInterrupt (h : Kept s t) (v : BitVec 2) : Kept s (t.pfInterrupt v) := ite (h.toLink _ _) ((h.toLink _ _).toLink _ _)

theorem emitFrame (h : Kept s t) (f : Frame) : Kept s (t.emitFrame f) := by
  unfold State.emitFrame
  split
  · split
    · exact h.emit _
    · exact h
  · exact h.emit _

theorem sendNotice (h : Kept s t) (x : Session) (n : Notice) : Kept s (t.sendNotice x n) := by
  unfold State.sendNotice
  split
  · exact (h.emitFrame _).emitFrame _
  · exact h.emitFrame _

theorem notify (h : Kept s t) (k : BitVec 16) (b : Bytes) : Kept s (t.notify k b) := by
  unfold State.notify
  split
  · have step : Kept s (t.sessions.foldl (fun s x => if x.notify then s.sendNotice x ⟨x.noticeSeq + 1, k, b⟩ else s) t) :=
      foldl _ (fun u x => ite ((refl u).sendNotice _ _) (refl u)) _ h
    exact step.others
  · exact h.others

theorem armTimer (h : Kept s t) (b : Fin 50) : Kept s (t.armTimer b) := by unfold State.armTimer; split <;> exact h.others

theorem faultIrq (h : Kept s t) (b : Nat) : Kept s (t.faultIrq b) :=
  foldl _ (fun u _ => ite ((refl u).interrupt _ _) (refl u)) _ (h.pfInterrupt _)

theorem latchBit (h : Kept s t) (b : Fin 50) (f : Bool) : Kept s (t.latchBit b f) :=
  ((armTimer (t := { t with faults := _ }) h.others b).notify _ _).faultIrq _

theorem event (h : Kept s t) (e : ErrEvent) : Kept s (t.event e) := by
  unfold State.event
  split
  · exact h
  · exact ite h.others (latchBit (t := { t with faults := _ }) h.others _ _)

theorem schedule (h : Kept s t) (p : PartIx) (fs : List SchedFault) : Kept s (t.schedule p fs) := by
  unfold State.schedule
  split
  · exact h
  · exact foldl _ (fun u _ => (refl u).event _) _ (Kept.event (h.setPart p _) _)

end Kept

end Sys2Proof.Machine
end

