-- ==== Sys2Proof/Laws/Cell.lean ====
section
/-!
SUPPORT. Laws of a cell: what each phase of a cell cycle, and issue, leave of the cell store. Only bank accesses and fills write it (R36 to R40).
-/

namespace Sys2Proof.Machine

namespace Cell

@[simp] theorem setEng_store (c : Cell) (e : Eng) (x : Engine) : (c.setEng e x).store = c.store := by cases e <;> rfl

@[simp] theorem setQueue_store (c : Cell) (q : Side) (x : Queue) : (c.setQueue q x).store = c.store := by cases q <;> rfl

@[simp] theorem track_store (c : Cell) (r : RegName) (f : {α : Type} → Reg α → Reg α) : (c.track r f).store = c.store := by cases r <;> rfl

@[simp] theorem land_store (c : Cell) (t : BitVec 32) (v : LandVal) : (c.land t v).store = c.store := by cases v <;> rfl

theorem raiseTally_store {c d : Cell} {t : BitVec 6} {n : Nat} (h : c.raiseTally t n = some d) : d.store = c.store := by
  unfold raiseTally at h
  dsimp only at h
  split at h
  · cases h; rfl
  · cases h

@[simp] theorem lastUses_store (c : Cell) (us : List Use) : (c.lastUses us).store = c.store := by
  induction us generalizing c with
  | nil => rfl
  | cons u us ih =>
    rw [lastUses, ih]
    split
    · exact track_store _ _ _
    · rfl

/-- A walk over a list of things, each of which leaves the store. -/
theorem each_store {α : Type} (c : Cell) (xs : List α) (f : Cell → α → Cell × List SchedFault) (hf : ∀ k x, (f k x).1.store = k.store) :
    (c.each xs f).1.store = c.store := by
  have : ∀ (xs : List α) (r : Cell × List SchedFault), (xs.foldl (fun r x => let q := f r.1 x; (q.1, r.2 ++ q.2)) r).1.store = r.1.store := by
    intro xs
    induction xs with
    | nil => intro r; rfl
    | cons x xs ih => intro r; exact (ih _).trans (hf _ _)
  exact this xs (c, [])

theorem takeSignal_store (cyc : BitVec 32) (c : Cell) (s : Signal) : (c.takeSignal cyc s).1.store = c.store := by
  unfold takeSignal
  split
  · exact raiseTally_store ‹_›
  · rfl

theorem takeCompletion_store (cyc : BitVec 32) (c : Cell) (i : Fin 64) : (c.takeCompletion cyc i).1.store = c.store := by
  unfold takeCompletion
  split
  · rfl
  · split
    · rename_i c' h
      exact (raiseTally_store h : c'.store = c.store)
    · rfl

theorem takeCompletions_store (cyc : BitVec 32) (c : Cell) : (c.takeCompletions cyc).1.store = c.store :=
  each_store _ _ _ (takeCompletion_store cyc)

/-- Phase 1 leaves the store. -/
theorem phase1_store (cyc : BitVec 32) (c : Cell) : (c.phase1 cyc).1.store = c.store :=
  (takeCompletions_store cyc _).trans (each_store _ _ _ (takeSignal_store cyc))

theorem takeLandings_store (cyc : BitVec 32) (b : List RegName) (ls : List Landing) (c : Cell) : (c.takeLandings cyc b ls).1.store = c.store := by
  induction ls generalizing b c with
  | nil => rfl
  | cons l ls ih =>
    refine (ih _ _).trans ?_
    unfold takeLanding
    dsimp only
    split
    · rfl
    · exact land_store _ _ _

/-- Phase 2 leaves the store. -/
theorem phase2_store (cyc : BitVec 32) (c : Cell) : (c.phase2 cyc).1.store = c.store := takeLandings_store cyc _ _ _

theorem evalWait_store (ref : CellRef) (cyc : BitVec 32) (r : WaitEval) (e : Eng) : (evalWait ref cyc r e).cell.store = r.cell.store := by
  unfold evalWait
  dsimp only
  repeat' split
  all_goals first | rfl | exact setEng_store _ _ _

/-- Phase 3 leaves the store. -/
theorem phase3_store (ref : CellRef) (cyc : BitVec 32) (c : Cell) : (c.phase3 ref cyc).cell.store = c.store := by
  have : ∀ (l : List Eng) (r : WaitEval), (l.foldl (evalWait ref cyc) r).cell.store = r.cell.store := by
    intro l
    induction l with
    | nil => intro r; rfl
    | cons e l ih => intro r; exact (ih _).trans (evalWait_store ref cyc r e)
  exact this engines ⟨c, [], []⟩

@[simp] theorem request_store (c : Cell) (r : Refill) : (c.request r).store = c.store := by unfold request; split <;> rfl

theorem requestMisses_store (cyc : BitVec 32) (c m : Cell) : (c.requestMisses cyc m).store = c.store := by
  have : ∀ (l : List Eng) (k : Cell), (l.foldl (fun c e =>
      if (m.eng e).canIssue cyc then
        match m.fetch e with
        | .miss l => c.request ⟨e, l⟩
        | _ => c
      else c) k).store = k.store := by
    intro l
    induction l with
    | nil => intro k; rfl
    | cons e l ih =>
      intro k
      refine (ih _).trans ?_
      dsimp only
      repeat' split
      all_goals first | rfl | exact request_store _ _
  exact this engines c

@[simp] theorem startRead_store (c : Cell) (o : Origin) (r : Option (Sink × List (BitVec 14))) : (c.startRead o r).store = c.store := by
  cases r <;> rfl

@[simp] theorem startTx_store (c : Cell) (x : StepCtx) (t : Option Tx) : (c.startTx x t).store = c.store := by cases t <;> rfl

/-- What a plan does at issue leaves the store: stores wait for their bank cycle. -/
theorem apply_store (c : Cell) (x : StepCtx) (o : Origin) (p : Plan) : (c.apply x o p).store = c.store := by
  have raises : ∀ (l : List (RegName × BitVec 32)) (k : Cell), (l.foldl (fun c r => c.raiseLand r.1 r.2) k).store = k.store := by
    intro l
    induction l with
    | nil => intro k; rfl
    | cons r l ih => intro k; exact (ih _).trans (track_store _ _ _)
  unfold apply
  dsimp only
  rw [setEng_store]
  dsimp only
  split <;> split <;> simp [raises]

theorem issue_store {c d : Cell} {x : StepCtx} {o : Origin} {p : Plan} (h : c.issue x o p = .ok d) : d.store = c.store := by
  unfold issue at h
  split at h
  · cases h
  · cases h; exact apply_store _ _ _ _

theorem issueEng_store (x : StepCtx) (ref : CellRef) (r : IssueEval) (e : Eng) : (issueEng x ref r e).cell.store = r.cell.store := by
  unfold issueEng
  dsimp only
  split
  · split
    · rfl
    · exact setEng_store _ _ _
    · split
      · exact (issue_store ‹_›).trans (setEng_store _ _ _)
      · exact setEng_store _ _ _
  · rfl

/-- Phase 4 leaves the store. -/
theorem phase4_store (x : StepCtx) (ref : CellRef) (c : Cell) : (c.phase4 x ref).cell.store = c.store := by
  have : ∀ (l : List Eng) (r : IssueEval), (l.foldl (issueEng x ref) r).cell.store = r.cell.store := by
    intro l
    induction l with
    | nil => intro r; rfl
    | cons e l ih => intro r; exact (ih _).trans (issueEng_store x ref r e)
  refine (each_store _ _ _ fun k q => ?_).trans (this engines ⟨c, [], x.free⟩)
  exact setQueue_store _ _ _

theorem storeG_wf (c : Cell) (g : BitVec 14) (d : Granule) (en : BitVec 256) (h : Memory.wf c.store = true) :
    Memory.wf (c.storeG g d en).store = true := Memory.write_wf _ _ _ h

theorem finish_store (c : Cell) (st : Stream) (gs : List Granule) : (c.finish st gs).1.store = c.store := by
  unfold finish
  dsimp only
  repeat' split
  all_goals rfl

theorem feed_store (c : Cell) (cyc : BitVec 32) (id : Nat) (g : Granule) : (c.feed cyc id g).1.store = c.store := by
  unfold feed
  dsimp only
  split
  · rfl
  · split <;> split
    all_goals first | refine (finish_store _ _ _).trans ?_ | skip
    all_goals dsimp only; split <;> rfl

theorem bankAccess_wf (cyc : BitVec 32) (r : BankEval) (a : Access) (h : Memory.wf r.cell.store = true) :
    Memory.wf (bankAccess cyc r a).cell.store = true := by
  unfold bankAccess
  dsimp only
  split
  · exact h
  · split
    · exact h
    · split
      · exact storeG_wf _ _ _ _ h
      · dsimp only; rw [feed_store]; exact h

theorem fillWrite_wf (c : Cell) (f : FillItem) (h : Memory.wf c.store = true) : Memory.wf (c.fillWrite f).store = true := by
  unfold fillWrite
  dsimp only
  split <;> exact storeG_wf _ _ _ _ h

/-- A fold of steps that each keep the store in form. -/
theorem foldl_wf {α β : Type} (g : β → Cell) (f : β → α → β) (hf : ∀ b a, Memory.wf (g b).store = true → Memory.wf (g (f b a)).store = true)
    (l : List α) (b : β) (h : Memory.wf (g b).store = true) : Memory.wf (g (l.foldl f b)).store = true := by
  induction l generalizing b with
  | nil => exact h
  | cons a l ih => exact ih _ (hf b a h)

theorem fillPorts_wf (c : Cell) (busy : List (BitVec 5)) (h : Memory.wf c.store = true) : Memory.wf (c.fillPorts busy).store = true :=
  foldl_wf id _ (fun k f => fillWrite_wf k f) _ _ h

/-- Phase 5 keeps the store in form. -/
theorem phase5_wf (cyc : BitVec 32) (c : Cell) (h : Memory.wf c.store = true) : Memory.wf (c.phase5 cyc).cell.store = true :=
  fillPorts_wf _ _ (foldl_wf BankEval.cell _ (fun r a => bankAccess_wf cyc r a) _ _ h)

theorem arrive_store (c : Cell) (tx : Fin 64) (j : BitVec 12) (d : Granule) : (c.arrive tx j d).store = c.store := by
  unfold arrive
  repeat' split
  all_goals first | rfl | (dsimp only; split <;> rfl)

/-- A step boundary keeps the bytes of the store (R51). -/
theorem boundary_store (c : Cell) (entry : Eng → BitVec 32) : (c.boundary entry).store = c.store := rfl

end Cell

end Sys2Proof.Machine
end

