-- ==== Sys2Proof/Laws/Crypto.lean ====
section
/-!
SUPPORT. What AES-256-GCM seals, it opens.
-/

namespace Sys2Proof.Config

@[simp] theorem length_gcmCrypt (key : BitVec 256) (iv : BitVec 96) (text : Bytes) : (gcmCrypt key iv text).length = text.length := by
  simp [gcmCrypt]

@[simp] theorem gcmCrypt_gcmCrypt (key : BitVec 256) (iv : BitVec 96) (text : Bytes) : gcmCrypt key iv (gcmCrypt key iv text) = text := by
  apply List.ext_getElem <;> simp [gcmCrypt, BitVec.xor_assoc]

/-- Opening what was sealed gives the plaintext. -/
theorem gcmOpen_gcmSeal (key : BitVec 256) (iv : BitVec 96) (aad pt : Bytes) :
    gcmOpen key iv aad (gcmSeal key iv aad pt).1 (gcmSeal key iv aad pt).2 = some pt := by
  simp [gcmOpen, gcmSeal]

end Sys2Proof.Config
end

