-- ==== Sys2Proof/Laws/Links.lean ====
section
/-!
SUPPORT. Laws of the links: every shared operation of a port keeps the queue, the part number, the fuses and the form of stored data.
-/

namespace Sys2Proof.Machine.Kept

variable {s t : State}

/-! Links -/

theorem freeUnits (h : Kept s t) (n : PortIx) (i : Fin 9) (c : Chan) (u : Nat) : Kept s (t.freeUnits n i c u) := h.modPort _ _

theorem linkKey (h : Kept s t) (p : PartIx) (ph : Bool) : Kept s (t.linkKey p ph).2 := by
  unfold State.linkKey
  split
  · exact h
  · exact h.draw _

theorem nextCtr (h : Kept s t) (p : PartIx) (vc : Fin 4) : Kept s (t.nextCtr p vc).2 := by
  unfold State.nextCtr
  dsimp only
  exact h.modPart _ _

theorem sealItem (h : Kept s t) (n : PortIx) (q : BitVec 20) (f : ShortFlit) : Kept s (t.sealItem n q f).2 := by
  unfold State.sealItem
  split
  · exact (h.linkKey _ _).nextCtr _ _
  · exact h

theorem sealBody (h : Kept s t) (n : PortIx) (q : BitVec 20) (b : FlitBody) : Kept s (t.sealBody n q b).2 := by
  unfold State.sealBody
  split
  · exact h.sealItem _ _ _
  · exact h

theorem writeMem (h : Kept s t) (a : Nat) (bs : Bytes) : Kept s { t with mem := Memory.write t.mem a bs } :=
  ⟨h.pending, h.partNo, h.fuses, fun f => Memory.write_wf _ _ _ (h.mem f), h.stores, h.dict⟩

theorem spill (h : Kept s t) (n : PortIx) (i : Fin 9) : Kept s (t.spill n i) := by
  unfold State.spill
  split
  · exact h
  · exact (h.writeMem _ _).modPort _ _

theorem sendNew (h : Kept s t) (n : PortIx) (o : OutFlit) : Kept s (t.sendNew n o) := by
  have sealed := h.sealBody n (t.port n).txSeq o.body
  unfold State.sendNew
  generalize t.sealBody n (t.port n).txSeq o.body = b at sealed
  obtain ⟨body, u⟩ := b
  dsimp only at sealed ⊢
  have room (c : Prop) [Decidable c] (i : Fin 9) : Kept s (if c then u.spill n i else u) := ite (sealed.spill _ _) sealed
  split
  · exact freeUnits (((room _ _).setPort _ _).emit _) _ _ _ _
  · exact modPart (((room _ _).setPort _ _).emit _) _ _
  · exact ((room _ _).setPort _ _).emit _

theorem spillError (h : Kept s t) (n : PortIx) : Kept s (t.spillError n) := h.event _

theorem sendAgain (h : Kept s t) (n : PortIx) (r : ReplayEntry) : Kept s (t.sendAgain n r) :=
  ite ((spillError (t := { t with uncorrected := _ }) h.others n).modPort _ _) ((h.modPort _ _).emit _)

theorem enqueue (h : Kept s t) (n : PortIx) (o : OutFlit) : Kept s (t.enqueue n o) := h.modPort _ _

theorem sendShort (h : Kept s t) (n : PortIx) (f : ShortFlit) : Kept s (t.sendShort n f) := h.enqueue _ _

theorem sendTo (h : Kept s t) (p : PartIx) (d : BitVec 14) (f : ShortFlit) : Kept s (t.sendTo p d f) := by
  unfold State.sendTo
  split
  · exact h.sendShort _ _
  · exact h

theorem sendUp (h : Kept s t) (p : PartIx) (d : BitVec 14) (f : ShortFlit) : Kept s (t.sendUp p d f) := by
  unfold State.sendUp
  split
  · exact h.sendShort _ _
  · exact h

theorem freeTransit (h : Kept s t) (o : OutFlit) : Kept s (t.freeTransit o) := by
  unfold State.freeTransit
  split
  · exact h.freeUnits _ _ _ _
  · exact h

theorem dropWaiting (h : Kept s t) (n : PortIx) (g : OutFlit → Bool) : Kept s (t.dropWaiting n g) :=
  foldl _ (fun u o => (refl u).freeTransit o) _ (h.setPort _ _)

theorem sealNext (h : Kept s t) (p : PartIx) (vc : Fin 4) : Kept s (t.sealNext p vc).2 := (h.linkKey _ _).nextCtr _ _

theorem sendPart (h : Kept s t) (m : Message) (r : SealRec) (data : Bytes) : Kept s (t.sendPart m r data).2 := by
  unfold State.sendPart
  split
  · exact h
  · exact foldl _ (fun u _ => (refl u).enqueue _ _) _ h

theorem sendMessage (h : Kept s t) (p : PartIx) (vc : Fin 3) (n det : PortIx) (al : Option (BitVec 16 × BitVec 16)) (dst : BitVec 14)
    (cell : BitVec 8) (tag : BitVec 16) (data : Bytes) (fr : FlitFrom) : Kept s (t.sendMessage p vc n det al dst cell tag data fr) := by
  unfold State.sendMessage
  split
  · exact h
  · exact (h.sealNext _ _).sendPart _ _ _

theorem sendVc1 (h : Kept s t) (p : PartIx) (d : BitVec 14) (w : Nat) (b : Bytes) : Kept s (t.sendVc1 p d w b) := by
  unfold State.sendVc1
  split
  · exact h
  · exact h.sendMessage _ _ _ _ _ _ _ _ _ _

theorem report (h : Kept s t) (p : PartIx) (d : BitVec 14) (c : BitVec 4) (e : BitVec 32) : Kept s (t.report p d c e) := by
  unfold State.report
  dsimp only
  split
  · exact h
  · have noted (x : Partition) (l : List OpenReport) : Kept s { t.setPart p x with openReports := l } := (h.setPart p x).others
    exact ((emit (ite (noted _ _) ((noted _ _).sendUp _ _ _)) _).notify _ _).event _

theorem reportPort (h : Kept s t) (n : PortIx) (c : BitVec 4) : Kept s (t.reportPort n c) :=
  foldl _ (fun u _ => ite (foldl _ (fun v _ => (refl v).report _ _ _ _) _ (refl u)) (refl u)) _ h

theorem detourTo (h : Kept s t) (n m : PortIx) : Kept s (t.detourTo n m) := by
  refine foldl _ (fun u o => ?_) _ (h.setPort _ _)
  dsimp only
  split
  · exact (refl u).enqueue _ _
  · exact refl u

theorem portDown (h : Kept s t) (n : PortIx) (c : BitVec 8) : Kept s (t.portDown n c) := by
  have down (f : Port → Port) : Kept s ((List.finRange 24).foldl (fun u m => if m ≠ n ∧ (u.port m).state = 3 then u.detourTo n m else u)
      ((t.modPort n f).emit (.downPattern n))) := foldl _ (fun u m => ite ((refl u).detourTo n m) (refl u)) _ ((h.modPort _ _).emit _)
  exact ite ((down _).reportPort _ _) (down _)

theorem forgetUnits (h : Kept s t) (n : PortIx) : Kept s (t.forgetUnits n) := h.others

theorem portUp (h : Kept s t) (n : PortIx) (f : Bool) : Kept s (t.portUp n f) :=
  foldl _ (fun u m => ite ((refl u).detourTo m n) (refl u)) _ (ite ((h.setPort _ _).forgetUnits n) (h.setPort _ _))

theorem attemptFailed (h : Kept s t) (n : PortIx) : Kept s (t.attemptFailed n) := ite (h.setPort _ _) ((h.setPort _ _).event _)

theorem portCommit (h : Kept s t) (n : PortIx) (o : Bool) : Kept s (t.portCommit n o) := by
  unfold State.portCommit
  dsimp only
  repeat' split
  all_goals first | exact h | exact h.setPort _ _

theorem freeMsg (h : Kept s t) (vc : BitVec 2) (fs : List MsgFlit) : Kept s (t.freeMsg vc fs) :=
  foldl _ (fun u _ => ite (refl u) ((refl u).freeUnits _ _ _ _)) _ h

end Sys2Proof.Machine.Kept
end

