-- ==== Sys2Proof/Laws/Kennel.lean ====
section
/-!
SUPPORT. Laws of the Kennel, of memory errors and of VC2: their shared operations keep the queue, the part number, the fuses and the form of stored
data.
-/

namespace Sys2Proof.Machine.Kept

variable {s t : State}

/-! The Kennel -/

theorem modKen (h : Kept s t) (p : PartIx) (f : Kennel → Kennel) : Kept s (t.modKen p f) := h.modPart _ _
theorem setEntry (h : Kept s t) (p : PartIx) (e : Nat) (w : Entry) : Kept s (t.setEntry p e w) := h.modKen _ _
theorem modX (h : Kept s t) (p : PartIx) (e : Nat) (f : EntryX → EntryX) : Kept s (t.modX p e f) := h.modKen _ _

theorem writeHost (h : Kept s t) (p : PartIx) (a : BitVec 64) (b : Bytes) : Kept s (t.writeHost p a b) := h.toLink _ _

theorem flushCq (n : Nat) (h : Kept s t) (p : PartIx) : Kept s (t.flushCq n p) := by
  induction n generalizing t with
  | zero => exact h
  | succ n ih =>
    unfold State.flushCq
    dsimp only
    split
    · exact h
    · split
      · exact h
      · exact ih (((h.modKen _ _).writeHost _ _ _).interrupt _ _)

theorem pushRecord (h : Kept s t) (p : PartIx) (r : CqRecord) (d : Bool) : Kept s (t.pushRecord p r d) :=
  ite h (flushCq _ (h.modKen _ _) _)

theorem reply (h : Kept s t) (p : PartIx) (c tag e sid len : Nat) (d : Bool) : Kept s (t.reply p c tag e sid len d) := h.pushRecord _ _ _

theorem tellMembers (h : Kept s t) (p : PartIx) (m : KenMsg) : Kept s (t.tellMembers p m) := by
  unfold State.tellMembers
  split
  · refine foldl _ (fun u d => ?_) _ h
    split
    · exact refl u
    · split
      · exact refl u
      · exact (refl u).sendShort _ _
  · exact h

theorem faultStream (h : Kept s t) (p : PartIx) (e : Nat) : Kept s (t.faultStream p e) :=
  ite (((h.setEntry _ _ _).modX _ _ _).modKen _ _) h

/-! Memory errors -/

theorem memEvent (h : Kept s t) (p : PartIx) (a : Nat) (r : MemReader) : Kept s (t.memEvent p a r) :=
  event (t := { t with uncorrected := _ }) h.others _

theorem badSlot (h : Kept s t) (p : PartIx) (i : Fin 2) : Kept s (t.badSlot p i) := h.modPart _ _

theorem failIngest (h : Kept s t) (p : PartIx) (k : IngestKey) (e : Nat) : Kept s (t.failIngest p k e) :=
  ite ((h.setPart _ _).badSlot _ _) (ite ((h.setPart _ _).badSlot _ _) (h.setPart _ _))

theorem loseMirror (h : Kept s t) (p : PartIx) : Kept s (t.loseMirror p) := by
  unfold State.loseMirror
  dsimp only
  split
  · split
    · exact ((h.setPart _ _).event _).report _ _ _ _
    · exact (h.setPart _ _).event _
  · exact h

theorem failCopy (h : Kept s t) (p : PartIx) (e : BitVec 12) : Kept s (t.failCopy p e) := (h.modKen _ _).faultStream _ _

theorem metSlot (h : Kept s t) (p : PartIx) (a : Nat) (r : MemReader) : Kept s (t.metSlot p a r) := by
  have ev := h.memEvent p a r
  unfold State.metSlot
  generalize t.memEvent p a r = u at ev
  dsimp only
  split
  · exact ev.badSlot _ _
  · exact ev

theorem faultAt (h : Kept s t) (p : PartIx) (a : Nat) : Kept s (t.faultAt p a) := by
  unfold State.faultAt
  split
  · exact h.faultStream _ _
  · exact h

theorem metError (h : Kept s t) (p : PartIx) (a : Nat) (r : MemReader) : Kept s (t.metError p a r) := by
  have slot := h.metSlot p a r
  unfold State.metError
  generalize t.metSlot p a r = u at slot
  cases r with
  | drd c i => exact ite (slot.faultAt _ _) ((slot.faultAt _ _).modPart _ _)
  | refill c e => exact slot.modPart _ _
  | swapCopy i => exact (slot.badSlot _ _).modPart _ _
  | suspendCopy e => exact slot.failCopy _ _
  | resumeCopy e => exact slot.failCopy _ _
  | mirrorCopy =>
    refine ite ?_ ((slot.faultAt _ _).loseMirror _)
    split
    · exact slot.sendVc1 _ _ _ _
    · exact slot
  | ingestCopy k => exact slot.failIngest _ _ _
  | loader => exact slot
  | patrol => exact slot.faultAt _ _
  | vc2 => exact slot.faultAt _ _

theorem writeP (h : Kept s t) (p : PartIx) (a : Nat) (bs : Bytes) (r : MemReader) : Kept s (t.writeP p a bs r) := by
  unfold State.writeP
  refine writeV ?_ _ _ _
  have one (c : Prop) [Decidable c] (u : State) (hu : Kept s u) (x : Nat) : Kept s (if c then u.metError p x r else u) := by
    split
    · exact hu.metError _ _ _
    · exact hu
  exact one _ _ (one _ _ h _) _

theorem damage (h : Kept s t) (x : Nat) : Kept s (t.damage x) := ite h h.others

theorem showVerified (h : Kept s t) (p : PartIx) (k : IngestKey) : Kept s (t.showVerified p k) := by
  unfold State.showVerified
  split
  · exact ite h (h.modPart _ _)
  · exact h

theorem copiedTo (h : Kept s t) (p : PartIx) (i : Fin 2) (n : Nat) : Kept s (t.copiedTo p i n) := h.modPart _ _

/-- Chunks verified before their slot became LOADING are written. -/
theorem writeStarted (h : Kept s t) (p : PartIx) : Kept s (t.writeStarted p) := by
  refine foldl _ (fun u g => ?_) _ h
  split
  · exact refl u
  · dsimp only
    split
    · exact (refl u).modPart _ _
    · exact (foldl _ (fun v c => (refl v).writeP _ _ _ _) _ ((refl u).modPart _ _)).showVerified _ _

theorem slotsAtBoundary (h : Kept s t) (p : PartIx) : Kept s (t.slotsAtBoundary p) := (h.modPart _ _).writeStarted _
theorem slotsNow (h : Kept s t) (p : PartIx) : Kept s (t.slotsNow p) := ite h (h.slotsAtBoundary _)

theorem copySwap (h : Kept s t) (p : PartIx) (i : Fin 2) (n : Nat) : Kept s (t.copySwap p i n) := by
  unfold State.copySwap
  split
  · exact h
  · dsimp only
    split
    · exact h
    · split
      · exact ((h.writeP _ _ _ _).copiedTo _ _ _).metError _ _ _
      · exact (h.writeP _ _ _ _).copiedTo _ _ _

/-- Swaps under way go on before an access that could see how far they are. -/
theorem swapsProgress (h : Kept s t) (p : PartIx) (a : Nat) : Kept s (t.swapsProgress p a) := by
  refine ite (foldl _ (fun u i => ?_) _ h) h
  split
  · exact refl u
  · exact copySwap ((refl u).draw 64) _ _ _

/-- A physical range written with zeros. -/
theorem zeroPhys (h : Kept s t) (r : Nat × Nat) : Kept s (t.zeroPhys r) :=
  ⟨h.pending, h.partNo, h.fuses, fun f => Memory.clear_wf _ _ _ (h.mem f), h.stores, h.dict⟩

/-! VC2 -/

theorem flushVc2 (n : Nat) (h : Kept s t) (p : PartIx) : Kept s (t.flushVc2 n p) := by
  induction n generalizing t with
  | zero => exact h
  | succ n ih =>
    unfold State.flushVc2
    dsimp only
    split
    · exact h
    · split
      · exact h
      · exact ih (((h.setPart _ _).writeHost _ _ _).interrupt _ _)

theorem completeVc2 (h : Kept s t) (p : PartIx) (r : BitVec 512) : Kept s (t.completeVc2 p r) := flushVc2 _ (h.modPart _ _) _

theorem endVc2 (h : Kept s t) (p : PartIx) (i : BitVec 12) (a b c : Nat) : Kept s (t.endVc2 p i a b c) := by
  unfold State.endVc2
  split
  · exact h
  · exact (h.modPart _ _).completeVc2 _ _

theorem loseVc2 (h : Kept s t) (p : PartIx) : Kept s (t.loseVc2 p) := foldl _ (fun u _ => (refl u).endVc2 _ _ _ _ _) _ h

end Sys2Proof.Machine.Kept
end

