-- ==== Sys2Proof/Laws/Cycle.lean ====
section
/-!
SUPPORT. Laws of a partition's cell cycle: every shared operation of it keeps the queue, the part number, the fuses and the form of stored data.
-/

namespace Sys2Proof.Machine.Kept

variable {s t : State}

/-! Cells of a partition -/

theorem overCells (h : Kept s t) (p : PartIx) (f : CellRef → Cell → Cell × List SchedFault) (hf : ∀ c k, (f c k).1.store = k.store) :
    Kept s (t.overCells p f).1 :=
  foldl_fst _ (fun r c => (refl r.1).setCell c _ fun hk => (hf c _).symm ▸ hk) _ h

theorem auditStop (h : Kept s t) (p : PartIx) : Kept s (t.auditStop p) := ite (h.setPart _ _) h

/-- Cells replaced one after the other by cells that keep the store of the state the walk began with. -/
theorem setCells {α : Type} (h : Kept s t) (l : List α) (ref : α → CellRef) (f : State → α → Cell)
    (hf : ∀ u a, Memory.wf (u.cell (ref a)).store = true → Memory.wf (f u a).store = true) :
    Kept s (l.foldl (fun u a => u.setCell (ref a) (f u a)) t) := foldl _ (fun u a => (refl u).setCell _ _ (hf u a)) _ h

/-- Phase 3 evaluates each cell as it stands, so a cell put back has the store of a cell of the same state. -/
theorem putBack (h : Kept s t) (l : List (CellRef × WaitEval)) (hl : ∀ e ∈ l, e.2.cell.store = (t.cell e.1).store) :
    Kept s (l.foldl (fun u e => u.setCell e.1 e.2.cell) t) := by
  have main : ∀ (l : List (CellRef × WaitEval)) (u : State), Kept s u →
      ((∀ c : CellRef, Memory.wf (s.cell c).store = true) → ∀ e ∈ l, Memory.wf e.2.cell.store = true) →
      Kept s (l.foldl (fun u e => u.setCell e.1 e.2.cell) u) := by
    intro l
    induction l with
    | nil => exact fun u hu _ => hu
    | cons e l ih =>
      intro u hu hw
      refine ih _ ⟨hu.pending, hu.partNo, hu.fuses, hu.mem, fun f d => ?_, hu.dict⟩ fun f a ha => hw f a (List.mem_cons_of_mem _ ha)
      by_cases hd : d = e.1
      · subst hd; rw [State.cell_setCell_same]; exact hw f e List.mem_cons_self
      · rw [State.cell_setCell_of_ne _ _ _ _ hd]; exact hu.stores f d
  exact main l t h fun f e he => (hl e he).symm ▸ h.stores f e.1

theorem phase3 (h : Kept s t) (p : PartIx) : Kept s (t.phase3 p) := by
  unfold State.phase3
  dsimp only
  split
  · exact (foldl _ (fun u e => (refl u).modCell_same _ _ fun k => Cell.requestMisses_store _ _ _) _ h).modPart _ _
  · have back : Kept s (((t.cellsOf p).map fun c => (c, (t.cell c).phase3 c (t.part p).cyc)).foldl (fun u e => u.setCell e.1 e.2.cell) t) := by
      refine h.putBack _ fun e he => ?_
      obtain ⟨c, -, rfl⟩ := List.mem_map.1 he
      exact Cell.phase3_store _ _ _
    split
    · exact back.schedule _ _
    · exact (back.modPart _ _).auditStop _

/-- Phases 1 to 3. -/
theorem front (h : Kept s t) (p : PartIx) : Kept s (t.front p) := by
  unfold State.front
  dsimp only
  have one := overCells (h.modPart p fun x => { x with doneWrites := x.doneWrites ++ t.endingWrites p }) p (fun _ c => c.phase1 (t.part p).cyc)
    fun _ k => Cell.phase1_store _ k
  split
  · exact one.schedule _ _
  · have two := overCells one p (fun _ c => c.phase2 (t.part p).cyc) fun _ k => Cell.phase2_store _ k
    split
    · exact two.schedule _ _
    · exact two.phase3 p

theorem noteRace (h : Kept s t) (p : PartIx) (c : CellRef) (i : Fin 64) (x : Tx) : Kept s (t.noteRace p c i x) := by
  unfold State.noteRace
  dsimp only
  split
  · exact h
  · split
    · exact h.modCell_same _ _ fun k => rfl
    · split
      · refine foldl _ (fun u o => ?_) _ h
        exact (refl u).modCell_same o.1 _ fun k => rfl
      · exact h

theorem noteRaces (h : Kept s t) (p : PartIx) (c : CellRef) (b : Cell) : Kept s (t.noteRaces p c b) := by
  refine foldl _ (fun u i => ?_) _ h
  split
  · exact ite ((refl u).noteRace _ _ _ _) (refl u)
  · exact refl u

theorem noteSeeds (h : Kept s t) (p : PartIx) (c : CellRef) (b : Cell) : Kept s (t.noteSeeds p c b) := ite h (h.modPart _ _)

/-- The command of an engine instruction. -/
theorem engine (s : State) (c : CellRef) (e : Eng) (o : EngOp) {t : State} (h : s.engine c e o = .next t) : Kept s t := by
  have head (u : State) (p : PartIx) (hu : Kept s u) (h : u.issueHead p c e = .next t) : Kept s t := by
    unfold State.issueHead at h
    dsimp only at h
    split at h
    · cases h; exact hu
    · split at h
      · cases h; exact hu
      · split at h
        · cases h; exact hu.modPart _ _
        · have e' := Host.Outcome.next.inj h
          subst e'
          have issued := hu.setCell c (issueEng { u.ctx p with free := u.free } c ⟨u.cell c, [], u.free⟩ e).cell
            fun hk => (Cell.issueEng_store _ _ _ _).symm ▸ hk
          exact ((noteRaces (t := { State.setCell u c _ with free := _ }) issued.others _ _ _).noteSeeds _ _ _).modPart _ _
  unfold State.engine at h
  split at h
  · cases h; exact refl s
  · rename_i p _
    dsimp only at h
    split at h
    · cases h; exact refl s
    · have queued := (refl s).modCell_same c (fun k => k.setEng e { k.eng e with iq := (k.eng e).iq ++ [o] }) fun k => Cell.setEng_store _ _ _
      exact head _ p (ite queued (queued.front p)) h

theorem issueCells (h : Kept s t) (p : PartIx) : Kept s (t.issueCells p).state := by
  refine foldl_via Issued.state _ (fun r c => ?_) _ _ h
  dsimp only
  exact (noteRaces (t := { State.setCell r.state c _ with free := _ })
    (others ((refl r.state).setCell c _ fun hk => (Cell.phase4_store _ _ _).symm ▸ hk)) _ _ _).noteSeeds _ _ _

theorem push (h : Kept s t) (p : PartIx) (o : PushOut) : Kept s (t.push p o) := by
  unfold State.push
  split
  · exact ite (h.modCell_same _ _ fun k => Cell.setQueue_store _ _ _) h
  · exact h

theorem banks (h : Kept s t) (p : PartIx) : Kept s (t.banks p).1 :=
  foldl _ (fun u _ => (refl u).push _ _) _
    (foldl_fst _ (fun r c => (refl r.1).setCell c _ fun hk => Cell.phase5_wf _ _ hk) _ h)

theorem loadingWrite (h : Kept s t) (p : PartIx) (i : Fin 2) (a : Nat) : Kept s (t.loadingWrite p i a) :=
  ite h ((h.draw 2048).writeV _ _ _)

theorem noteWrite (h : Kept s t) (p : PartIx) (c : CellRef) (x : Tx) (a : Nat) (d : Granule) : Kept s (t.noteWrite p c x a d) := h.modPart _ _

theorem dwrGranule (h : Kept s t) (p : PartIx) (c : CellRef) (x : Tx) (j : Nat) (d : Granule) : Kept s (t.dwrGranule p c x j d) := by
  have swaps := h.swapsProgress p (x.mem.toNat + 256 * j)
  unfold State.dwrGranule
  dsimp only
  split
  · exact h
  · split
    · exact swaps.loadingWrite _ _ _
    · have written := (swaps.noteWrite p c x (x.mem.toNat + 256 * j) d).writeV p (x.mem.toNat + 256 * j) (bytesOf d)
      exact ite (written.modPart _ _) written

theorem sendTransfer (h : Kept s t) (p : PartIx) (c : CellRef) (i : Fin 64) (x : Tx) : Kept s (t.sendTransfer p c i x) := by
  have all : Kept s (if x.drained = x.g then t.modCell c fun k => { k with outbox := k.outbox.filter fun g => g.tx != i } else t) :=
    ite (h.modCell_same c _ fun _ => rfl) h
  unfold State.sendTransfer
  dsimp only
  split
  · exact all
  · split
    · split
      · exact all
      · refine (sendPart ?_ _ _ _).modCell_same c _ fun _ => rfl
        split
        · exact all
        · exact all.sealNext _ _
    · exact all

theorem unstage (h : Kept s t) (p : PartIx) (c : CellRef) : Kept s (t.unstage p c) := by
  have put (k : Cell) (hk : k.store = (t.cell c).store) : Kept s (t.setCell c k) := h.setCell c k fun w => hk.symm ▸ w
  unfold State.unstage
  dsimp only
  split
  · exact h
  · split
    · exact put _ rfl
    · split
      · split
        · exact h
        · refine dwrGranule (put _ ?_) _ _ _ _ _
          rfl
      · refine sendTransfer (put _ ?_) _ _ _ _
        rfl

theorem drainCell (h : Kept s t) (p : PartIx) (c : CellRef) : Kept s (t.drainCell p c) :=
  ite h (foldl _ (fun u _ => (refl u).unstage p c) _ (h.draw 7))

theorem drain (h : Kept s t) (p : PartIx) : Kept s (t.drain p) := foldl _ (fun u c => (refl u).drainCell p c) _ h

theorem freeWritten (h : Kept s t) (p : PartIx) (c : CellRef) : Kept s (t.freeWritten p c) := by
  refine foldl _ (fun u i => ?_) _ h
  dsimp only
  split
  · exact refl u
  · split
    · exact refl u
    · split
      · exact refl u
      · exact ((refl u).freeMsg _ _).others

theorem passCycles (h : Kept s t) (p : PartIx) : Kept s (t.passCycles p) := h.passToHeel _

theorem holdLimit (h : Kept s t) (p : PartIx) (x : HoldRec) : Kept s (t.holdLimit p x) := by
  unfold State.holdLimit
  split
  · exact h
  · dsimp only
    have ev := event (h.modPart p fun x => x.freeze .holdLimit)
    split
    · split
      · split
        · exact (ev _).report _ _ _ _
        · exact ev _
      · exact ev _
    · exact ev _

theorem heldCycle (h : Kept s t) (p : PartIx) (g : Bool) : Kept s (t.heldCycle p g) := by
  have run (x : Partition) : Kept s ((((((t.setPart p x).modCells p fun _ k => k.fillPorts []).cellsOf p).foldl (fun u c => u.freeWritten p c)
      ((t.setPart p x).modCells p fun _ k => k.fillPorts [])).drain p).passCycles p) :=
    ((foldl _ (fun u c => (refl u).freeWritten p c) _ ((h.setPart p x).modCells p _ fun _ k hk => Cell.fillPorts_wf k [] hk)).drain p).passCycles p
  unfold State.heldCycle
  dsimp only
  split
  · exact ite ((run _).holdLimit _ _) (run _)
  · exact run _

theorem governed (h : Kept s t) (p : PartIx) : Kept s (t.governed p) := by
  unfold State.governed
  dsimp only
  split
  · exact (h.front p).modPart _ _
  · have taken := overCells (h.modPart p fun x => { x with doneWrites := x.doneWrites ++ t.endingWrites p }) p (fun _ c => c.takeCompletions (t.part p).cyc)
      fun _ k => Cell.takeCompletions_store _ k
    exact ite taken (taken.schedule _ _)

end Sys2Proof.Machine.Kept
end

