-- ==== Sys2Proof/Tests/Slice0.lean ====
section
/-!
SUPPORT. Tests: engine words written out from their tables, ill-formed instructions for each check, single commands whose results stand in the
manual, and for each obligation with hypotheses a state and operands that meet them, clause by clause.
-/

namespace Sys2Proof.Tests

open Sys2Proof.Machine

set_option Elab.async false

/-! Words (Tables 4-1 to 4-17, 5-1 to 5-10), bit 63 first, a field at a time -/

theorem test_word_mpal : decodeWord .mxe 0b000001_000000_00000000_11_0_1_00000000000111_0011_100_0000000000000000000#64
    = some (.mpal ⟨⟨0, 0⟩, 3, false, true, 7, 3, 4⟩) := by decide
theorem test_word_vld : decodeWord .vxe 0b000001_000001_00000010_000101_1_00000000001000_100_11111111_1001_1_0000000#64
    = some (.vld ⟨⟨1, 2⟩, 5, true, 8, 4, -1, 9, true⟩) := by decide
theorem test_word_pset : decodeWord .dme 0b000001_000000_00000000_1111_0_1_00000000000000000000000000001010_000000#64
    = some (.pset ⟨⟨0, 0⟩, 15, false, true, 10⟩) := by decide
theorem test_word_simm : decodeWord .sqe 0b000010_000000_00000000_00111_1_0_11111111111111111111111111111111_00000#64
    = some (.simm ⟨⟨0, 0⟩, 7, true, false, -1⟩) := by decide
theorem test_word_loop : decodeWord .vxe 0b111001_000000_00000000_000000000000000000000100_0000000000000010_0000#64
    = some (.loop ⟨⟨0, 0⟩, 4, 2⟩) := by decide
theorem test_word_unlisted : decodeWord .mxe 0b000101_0000000000000000000000000000000000000000000000000000000000#64 = none := by decide
theorem test_word_reserved : decodeWord .mxe 0b000001_000000_00000000_11_0_1_00000000000111_0011_100_0000000000000000001#64 = none := by decide
theorem test_word_other_engine : decodeWord .mxe 0b011110_0000000000000000000000000000000000000000000000000000000000#64 = none := by decide

/-! Ill-formed instructions, one for each check of Legal -/

def sg0 : SigF := ⟨0, 0⟩

theorem test_ill_aix : (EngOp.mpal ⟨sg0, 0, false, true, 0, 0, 1⟩).wf = false := by decide
theorem test_ill_mpal_slot : (EngOp.mpal ⟨sg0, 0, false, false, 0, 1, 0⟩).wf = false := by decide
theorem test_ill_wfmt : (EngOp.mldw ⟨sg0, 0, false, 0, 0, false, 0, false, 0, 0⟩).wf = false := by decide
theorem test_ill_mldw_palette : (EngOp.mldw ⟨sg0, 0, false, 1, 1, false, 0, false, 0, 0⟩).wf = false := by decide
theorem test_ill_macc_pair : (EngOp.macc ⟨sg0, 0, true, false, 0, false, 0, 0, 2, 1, 0, 0⟩).wf = false := by decide
theorem test_ill_macc_slices : (EngOp.macc ⟨sg0, 0, true, false, 0, false, 127, 1, 1, 1, 0, 0⟩).wf = false := by decide
theorem test_ill_macc_kill : (EngOp.macc ⟨sg0, 0, false, true, 0, false, 0, 0, 1, 1, 0, 0⟩).wf = false := by decide
theorem test_ill_mdrn : (EngOp.mdrn ⟨sg0, 0, false, 4, false, 0, 0⟩).wf = false
    ∧ (EngOp.mdrn ⟨sg0, 0, false, 0, true, 0, 0⟩).wf = false := by decide
theorem test_ill_stride : (EngOp.vld ⟨sg0, 0, false, 0, 0, 1, 0, false⟩).wf = false := by decide
theorem test_ill_mask : (EngOp.vimm ⟨sg0, 0, false, 1, false, 0⟩).wf = false ∧ (EngOp.vimm ⟨sg0, 0, false, 0, true, 0⟩).wf = false := by decide
theorem test_ill_vadd_sub : (EngOp.vadd ⟨sg0, 0, false, 0, false, 0, false, 0, false, 0, 0, false, 1⟩).wf = false := by decide
theorem test_ill_vadd_vc : (EngOp.vadd ⟨sg0, 0, false, 0, false, 0, false, 1, false, 0, 0, false, 0⟩).wf = false := by decide
theorem test_ill_vsqrt_vb : (EngOp.vsqrt ⟨sg0, 0, false, 0, false, 1, false, 0, false, 0, 0, false, 0⟩).wf = false := by decide
theorem test_ill_fmt : (EngOp.vadd ⟨sg0, 0, false, 0, false, 0, false, 0, false, 2, 0, false, 0⟩).wf = false := by decide
theorem test_ill_vlane : (EngOp.vlane ⟨sg0, 0, false, 1, false, 0, false, 0, false, 0, 0, false, 4⟩).wf = false := by decide
theorem test_ill_vcmp : (EngOp.vcmp ⟨sg0, 0, false, 0, false, 0, false, 0, 0, false, 6, 0⟩).wf = false := by decide
theorem test_ill_vsel : (EngOp.vsel ⟨sg0, 0, false, 0, false, 0, false, 0, false, 0, 0, false, 0⟩).wf = false := by decide
theorem test_ill_vmop : (EngOp.vmop ⟨sg0, 0, false, 0, false, 0, false, 5, 65⟩).wf = false
    ∧ (EngOp.vmop ⟨sg0, 0, false, 0, false, 0, false, 0, 1⟩).wf = false := by decide
theorem test_ill_vcvt : (EngOp.vcvt ⟨sg0, 0, false, 0, false, 0, false, 1, 1, 0, false⟩).wf = false
    ∧ (EngOp.vcvt ⟨sg0, 0, false, 0, false, 0, false, 0, 1, 2, false⟩).wf = false := by decide
theorem test_ill_vqmx_odd : (EngOp.vqmx ⟨sg0, 1, false, 0, false, 0, false, 0, 6, 0, false⟩).wf = false := by decide
theorem test_ill_vsort_odd : (EngOp.vsort ⟨sg0, 1, false, 0, false, 0, false, 0, false, 0, 0, false, 0⟩).wf = false := by decide
theorem test_ill_vselk : (EngOp.vselk ⟨sg0, 0, false, 0, false, 0, false, 0, 0, false, 0, 65⟩).wf = false := by decide
theorem test_ill_loop : (EngOp.loop ⟨sg0, 0, 1⟩).wf = false ∧ (EngOp.loop ⟨sg0, 1, 0⟩).wf = false := by decide
theorem test_ill_dly : (EngOp.dly ⟨sg0, 0⟩).wf = false := by decide
theorem test_ill_pset : (EngOp.pset ⟨sg0, 0, true, true, 0⟩).wf = false := by decide
theorem test_ill_salu : (EngOp.salu ⟨sg0, 0, false, 0, false, false, 0, false, 14, 0⟩).wf = false
    ∧ (EngOp.salu ⟨sg0, 0, false, 0, false, false, 0, false, 0, 1⟩).wf = false := by decide
theorem test_ill_sld : (EngOp.sld ⟨sg0, 0, false, 1, 0, 0⟩).wf = false := by decide
theorem test_ill_shk : (EngOp.shk ⟨sg0, 0, false, 8, 0⟩).wf = false ∧ (EngOp.shk ⟨sg0, 0, false, 0, 1⟩).wf = false := by decide
theorem test_ill_sbr : (EngOp.sbr ⟨sg0, 0, false, 7, 0⟩).wf = false ∧ (EngOp.sbr ⟨sg0, 1, false, 6, 0⟩).wf = false := by decide
theorem test_ill_srnd : (EngOp.srnd ⟨sg0, 0, false, false, 0, 1, true, 0, 0⟩).wf = false := by decide

/-! Examples of the manual -/

/-- Example 0-1. -/
theorem test_features : PartNo.x192.features = 0x00007FFFFFFFFFFF ∧ PartNo.l192.features = 0x00007CFC003FFFFF ∧ PartNo.s096.features = 0x00003C1C0003FC3D := by decide +kernel

/-- Example 3-1: 0.3, which is FP32 0x3E99999A, in the narrow formats. -/
theorem test_convert_tenths : (Fmt.encode .bf16 (f32 0x3E99999A) false = 0x3E9A ∧ Fmt.encode .e4m3 (f32 0x3E99999A) false = 0x2A
    ∧ Fmt.encode .e5m2 (f32 0x3E99999A) false = 0x35 ∧ Fmt.encode .int8 (f32 0x3E99999A) false = 0) := by decide +kernel

/-- Example 3-1: 500. -/
theorem test_convert_large : Fmt.encode .e4m3 (f32 0x43FA0000) false = 0x7F ∧ Fmt.encode .e4m3 (f32 0x43FA0000) true = 0x7E
    ∧ Fmt.encode .e5m2 (f32 0x43FA0000) false = 0x60 ∧ Fmt.encode .int8 (f32 0x43FA0000) false = 0x7F
    ∧ Fmt.encode .int4 (f32 0x43FA0000) false = 7 := by decide +kernel

/-- Example 3-1: −70,000. -/
theorem test_convert_negative : Fmt.encode .bf16 (f32 0xC788B800) false = 0xC789 ∧ Fmt.encode .e4m3 (f32 0xC788B800) true = 0xFE
    ∧ Fmt.encode .e5m2 (f32 0xC788B800) false = 0xFC ∧ Fmt.encode .e5m2 (f32 0xC788B800) true = 0xFB
    ∧ Fmt.encode .int8 (f32 0xC788B800) false = 0x80 ∧ Fmt.encode .int4 (f32 0xC788B800) false = 8 := by decide +kernel

/-- Example 3-2: a block of MXFP4, its values in tenths of FP32. -/
theorem test_quantise : let q := quantise .mxE2m1 [f32 0x40A33333, f32 0xBE99999A, f32 0x3F4CCCCD, f32 0x40266666, f32 0x40200000, f32 0]
    q = (0x7F, [7, 9, 2, 5, 4, 0]) ∧ pack 24 4 q.2 = 0x045297 := by decide +kernel

/-- Example 3-3: element 133 of a P4 panel, and entry 11 of its palette. -/
theorem test_palette : elemOf (BitVec.ofNat 544 (0xB4 * 2 ^ (8 * 66))) 4 133 = 0xB ∧ elemOf (BitVec.ofNat 256 (0xBE9A * 2 ^ (8 * 22))) 16 11 = 0xBE9A := by
  decide +kernel

/-- Example 3-4: one rounding per block. -/
theorem test_block_sum :
    toF32 (Val.sum [(b16 0x4580).mul (b16 0x4600), (b16 0x3F80).mul (b16 0x3F80), (b16 0xC580).mul (b16 0x4600), f32 0]) = 0x3F800000
    ∧ toF32 (Val.add (f32 0x4B800000) (f32 0x3F800000)) = 0x4B800000 := by decide +kernel

/-- Example 6-1: the words of PSET before and after relocation. -/
theorem test_pset_words : decodeWord .dme 0x0400020000000000 = some (.pset ⟨⟨0, 0⟩, 2, false, false, 0⟩)
    ∧ decodeWord .dme 0x0400022010000000 = some (.pset ⟨⟨0, 0⟩, 2, false, false, 0x80400000⟩)
    ∧ decodeWord .dme 0x0400024000000100 = some (.pset ⟨⟨0, 0⟩, 2, false, true, 4⟩) := by decide

/-- Table 16-2: the input voltage in units of 10 mV; a short dip is only counted (Table 16-3). -/
theorem test_voltage_and_dip :
    step { State.reset with power := { Power.cold with inputMv := 54000 }, pending := [.smbVoltage] }
      = .next { State.reset with power := { Power.cold with inputMv := 54000 }, out := [.smbus [0x18, 0x15] (smbPec 0x11 [0x18, 0x15])] }
    ∧ step { State.reset with pending := [.inputDip] } = .next { State.reset with power := { Power.cold with dips := 1 } }
    ∧ smbPec 0x11 [0x18, 0x15] = 0x81 := ⟨rfl, rfl, by decide +kernel⟩

/-! Witnesses: the hypotheses of each obligation, clause by clause -/

/-- A running partition 0 with column 0, at cycle 8 of step 0, ready to issue. -/
def live : State :=
  (State.reset.setObj 0x2000 1 [1, 0]).modPart 0 fun x =>
    { x with partState := 1, jobState := 2, running := true, front := true, stepNow := 0, cyc := 8 }

def c0 : CellRef := ⟨0, 0⟩

/-- The same with a landed entry in the north queue of the cell. -/
def liveQ : State := live.modCell c0 fun k => k.setQueue .n ⟨[⟨0, 0, 0, 8, ⟨c0, .dme, 0, 0⟩⟩], []⟩

/-- The same, the loop stack of the matrix engine full. -/
def looping : State := live.modCell c0 fun k => { k with mxe := { k.mxe with loops := List.replicate 4 ⟨2, 0, 8, 0, 0⟩ } }

theorem witness_MatrixInstructionsIssue :
    let k := live.cell c0
    let o := live.org 0 c0 .mxe
    live.ready 0 c0 .mxe = true
    ∧ ((EngOp.mpal ⟨sg0, 0, false, true, 0, 0, 0⟩).wf = true ∧ k.portHeld ⟨.weight, o.issued, o.issued, o.issued⟩ = none)
    ∧ ((EngOp.mldw ⟨sg0, 0, false, 0xB, 1, true, 2, true, 0, 0⟩).wf = true
      ∧ k.earlyUse o.issued [⟨.pal 1, true⟩, ⟨.pal 2, true⟩] = none
      ∧ k.portHeld ⟨.weight, o.issued, o.issued + BitVec.ofNat 32 (mldwG (fmtD 0xB)) - 1, o.issued⟩ = none)
    ∧ ((EngOp.macc ⟨sg0, 3, true, true, 1, true, 96, 31, 6, 6, 0, 0⟩).wf = true ∧ k.earlyUse o.issued [⟨.wb 1, true⟩] = none)
    ∧ ((EngOp.mdrn ⟨sg0, 3, true, 3, true, 0, 4⟩).wf = true ∧ k.earlyUse o.issued [⟨.a 3, true⟩] = none
      ∧ k.portHeld ⟨.drain, o.issued, o.issued + BitVec.ofNat 32 (mdrnG 3) - 1, o.issued⟩ = none) := by decide +kernel

theorem witness_VectorMovesIssue :
    let k := liveQ.cell c0
    liveQ.ready 0 c0 .vxe = true
    ∧ ((EngOp.vld ⟨sg0, 63, true, 0, 4, -1, 8, true⟩).wf = true ∧ k.earlyUse 8 (maskUse 8 true) = none)
    ∧ ((EngOp.vst ⟨sg0, 63, true, 0, 0, 0, 0, false⟩).wf = true ∧ k.earlyUse 8 (⟨.v 63, true⟩ :: maskUse 0 false) = none)
    ∧ ((EngOp.vimm ⟨sg0, 63, true, 15, false, 0⟩).wf = true ∧ k.earlyUse 8 (maskUse 15 false) = none)
    ∧ ((EngOp.vpop ⟨sg0, 63, true, 0⟩).wf = true
      ∧ (k.queue (Side.ofCode 0)).landed = [⟨0, 0, 0, 8, ⟨c0, .dme, 0, 0⟩⟩]) := by decide +kernel

/-- VR class fields with unused sources and mask at 0. -/
def vr0 (vd : BitVec 6) (sub : BitVec 4) (msk : BitVec 4) : VrF := ⟨sg0, vd, false, 0, false, 0, false, 0, false, 0, msk, false, sub⟩

theorem witness_VectorArithmeticIssues :
    let k := live.cell c0
    let f : VrF := vr0 63 0 8
    live.ready 0 c0 .vxe = true
    ∧ ((EngOp.vadd f).wf = true ∧ (EngOp.vsub f).wf = true ∧ (EngOp.vmul f).wf = true ∧ (EngOp.vmin f).wf = true ∧ (EngOp.vmax f).wf = true
      ∧ (EngOp.vdiv f).wf = true ∧ k.earlyUse 8 ([⟨.v 0, false⟩] ++ [⟨.v 0, false⟩] ++ maskUse 8 false) = none)
    ∧ ((EngOp.vfma ⟨sg0, 0, true, 61, true, 62, true, 63, true, 1, 15, true, 0⟩).wf = true
      ∧ k.earlyUse 8 ([⟨.v 61, true⟩] ++ [⟨.v 62, true⟩] ++ [⟨.v 63, true⟩] ++ maskUse 15 true) = none)
    ∧ ((EngOp.vsqrt f).wf = true ∧ (EngOp.vtrn (vr0 63 7 8)).wf = true ∧ k.earlyUse 8 ([⟨.v 0, false⟩] ++ maskUse 8 false) = none)
    ∧ ((EngOp.vcvt ⟨sg0, 63, true, 0, true, 1, true, 6, 0, 3, false⟩).wf = true
      ∧ k.earlyUse 8 (⟨.v 0, true⟩ :: (if (fmtD 6).isMx || (fmtD 6).isPalette then [⟨.v 1, true⟩] else [])) = none)
    ∧ ((EngOp.vqmx ⟨sg0, 62, true, 0, true, 0, false, 0, 6, 3, false⟩).wf = true ∧ k.earlyUse 8 [⟨.v 0, true⟩] = none) := by decide +kernel

theorem witness_VectorLaneInstructionsIssue :
    let k := live.cell c0
    let a : List Use := [⟨.v 0, false⟩]
    live.ready 0 c0 .vxe = true
    ∧ ((EngOp.vbit (vr0 1 7 8)).wf = true ∧ k.earlyUse 8 (a ++ a ++ maskUse 8 false) = none)
    ∧ ((EngOp.vbit (vr0 1 4 0)).wf = true ∧ k.earlyUse 8 (a ++ [] ++ maskUse 0 false) = none)
    ∧ ((EngOp.vlane (vr0 1 4 0)).wf = true ∧ (EngOp.vlane (vr0 1 1 0)).wf = true ∧ (EngOp.vlane (vr0 1 0 0)).wf = true)
    ∧ (EngOp.vsel (vr0 1 0 8)).wf = true
    ∧ (EngOp.vred (vr0 1 2 8)).wf = true
    ∧ ((EngOp.vscan (vr0 1 1 0)).wf = true ∧ (EngOp.vscan ⟨sg0, 0, true, 61, true, 62, true, 63, true, 1, 0, false, 0⟩).wf = true
      ∧ k.earlyUse 8 ([⟨.v 61, true⟩] ++ [⟨.v 62, true⟩] ++ [⟨.v 63, true⟩] ++ maskUse 0 false) = none)
    ∧ (EngOp.vsort (vr0 62 1 0)).wf = true
    ∧ ((EngOp.vmrg ⟨sg0, 62, true, 60, true, 58, true, 0, false, 0, 0, false, 1⟩).wf = true
      ∧ k.earlyUse 8 [⟨.v 60, true⟩, ⟨.v 61, true⟩, ⟨.v 58, true⟩, ⟨.v 59, true⟩] = none)
    ∧ ((EngOp.vfirst (vr0 1 1 15)).wf = true ∧ k.earlyUse 8 (maskUse 15 false) = none)
    ∧ ((EngOp.vcmp ⟨sg0, 7, true, 0, false, 0, false, 0, 0, false, 5, 0⟩).wf = true
      ∧ k.earlyUse 8 ([⟨.v 0, false⟩, ⟨.v 0, false⟩] ++ maskUse 0 false) = none)
    ∧ ((EngOp.vselk ⟨sg0, 7, true, 0, false, 0, false, 0, 0, false, 1, 64⟩).wf = true ∧ k.earlyUse 8 (⟨.v 0, false⟩ :: maskUse 0 false) = none)
    ∧ ((EngOp.vmop ⟨sg0, 7, true, 0, false, 0, false, 5, 64⟩).wf = true
      ∧ (EngOp.vmop ⟨sg0, 7, true, 1, true, 0, false, 4, 0⟩).wf = true ∧ k.earlyUse 8 ([⟨.m 1, true⟩] ++ []) = none)
    ∧ (EngOp.vrnd ⟨sg0, 63, true, true, 4095, 3, true, -1, 7⟩).wf = true := by decide +kernel

theorem witness_SequencingInstructionsIssue :
    (∀ e : Eng, e ∈ [.mxe, .vxe, .dme, .sqe] → live.ready 0 c0 e = true)
    ∧ ((EngOp.wait ⟨63, 65535, true, true, 0, 9⟩).wf = true ∧ (live.org 0 c0 .mxe).issued.toNat < (9 : BitVec 32).toNat)
    ∧ ((EngOp.loop ⟨sg0, 1, 1⟩).wf = true ∧ ((live.cell c0).eng .mxe).loops.length < 4
      ∧ looping.ready 0 c0 .mxe = true ∧ 4 ≤ ((looping.cell c0).eng .mxe).loops.length) ∧ (EngOp.sig ⟨⟨5, 255⟩, 5, 255⟩).wf = true ∧ (EngOp.dly ⟨sg0, 1⟩).wf = true := by decide +kernel

theorem witness_PointerInstructionsIssue :
    live.ready 0 c0 .dme = true ∧ (EngOp.pset ⟨sg0, 15, false, true, 0⟩).wf = true ∧ (live.cell c0).landOf (.p 15) ≤ 8
    ∧ (EngOp.padd ⟨sg0, 15, true, 15, true, -1⟩).wf = true
    ∧ (EngOp.pld ⟨sg0, 15, true, -1, 31, 7⟩).wf = true ∧ (live.cell c0).portHeld ⟨.dmeRead, 8, 8, 8⟩ = none := by decide +kernel

/-- The same, the vector engine ended. -/
def popped : State := liveQ.modCell c0 fun k => { k with vxe := { k.vxe with ended := true } }

theorem witness_MoveInstructionsIssue :
    let k := liveQ.cell c0
    liveQ.ready 0 c0 .dme = true
    ∧ ((EngOp.push ⟨sg0, 2, 0, 0, 0, 0⟩).wf = true ∧ k.portHeld ⟨.dmeRead, 8, 8, 8⟩ = none ∧ crossesDie c0 (Side.ofCode 0) = false)
    ∧ k.vxe.canIssue 8 = true
    ∧ ((EngOp.dpop ⟨sg0, 0, 0, 0⟩).wf = true ∧ popped.ready 0 c0 .dme = true ∧ (popped.cell c0).vxe.canIssue 8 = false
      ∧ (k.queue (Side.ofCode 0)).landed = [⟨0, 0, 0, 8, ⟨c0, .dme, 0, 0⟩⟩]
      ∧ k.portHeld ⟨.dmeWrite, 12, 12, 8⟩ = none)
    ∧ ((EngOp.dcpy ⟨sg0, 0, 1, 4095, 0⟩).wf = true ∧ k.portHeld ⟨.dmeRead, 8, 4103, 8⟩ = none ∧ k.portHeld ⟨.dmeWrite, 12, 4107, 8⟩ = none) := by
  decide +kernel

theorem witness_TransferInstructionsIssue :
    let k := live.cell c0
    live.ready 0 c0 .dme = true ∧ k.txs[(0 : Fin 64)] = none
    ∧ (EngOp.drd ⟨1, 1, 15, true, 0, 4095, 0, 0⟩).wf = true ∧ k.landOf (.p 15) ≤ 8 ∧ (∀ u ∈ k.txs.toList, u = none)
    ∧ (EngOp.dwr ⟨1, 1, 15, true, 0, 0, 4, -1⟩).wf = true ∧ k.portHeld ⟨.dmeRead, 8, 8, 8⟩ = none ∧ k.staging.length < 64
    ∧ (EngOp.dsnd ⟨1, 1, 4095, 0, 0, 7⟩).wf = true ∧ (EngOp.drcv ⟨1, 1, 0, 0, 0, 0⟩).wf = true := by decide +kernel

theorem witness_SequenceEngineInstructionsIssue :
    let k := live.cell c0
    live.ready 0 c0 .sqe = true
    ∧ ((EngOp.salu ⟨sg0, 31, true, 31, true, true, 0, false, 13, -1⟩).wf = true ∧ k.earlyUse 8 (⟨.s 31, true⟩ :: []) = none)
    ∧ ((EngOp.salu ⟨sg0, 31, true, 31, true, false, 30, true, 2, 0⟩).wf = true ∧ k.earlyUse 8 (⟨.s 31, true⟩ :: [⟨.s 30, true⟩]) = none)
    ∧ ((EngOp.simm ⟨sg0, 31, false, true, -1⟩).wf = true ∧ k.landOf (.s 31) ≤ 8)
    ∧ (EngOp.sld ⟨sg0, 31, true, -8, 7, -1⟩).wf = true ∧ (EngOp.sst ⟨sg0, 31, true, -8, 7, -1⟩).wf = true
    ∧ (EngOp.shk ⟨sg0, 31, true, 22, 4095⟩).wf = true ∧ (EngOp.srpt ⟨sg0, 31, true, 4095, 7⟩).wf = true
    ∧ (EngOp.sbr ⟨sg0, 31, true, 5, -1⟩).wf = true ∧ (EngOp.sbr ⟨sg0, 0, false, 6, -1⟩).wf = true
    ∧ (EngOp.spf ⟨sg0, 3, -1⟩).wf = true ∧ (EngOp.srnd ⟨sg0, 31, true, true, -1, 2, true, -1, 7⟩).wf = true := by decide +kernel

/-! Cells -/

/-- The weight and drain ports of the cell are held in cycle 8 by instructions issued in cycle 5. -/
def busy : State := live.modCell c0 fun k => { k with ports := [⟨.weight, 5, 20, 5⟩, ⟨.drain, 5, 20, 5⟩] }

theorem witness_BusyPortsAreOverrun :
    let k := busy.cell c0
    busy.ready 0 c0 .mxe = true
    ∧ ((EngOp.mpal ⟨sg0, 0, false, true, 0, 0, 0⟩).wf = true ∧ k.portHeld ⟨.weight, 8, 8, 8⟩ = some ⟨.weight, 5, 20, 5⟩)
    ∧ ((EngOp.mldw ⟨sg0, 0, false, 1, 0, false, 0, false, 0, 0⟩).wf = true
      ∧ k.portHeld ⟨.weight, 8, 8 + BitVec.ofNat 32 (mldwG (fmtD 1)) - 1, 8⟩ = some ⟨.weight, 5, 20, 5⟩)
    ∧ ((EngOp.mdrn ⟨sg0, 0, false, 0, false, 0, 0⟩).wf = true ∧ k.earlyUse 8 [⟨.a 0, false⟩] = none
      ∧ k.portHeld ⟨.drain, 8, 8 + BitVec.ofNat 32 (mdrnG 0) - 1, 8⟩ = some ⟨.drain, 5, 20, 5⟩) := by decide +kernel

/-- A vector, a scalar and a pointer register of the cell land in cycle 9. -/
def early : State :=
  live.modCell c0 fun k => { k with v := k.v.set 1 ⟨0, 9, false, 0⟩, s := k.s.set 1 ⟨0, 9, false, 0⟩, p := k.p.set 1 ⟨0, 9, false, 0⟩ }

theorem witness_EarlyReadIsAFault :
    early.ready 0 c0 .vxe = true ∧ early.ready 0 c0 .sqe = true ∧ early.ready 0 c0 .dme = true
    ∧ ((EngOp.vadd ⟨sg0, 0, false, 1, false, 0, false, 0, false, 0, 0, false, 0⟩).wf = true ∧ 8 < (early.cell c0).landOf (.v 1))
    ∧ ((EngOp.salu ⟨sg0, 0, false, 1, false, true, 0, false, 0, 0⟩).wf = true ∧ 8 < (early.cell c0).landOf (.s 1))
    ∧ ((EngOp.padd ⟨sg0, 0, false, 1, false, 0⟩).wf = true ∧ 8 < (early.cell c0).landOf (.p 1)) := by decide +kernel

/-- A wait of engine MXE for a threshold that its tally meets or, with 1 more, does not. -/
def waiting (thr : BitVec 16) (v : Bool) : Cell :=
  let k := live.cell c0
  { k with tally := k.tally.set 5 3, mxe := { k.mxe with wait := some ⟨⟨5, thr, true, v, 0, 9⟩, 9, 8, 0⟩ } }

theorem witness_WaitsFollowTheirDueCycle :
    (live.ready 0 c0 .mxe = true ∧ (live.org 0 c0 .mxe).issued = 8
      ∧ waitDue ⟨5, 3, true, true, 0, 8⟩ ((live.cell c0).eng .mxe) ≤ (8 : BitVec 32).toNat ∧ (8 : BitVec 32).toNat < waitDue ⟨5, 3, true, true, 0, 9⟩ ((live.cell c0).eng .mxe))
    ∧ (((waiting 3 true).eng .mxe).wait = some ⟨⟨5, 3, true, true, 0, 9⟩, 9, 8, 0⟩ ∧ 3 ≤ rd (waiting 3 true).tally (5 : BitVec 6)
      ∧ ((waiting 3 true).eng .mxe).ended = false ∧ ((waiting 3 true).eng .mxe).ready ≤ 9)
    ∧ (((waiting 4 false).eng .mxe).wait = some ⟨⟨5, 4, true, false, 0, 9⟩, 9, 8, 0⟩ ∧ ¬ 4 ≤ rd (waiting 4 false).tally (5 : BitVec 6))
    ∧ (((waiting 4 true).eng .mxe).wait = some ⟨⟨5, 4, true, true, 0, 9⟩, 9, 8, 0⟩ ∧ ¬ 4 ≤ rd (waiting 4 true).tally (5 : BitVec 6)) := by decide +kernel

/-- Partition 0 before phase 1 of a cycle, every engine of its cells ended. -/
def quiet : State :=
  (live.modPart 0 fun x => { x with front := false }).modCells 0 fun _ k =>
    { k with mxe := { k.mxe with ended := true }, vxe := { k.vxe with ended := true }, dme := { k.dme with ended := true },
             sqe := { k.sqe with ended := true } }

theorem witness_CellCyclesCountOrHold_quiet :
    (quiet.part 0).runs = true ∧ (quiet.part 0).govHold = false ∧ (quiet.part 0).front = false ∧ (quiet.part 0).pendFaults = []
    ∧ (quiet.part 0).jobState ≠ 4 ∧ quiet.barkWait 0 = false ∧ (∀ c ∈ quiet.cellsOf 0, (quiet.cell c).drained = true ∧ (quiet.cell c).signals = []
      ∧ (quiet.cell c).completions = [] ∧ (quiet.cell c).staging = [] ∧ (∀ e ∈ [Eng.mxe, .vxe, .dme, .sqe], ((quiet.cell c).eng e).wait = none)
      ∧ ∀ q ∈ [Side.n, .e, .s, .w], ((quiet.cell c).queue q).coming = [] ∧ ((quiet.cell c).queue q).landed.length ≤ 32) := by decide +kernel

/-- A hold that a wait of the cell has raised. -/
def held : State := live.modPart 0 fun x => { x with hold := some ⟨[⟨c0, .mxe, 0, .wait 5⟩], 7⟩ }

/-- A wait of the matrix engine that is due in cycle 8 and unmet, with V = 1, before the cycle. -/
def due : State :=
  (live.modPart 0 fun x => { x with front := false }).modCell c0 fun k =>
    { k with mxe := { k.mxe with wait := some ⟨⟨5, 4, true, true, 0, 8⟩, 8, 7, 0⟩ } }

/-- The same under a governor hold, before the cycle. -/
def governed : State := due.modPart 0 fun x => { x with govHold := true }

theorem witness_CellCyclesCountOrHold_held :
    ((due.part 0).runs = true ∧ (due.part 0).front = false ∧ due.barkWait 0 = false ∧ (due.part 0).govHold = false
      ∧ ((due.front 0).part 0).runs = true ∧ (∃ h, ((due.front 0).part 0).hold = some h ∧ h.len + 1 < due.limitCycles 0))
    ∧ ((governed.part 0).runs = true ∧ (governed.part 0).front = false ∧ governed.barkWait 0 = false ∧ (governed.part 0).govHold = true
      ∧ ((governed.governed 0).part 0).runs = true ∧ ((governed.governed 0).part 0).hold = none) := by
  refine ⟨⟨by decide +kernel, by decide +kernel, by decide +kernel, by decide +kernel, by decide +kernel, ⟨_, by rfl, by decide +kernel⟩⟩, ?_⟩
  decide +kernel

theorem witness_LandingsAndSignals_landing :
    let o : Origin := ⟨c0, .sqe, 0, 6⟩
    let l (kill : Bool) : Landing := ⟨8, .s 1 7, kill, true, o⟩
    let k := live.cell c0
    let k1 : Cell := { k with s := k.s.set 1 ⟨3, 7, true, 7⟩ }
    (l false).check = true ∧ k.liveOf (.s 1) = false ∧ (k1.liveOf (.s 1) = true ∧ (l true).kill = true ∧ (l false).kill = false) := by decide +kernel

theorem witness_LandingsAndSignals_signal :
    let k := live.cell c0
    let k1 : Cell := { k with tally := k.tally.set 5 65280 }
    (rd k1.tally (5 : BitVec 6)).toNat + 255 ≤ 65535 ∧ 65535 < (rd k1.tally (5 : BitVec 6)).toNat + 256 := by decide +kernel

theorem witness_FirstWriteClearsAGranule : (5 : BitVec 14) ∉ (live.cell c0).written := by decide +kernel

/-- A requested line whose code stands in memory, and a DRD of one granule of region KV that waits for its data. -/
def arriving : State :=
  let s := live.modPart 0 fun x => { x with runPlan := some ⟨0, 0, 1, 20000, 0, 0, 0, 0, false, [⟨0, 1, [0], 0, 32⟩], [], [], [], [], 0⟩ }
  s.modCell c0 fun k => { k with
    refills := [⟨.vxe, 0⟩]
    txs := k.txs.set 0 (some ⟨.drd, 1, 1, ⟨c0, .dme, 0, 7⟩, 0, 16, 1, 0, true, false, 0, 0, 0, 0, 0, [], none, false⟩) }

theorem witness_ArrivalsAndCompletionsReachTheCell_arrivals :
    arriving.owner c0.col = some 0 ∧ (arriving.cell c0).refills.contains ⟨.vxe, 0⟩ = true
    ∧ (∃ a n bs, arriving.codeLine 0 c0 .vxe 0 = some (a, n, bs) ∧ arriving.firstDamage 0 a n = none)
    ∧ (∃ x : Tx, (arriving.cell c0).txs[(0 : Fin 64)] = some x ∧ x.kind = .drd ∧ 0 < x.g ∧ x.arrived.getLsbD 0 = false ∧ x.legal = true
      ∧ x.wild = false ∧ arriving.loadingAt 0 x.mem.toNat = none ∧ x.raced = [] ∧ arriving.firstDamage 0 x.mem.toNat 256 = none)
    ∧ ∀ u ∈ (arriving.cell c0).txs.toList, ∀ y ∈ u, y.kind ≠ .dwr :=
  ⟨by decide +kernel, by decide +kernel, ⟨_, _, _, by rfl, by decide +kernel⟩,
    ⟨⟨.drd, 1, 1, ⟨c0, .dme, 0, 7⟩, 0, 16, 1, 0, true, false, 0, 0, 0, 0, 0, [], none, false⟩, by decide +kernel⟩, by decide +kernel⟩

/-- Four transactions of one granule, each with nothing left to do. -/
def ending : State :=
  live.modCell c0 fun k =>
    let x (kind : TxKind) (n : Nat) : Option Tx := some ⟨kind, 1, 1, ⟨c0, .dme, 0, 7⟩, n, 16, 1, 0, true, false, 0, 0, 1, 1, 1, [], none, false⟩
    { k with txs := (((k.txs.set 0 (x .drd 0)).set 1 (x .drcv 1)).set 2 (x .dwr 2)).set 3 (x .dsnd 3) }

theorem witness_ArrivalsAndCompletionsReachTheCell_completions :
    let x (i : Fin 64) : Tx := ((ending.cell c0).txs[i]).getD ⟨.drd, 1, 1, ⟨c0, .dme, 0, 7⟩, 0, 0, 0, 0, true, false, 0, 0, 0, 0, 0, [], none, true⟩
    (∀ i : Fin 4, (ending.cell c0).txs[(⟨i.val, by omega⟩ : Fin 64)] = some (x ⟨i.val, by omega⟩) ∧ (x ⟨i.val, by omega⟩).done = false)
    ∧ ((x 0).kind = .drd ∧ ∀ j < (x 0).g, (x 0).written.getLsbD j = true) ∧ ((x 1).kind = .drcv ∧ ∀ j < (x 1).g, (x 1).written.getLsbD j = true)
    ∧ ((x 2).kind = .dwr ∧ (x 2).drained = (x 2).g) ∧ ((x 3).kind = .dsnd ∧ (x 3).drained = (x 3).g ∧ ending.acked c0 (x 3).serial = true) := by
  decide +kernel

theorem witness_HoldsAndArrivals :
    ((held.part 0).runs = true ∧ (held.part 0).hold = some ⟨[⟨c0, .mxe, 0, .wait 5⟩], 7⟩)
    ∧ (live.pins.pwrGood = true ∧ live.power.highRun < 100)
    ∧ (overShare live.partNo.cols (live.colsOf 0).length (live.num 0x9000 1) ((([5000] : List (BitVec 32))[0]?).getD 0).toNat = true ∧ live.colsOf 0 ≠ [])
    ∧ ((0 : BitVec 32).toNat ≤ live.num 0x9000 1 ∧ live.power.warn = 0 ∧ (∀ p : PartIx, (live.part p).govHold = false)
      ∧ ∀ p : PartIx, overShare live.partNo.cols (live.colsOf p).length (live.num 0x9000 1) ((([] : List (BitVec 32))[p.val]?).getD 0).toNat = false)
    ∧ (quiet.owner c0.col = some 0 ∧ (quiet.part 0).runs = true ∧ (quiet.cell c0).drained = true ∧ quiet.pushesLanded 0 c0 = true) := by decide +kernel

/-! Barriers and releases -/

/-- A plan of one column for devices 0 and 1; device 0 is the parent of both, port 0 leads to the other one. -/
def plan : PlanRec :=
  let route (d : BitVec 14) : RouteEntry := ⟨d, 0, 0, 0, 0, 0, 1, 0⟩
  ⟨0, 0, 1, 20000, 0, 1, 0, 0, false, [], [⟨0, [route 0, route 1]⟩], [⟨0, 0, 0, true, 0, 0⟩, ⟨1, 0, 0, false, 0, 0⟩], [⟨0, false, 1, 0⟩], [], 0⟩

/-- Device `self` of job 7, whose partition 0 runs the plan on port 0; every cell has arrived. -/
def pack (self : Nat) : State :=
  let s := (((live.setObj 0x2000 0x31 (leBytes 8 (65536 * self + 2))).setObj 0x2000 0x70 [7, 0, 0, 0]).setObj 0x3000 0x10
    (leBytes 16 (1 + 7 * 2 ^ 48) ++ List.replicate 112 0)).modPart 0 fun x => { x with runPlan := some plan }
  ({ s with heel := { Heel.cold with state := 2, now := 65536000 } }.modPort 0 fun x => { x with state := 3 }).modCells 0 fun _ k => { k with arrived := true }

/-- The home of the job, alone in its plan. -/
def alone : State :=
  (pack 0).modPart 0 fun x => { x with runPlan := some { plan with dist := [⟨0, 0, 0, true, 0, 0⟩] } }

theorem witness_ArrivalsAreGathered_own :
    (((pack 0).part 0).bar.own = none ∧ (pack 0).ownStatus 0 = some 0 ∧ (pack 0).missing 0 = [1])
    ∧ (((pack 1).part 0).bar.own = none ∧ (pack 1).ownStatus 0 = some 0 ∧ (pack 1).childrenOf 0 = [] ∧ ((pack 1).part 0).bar.children = []
      ∧ ((pack 1).part 0).bar.sent = false ∧ (pack 1).distSelf 0 = some ⟨1, 0, 0, false, 0, 0⟩ ∧ (pack 1).portTo 0 0 = some 0
      ∧ ((pack 1).port 0).state = 3 ∧ ∀ g ∈ ((pack 1).part 0).ingests, g.backupParent = false) := by decide +kernel

theorem witness_ArrivalsAreGathered_child :
    let b : BarrierItem := ⟨7, 0, false, 0, 1, 0, 0x7FFF, 1, 0⟩
    (pack 0).inOrder 0 0 true 7 = true ∧ ((pack 0).part 0).gathers = true ∧ (pack 0).ofJob b.job = some 0 ∧ b.dst = (pack 0).self 0 ∧ b.step = (pack 0).barStep 0
    ∧ b.src ∈ (pack 0).childrenOf 0 ∧ ((pack 0).part 0).bar.sent = false ∧ ((pack 0).part 0).bar.own = none
    ∧ ∀ c ∈ ((pack 0).part 0).bar.children, c.dev ≠ b.src
    ∧ ({ b with step := 1 } : BarrierItem).step = (pack 0).barStep 0 + 1 := by decide +kernel

theorem witness_RootDecides_commit :
    let x := alone.part 0
    x.bar.own = none ∧ alone.ownStatus 0 = some 0 ∧ alone.isBarRoot 0 = true ∧ alone.childrenOf 0 = [] ∧ x.bar.children = [] ∧ x.bar.sent = false
    ∧ x.between = false ∧ x.oldPlan = none := by decide +kernel

/-- The home has arrived and waits for device 1. -/
def lacking : State := (pack 0).modPart 0 fun x => { x with barrier := { x.barrier with own := some 0 } }

theorem witness_RootDecides_stop :
    (lacking.part 0).bar.own = some 0 ∧ (lacking.part 0).bar.sent = false ∧ lacking.missing 0 ≠ [] ∧ lacking.isBarRoot 0 = true
    ∧ (lacking.part 0).reported = [] ∧ lacking.jobTag 0 ≠ 0 ∧ (1 : BitVec 14) ∈ lacking.missing 0 ∧ 1 ≠ lacking.self 0 := by decide +kernel

theorem witness_ReleasesCommitOrStop :
    let s := pack 1
    let b (stop : Bool) : BarrierItem := ⟨7, 0, stop, 0, 0, 1, 0x7FFF, 2, 65536⟩
    s.inOrder 0 0 true 7 = true ∧ s.ofJob 7 = some 0 ∧ (b true).dst = s.self 0 ∧ (b true).step = s.barStep 0 ∧ (s.part 0).bar.release = none
    ∧ s.isBarRoot 0 = false ∧ s.heel.state ≠ 0 ∧ (s.part 0).busy = true ∧ (b true).stop = true ∧ (b false).stop = false
    ∧ (s.part 0).between = false := by decide +kernel

/-- A release received: the verdict, and whether boundary processing has run. -/
def ended (stop processed : Bool) : State :=
  alone.modPart 0 fun x => { x with barrier := { x.barrier with release := some ⟨0, stop, 0, 131072000⟩, processed := processed } }

theorem witness_BoundaryProcessingRuns :
    (((ended true false).part 0).barrier.release = some ⟨0, true, 0, 131072000⟩ ∧ ((ended true false).part 0).barrier.processed = false)
    ∧ (((ended false false).part 0).barrier.release = some ⟨0, false, 0, 131072000⟩ ∧ ((ended false false).part 0).barrier.processed = false
      ∧ (ended false false).isHome 0 = true ∧ (ended false false).awaitsMirror 0 0 = false)
    ∧ (((ended false true).part 0).barrier.release = some ⟨0, false, 0, 131072000⟩ ∧ ((ended false true).part 0).barrier.processed = true) := by
  decide +kernel

theorem witness_JobsStartAndRunTheNextStep :
    let s := (pack 0).modPart 0 fun x => { x with jobState := 0, running := false, loadStatus := 0, startWritten := 3 }
    ((s.part 0).waiting = [] ∧ s.msgs = [] ∧ (s.part 0).jobState = 0 ∧ (s.part 0).partState = 1 ∧ (s.part 0).loadStatus.extractLsb' 0 8 = 0 ∧ s.jobTag 0 ≠ 0 ∧ (s.part 0).startWritten = 3)
    ∧ (let t := ended false true
      (t.part 0).jobState = 2 ∧ (t.part 0).starting = false ∧ (t.part 0).runPlan.isSome = true ∧ (t.part 0).loadedPlan = none ∧ t.sessions = []
      ∧ t.orphans = [] ∧ t.heel.state ≠ 0 ∧ t.heel.slew = 0 ∧ t.heel.holdRate = 0 ∧ (t.part 0).waiting = []
      ∧ (t.part 0).mirrorState ≠ 1 ∧ (t.part 0).mirrorState ≠ 2 ∧ (t.part 0).barrier.release = some ⟨0, false, 0, 131072000⟩
      ∧ (t.part 0).barrier.processed = true ∧ ((131072000 : BitVec 64) - t.heel.now).toNat < 2 ^ 63) := by decide +kernel

/-! The Kennel -/

/-- A Kennel range of two entries and rings of 16; entry 0 holds stream 9 in state `st`, entry 1 is FREE; a command waits. -/
def ken (st : Nat) : State :=
  let s := ((live.setObj 0x2000 0x41 [2, 0]).setObj 0x2000 0x43 [16, 0]).setObj 0x2000 0x45 [16, 0]
  { s with power := { s.power with pcie := #v[1, 0] } }.modPart 0 fun x => { x with kennel := { Kennel.cold with
    entries := [withState (BitVec.ofNat 512 (9 * 2 ^ 64)) st, 0], extra := [EntryX.free, EntryX.free], sqTail := 1 } }

/-- A submission entry: command, entry, STREAM_ID, ARGS. -/
def sq (cmd e sid args : Nat) : SqEntry := BitVec.ofNat 512 (cmd + e * 2 ^ 32 + sid * 2 ^ 64 + args * 2 ^ 128)

theorem witness_RingCommandsTakeEffect :
    let ok (st : Nat) (c : SqEntry) : Prop :=
      (ken st).ringReady 0 = true ∧ (ken st).refusal 0 c = none ∧ ((ken st).part 0).jobState ≠ 3 ∧ ((ken st).part 0).jobState ≠ 4
      ∧ scEntry c < ((ken st).ken 0).entries.length ∧ ((ken st).ken 0).extra.length = ((ken st).ken 0).entries.length
    (ok stQueued (sq 1 1 8 (1 * 2 ^ 96)) ∧ scCmd (sq 1 1 8 (1 * 2 ^ 96)) = 1) ∧ (ok stRunning (sq 2 0 9 0) ∧ scCmd (sq 2 0 9 0) = 2)
    ∧ (ok stQueued (sq 2 0 9 0)) ∧ (ok stAdmitted (sq 3 0 9 0) ∧ scCmd (sq 3 0 9 0) = 3) ∧ (ok stRunning (sq 4 0 9 0) ∧ scCmd (sq 4 0 9 0) = 4)
    ∧ (ok stSuspended (sq 5 0 9 0) ∧ scCmd (sq 5 0 9 0) = 5) ∧ (ok stSuspended (sq 6 0 9 0) ∧ scCmd (sq 6 0 9 0) = 6)
    ∧ (ok stFree (sq 7 1 0 5) ∧ scCmd (sq 7 1 0 5) = 7) := by decide +kernel

theorem witness_RingsAndDoorbellsAnswer_refused :
    (((ken stQueued).ringReady 0 = true ∧ (ken stQueued).refusal 0 (sq 2 0 8 0) = some rpNoEntry)) ∧ live.ringReady 0 = false := by decide +kernel

theorem witness_RingsAndDoorbellsAnswer_doorbells :
    let s := (ken stRunning).setObj 0x2000 4 [0]
    let w : BitVec 64 := BitVec.ofNat 64 (9 * 2 ^ 32)
    s.takes 0 ⟨0, false⟩ = true ∧ s.takes 0 ⟨1, false⟩ = false
    ∧ (w.extractLsb' 12 4 = 0 ∧ s.cqFree 0 = true ∧ s.fastStatus 0 (w.extractLsb' 0 12).toNat (w.extractLsb' 32 32).toNat = rpCancelled)
    ∧ ((15 : BitVec 32).toNat < s.pnum 0 0x43 ∧ (15 : BitVec 32).toNat < 4096)
    ∧ ((0 : BitVec 32).toNat < s.pnum 0 0x45 ∧ (s.ken 0).kept = []
      ∧ ((0 : BitVec 32).toNat + s.pnum 0 0x45 - (s.ken 0).cqHead.toNat) % s.pnum 0 0x45
        ≤ ((s.ken 0).cqWrite.toNat + s.pnum 0 0x45 - (s.ken 0).cqHead.toNat) % s.pnum 0 0x45)
    ∧ (s.pnum 0 0x43 ≤ (16 : BitVec 32).toNat ∧ s.pnum 0 0x45 ≤ (16 : BitVec 32).toNat)
    ∧ (4096 : BitVec 64).extractLsb' 12 4 ≠ 0 := by decide +kernel

/-- A member of the job whose home is device 0. -/
def member : State := (pack 1).setObj 0x2000 0x4E [0, 0]

/-- An item from device 0 to device 1, as its sender seals a message under the key 5. -/
def sealedItem (b : Bytes) : KennelItem :=
  let k : KennelItem := ⟨0, 0, 1, 0, 0, [], []⟩
  let e := Config.gcmSeal 5 (linkIv 0 0 3) (kennelAad k) b
  { k with ct := e.1, tag := leBytes 16 e.2.toNat }

/-- The member with the key 5 installed in phase 0. -/
def keyed : State := member.modPart 0 fun x => { x with keys := { x.keys with linkKey := #v[some 5, none] } }

theorem keyed_opens (b : Bytes) : (keyed.part 0).openItem (sealedItem b) = some b := by
  have h : (keyed.part 0).keys.linkKey = #v[some 5, none] ∧ (keyed.part 0).keys.linkActive = false := by decide +kernel
  have h1 : kennelAad (sealedItem b) = kennelAad ⟨0, 0, 1, 0, 0, [], []⟩ := rfl
  have h2 : ∀ t : BitVec 128, BitVec.ofNat 128 (leNat (leBytes 16 t.toNat)) = t := by
    intro t
    rw [leNat_leBytes, Nat.mod_eq_of_lt (by have := t.isLt; omega)]
    simp
  unfold Partition.openItem
  rw [h1]
  have h3 : (keyed.part 0).keys.linkKey[two (keyed.part 0).keys.linkActive] = some 5 := by simp [h.1, h.2, two]
  simp only [h3]
  simp [sealedItem, h2, Config.gcmOpen_gcmSeal]

theorem witness_KennelItemsReachMembers :
    let k := sealedItem []
    (keyed.inOrder 0 k.sqn false k.owner = true ∧ keyed.forSelf 0 k.owner k.dst = some 0 ∧ keyed.isHome 0 = false)
    ∧ (member.inOrder 0 k.sqn false k.owner = true ∧ member.forSelf 0 k.owner k.dst = some 0 ∧ member.isHome 0 = false
      ∧ (member.part 0).openItem k = none)
    ∧ (kenMsgOf (leBytes 25 3) = some (.cancel 0) ∧ kenMsgOf (leBytes 25 4) = some (.seed 0 0) ∧ kenMsgOf (leBytes 25 2) = some (.map 0 0)
      ∧ kenMsgOf (leBytes 25 1) = some (.slot 0 0 ⟨false, 0, 0, 0, 0⟩) ∧ kenMsgOf (leBytes 25 6) = some (.word 0 0 0)
      ∧ kenMsgOf (leBytes 25 7) = some (.resume 0) ∧ kenMsgOf (leBytes 25 5) = some (.freed 0)) := by
  refine ⟨⟨by decide +kernel, by decide +kernel, by decide +kernel⟩, ⟨by decide +kernel, by decide +kernel, by decide +kernel, ?_⟩, by decide +kernel⟩
  have h : (member.part 0).keys.linkKey = #v[none, none] := by decide +kernel
  have h1 : ∀ ph, (member.part 0).keys.linkKey[two ph] = none := by intro ph; rw [h]; cases ph <;> rfl
  unfold Partition.openItem
  simp [h1]

theorem witness_KennelItemsAndBarkWork_bark :
    let s := live.setObj 0x2000 0x47 [1, 0]
    let t := s.modPart 0 fun x => { x with kennel := { x.kennel with barkDone := 2 } }
    ((0 : Fin 2) ∈ s.barkUnits 0 ∧ (s.part 0).running = true ∧ (s.ken 0).barkDone.getLsbD 0 = false ∧ s.faults.persist.getLsbD 40 = false
      ∧ (s.ken 0).bark = [] ∧ s.damaged = [])
    ∧ ((1 : Fin 2) ∈ t.barkUnits 0 ∧ (t.ken 0).barkDone.getLsbD 1 = true) := by decide +kernel

/-! Memory -/

/-- A layout with region KV and a model slot in HBM3E, regions MIRROR and LIBRARY in LPDDR5X. -/
def mapped (s : State) : State :=
  s.setObj 0x2000 0x50 ((List.range 16).flatMap fun r =>
    leBytes 16 (if r = 3 then 16 + 4 * 2 ^ 32 else if r = 1 then 32 + 4 * 2 ^ 32 else if r = 7 then 2 ^ 20 + 4 * 2 ^ 32
      else if r = 10 then 2 ^ 20 + 64 + 4 * 2 ^ 32 else 0))

theorem witness_CopiesWaitForTheBoundary :
    let c (back : Bool) : CopyJob := ⟨1, back, 0, [33554432], [34603008], false, false⟩
    let s := (mapped live).modPart 0 fun x => { x with
      kennel := { x.kennel with copies := [c false, { c true with entry := 2 }] }
      swaps := [⟨true, 0, 0, 256, true, false, 0⟩] }
    ((s.ken 0).copies.find? (fun c => c.entry == (1 : BitVec 12) && c.back == false && !c.done && !c.failed) = some (c false) ∧ s.damaged = [])
    ∧ (s.ken 0).copies.find? (fun c => c.entry == (2 : BitVec 12) && c.back == true && !c.done && !c.failed) = some { c true with entry := 2 }
    ∧ ((s.part 0).copying 1 = some ⟨true, 0, 0, 256, true, false, 0⟩ ∧ (s.part 0).stepping = true) := by decide +kernel

/-- A manifest of `chunk` alone, in raw form. -/
def manifestOf (chunk : Bytes) : Bytes :=
  [0, 0, 0, 0, 0, 0, 0, 0, 0, 0, 0, 0, 1] ++ List.replicate 115 0 ++ leBytes 32 (Config.sha3_256 chunk).toNat

/-- An ingest into model slot 0 that has begun, with the chunks that it holds. -/
def ingestOf (held : List (BitVec 32)) : Ingest := ⟨manifestOf [1, 2], held, [], [], [], false, false, false, true, true, false, 0⟩

def ingesting (held : List (BitVec 32)) : State := (pack 1).modPart 0 fun x => { x with ingests := [ingestOf held] }

theorem manifestOf_field (chunk : Bytes) (lo n : Nat) (h : lo + n ≤ 1024) :
    recField (manifestOf chunk) lo n = recField ([0, 0, 0, 0, 0, 0, 0, 0, 0, 0, 0, 0, 1] ++ List.replicate 115 0) lo n := by
  unfold manifestOf
  rw [recField_append _ _ _ _ (by simpa using h)]

theorem ingestOf_key (held : List (BitVec 32)) : (ingestOf held).key = ⟨0, 0⟩ := by
  unfold Ingest.key Ingest.dest Ingest.page ingestOf
  rw [manifestOf_field _ 49 2 (by decide), manifestOf_field _ 64 32 (by decide)]
  decide +kernel

theorem ingesting_has (held : List (BitVec 32)) : ((ingesting held).part 0).ingestOf ⟨0, 0⟩ = some (ingestOf held) := by
  have h : ((ingesting held).part 0).ingests = [ingestOf held] := rfl
  unfold Partition.ingestOf
  simp [h, ingestOf_key]

theorem manifestOf_chunks (chunk : Bytes) : mfChunks (manifestOf chunk) = 1 := by
  unfold mfChunks manifestOf
  rw [recField_append _ _ _ _ (by simp)]
  decide +kernel

theorem manifestOf_form (chunk : Bytes) : mfForm (manifestOf chunk) = 0 := by
  unfold mfForm manifestOf
  rw [recField_append _ _ _ _ (by simp)]
  decide +kernel

theorem witness_IngestsAdvance_chunk :
    let g := ingestOf []
    let s := ingesting []
    (s.faults.muzzle = false ∧ s.ingestEntry 0 = some ⟨1, 0, 0, false, 0, 0⟩ ∧ (s.part 0).ingestOf ⟨0, 0⟩ = some g ∧ g.done = false
      ∧ (0 : BitVec 32).toNat < mfChunks g.manifest ∧ (0 : BitVec 32).toNat ≠ manifestIndex ∧ g.held.contains (0 : BitVec 32) = false)
    ∧ (leBytes 32 (Config.sha3_256 [1, 2]).toNat = mfDigest g.manifest 0 ∧ mfForm g.manifest = 0 ∧ g.feeds = [] ∧ s.damaged = []
      ∧ g.flushed = true ∧ (s.part 0).steady g = true)
    ∧ g.retried.contains (0 : BitVec 32) = false :=
  ⟨⟨rfl, by decide +kernel, ingesting_has _, rfl, by simp only [ingestOf]; rw [manifestOf_chunks]; decide, by decide, rfl⟩,
    ⟨rfl, manifestOf_form _, rfl, rfl, rfl, rfl⟩, rfl⟩

/-- The same manifest with every byte of its digest record raised by one. -/
theorem witness_IngestsAdvance_bad :
    leBytes 32 (Config.sha3_256 [1, 2]).toNat
      ≠ mfDigest ([0, 0, 0, 0, 0, 0, 0, 0, 0, 0, 0, 0, 1] ++ List.replicate 115 0 ++ (leBytes 32 (Config.sha3_256 [1, 2]).toNat).map (· + 1)) 0 := by
  intro h
  have h1 : ∀ b : Byte, b ≠ b + 1 := by decide
  exact h1 _ (List.cons.inj h).1

theorem ingestOf_first : (ingestOf [0]).first = mfChunks (ingestOf [0]).manifest ∧ (ingestOf []).first ≠ mfChunks (ingestOf []).manifest := by
  have h : recField (manifestOf [1, 2]) 96 32 = 1 := manifestOf_chunks _
  unfold Ingest.first ingestOf
  simp only [h, manifestOf_chunks]
  decide

theorem witness_IngestsAdvance_done :
    let g := ingestOf [0]
    let s := ingesting [0]
    (s.part 0).ingestOf ⟨0, 0⟩ = some g ∧ g.done = false ∧ g.flushed = true ∧ g.first = mfChunks g.manifest ∧ mfForm g.manifest = 0
    ∧ (s.part 0).steady g = true :=
  ⟨ingesting_has _, rfl, rfl, ingestOf_first.1, manifestOf_form _, rfl⟩

theorem witness_IngestsAdvance_rest :
    ((1 : BitVec 14) ∈ (pack 0).ingestChildren 0 ∧ ((pack 0).part 0).ingestOf ⟨0, 0⟩ = none)
    ∧ (let g := { ingestOf [0] with done := true }
      let s := (pack 0).modPart 0 fun x => { x with ingests := [g] }
      (s.part 0).ingestOf ⟨0, 0⟩ = some g ∧ g.done = true ∧ g.reported = false ∧ s.ingestEntry 0 = some ⟨0, 0, 0, true, 0, 0⟩
      ∧ s.ingestChildren 0 = [1])
    ∧ (let g := ingestOf []
      (ingesting []).ingestEntry 0 = some ⟨1, 0, 0, false, 0, 0⟩ ∧ ((ingesting []).part 0).ingestOf ⟨0, 0⟩ = some g ∧ g.done = false
      ∧ g.first ≠ mfChunks g.manifest ∧ g.switches + 1 ≠ 4) := by
  refine ⟨by decide +kernel, ⟨?_, rfl, rfl, by decide +kernel, by decide +kernel⟩, by decide +kernel, ingesting_has _, rfl, ingestOf_first.2, by decide⟩
  have h : ({ ingestOf [0] with done := true } : Ingest).key = ⟨0, 0⟩ := ingestOf_key [0]
  unfold Partition.ingestOf
  rw [show (((pack 0).modPart 0 fun x => { x with ingests := [{ ingestOf [0] with done := true }] }).part 0).ingests
    = [{ ingestOf [0] with done := true }] from rfl]
  simp only [List.find?_cons]
  rw [h]
  simp


theorem witness_MemoryErrorsAreContained :
    (mapped live).phys 0 33554432 = some 0 
    ∧ (mapped live).partNo.fswBit (physUnit live.partNo.lpShare 0).1.val = true ∧ (mapped live).runningAt 0 33554432 = false ∧ ((mapped live).part 0).stepping = true ∧ live.pins.pwrGood = true
    ∧ ((95 : Fin 256).val < live.partNo.lpShare * live.partNo.cols) ∧ ((255 : Fin 256).val < live.partNo.stacks * 32) := by decide +kernel

theorem witness_KeysTurnOverAndScrubsEnd :
    let s := live.modPart 0 fun x => { x with
      keys := { x.keys with lpKeys := [(0, 5)], ideSet := #v[none, some 9] }, partState := 2, scrubCols := 2, scrubs := [⟨0, 1, 1⟩] }
    ((s.part 0).keys.lpKeys.find? (fun o => o.1 == 0) = some (0, 5) ∧ (s.part 0).keys.lpOld = [] ∧ s.ownsCol 0 ((0 : Fin 96).val / s.partNo.lpShare) = true)
    ∧ (s.part 0).keys.ideSet[two (!(s.part 0).keys.ideActive)] = some 9
    ∧ ((s.part 0).partState = 2 ∧ s.pnum 0 1 ≠ 0 ∧ (s.part 0).scrubCols.getLsbD 1 = true ∧ s.shareRanges 1 ≠ [])
    ∧ ((s.setObj 0x2000 1 [0, 0]).part 0).partState = 2 ∧ (s.setObj 0x2000 1 [0, 0]).pnum 0 1 = 0 := by decide +kernel

/-- A header whose digest is that of its bytes. -/
def header : MirrorHeader :=
  let h : MirrorHeader := ⟨4, [0, 0], [], [], 0, [], []⟩
  { h with digest := leBytes 32 (Config.sha3_256 (mirrorBytes h)).toNat }

theorem witness_MirrorsFollow :
    (let s := live.modPart 0 fun x => { x with mirrorState := 1, stepCommitted := 4 };
      (s.part 0).mirrorState = 1 ∧ (4 : BitVec 64) ≤ (s.part 0).stepCommitted ∧ (s.part 0).stepCommitted ≠ BitVec.allOnes 64)
    ∧ (let s := (ken stFree).modPart 0 fun x => { x with jobState := 0, running := false };
      (s.part 0).restorable = true ∧ headerValid header = true
      ∧ header.entries.length = s.pnum 0 0x41 ∧ ({ header with entries := [] } : MirrorHeader).entries.length ≠ s.pnum 0 0x41) := by
  refine ⟨by decide +kernel, by decide +kernel, ?_, by decide +kernel, by decide +kernel⟩
  show (header.digest == leBytes 32 (Config.sha3_256 (mirrorBytes header)).toNat) = true
  simp [header]
  rfl

/-! Links -/

/-- Port 0 of a module in a state of its own. -/
def onPort (f : Port → Port) : State := (pack 0).modPort 0 f

theorem witness_PortsTrain :
    (onPort fun x => { x with state := 1 }).hasPort 0 = true ∧ ((onPort fun x => { x with state := 1 }).port 0).state = 1
    ∧ ((onPort fun x => { x with state := 4 }).port 0).state = 4
    ∧ ([] : Bytes) ≠ (onPort fun x => { x with state := 1 }).ownerDigest 0
    ∧ (pack 0).num 0x3400 1 < (0xFFFF : BitVec 16).toNat ∧ (0 : BitVec 16).toNat ≤ (pack 0).num 0x3400 1
    ∧ ((onPort fun x => { x with state := 1 }).port 0).attempts < (pack 0).num 0x3400 9
    ∧ (pack 0).num 0x3400 9 ≤ ((onPort fun x => { x with state := 1, attempts := 255 }).port 0).attempts := by
  refine ⟨by decide +kernel, by decide +kernel, by decide +kernel, ?_, by decide +kernel, by decide +kernel, by decide +kernel, by decide +kernel⟩
  intro h
  have := congrArg List.length h
  simp [State.ownerDigest] at this

/-- A flit of owner 0 on VC0 that a DSND of the cell has put on port 0. -/
def queued : OutFlit := ⟨.data ⟨0, 0, 0, 0, 8, 5, 0, 1, false, false, [1, 2]⟩, 0, 0, none, 0, 0, .dsnd c0 0⟩

theorem witness_PortsGoDown :
    (pack 0).linkUp 0 = true ∧ (pack 0).num 0x3400 3 < (0xFFFFFFFF : BitVec 32).toNat ∧ (0 : BitVec 32).toNat ≤ (pack 0).num 0x3400 3
    ∧ (onPort fun x => { x with qByp := [shortOut 0 ⟨6, true, 0, false, 0, 1, []⟩],
                                chans := x.chans.map fun r => r.map fun k => { k with occ := 60000 } }).waitsCredit 0 = true
    ∧ (onPort fun x => { x with grace := true }).hasPort 0 = true ∧ ((onPort fun x => { x with grace := true }).port 0).grace = true := by
  decide +kernel

theorem witness_WheelPositionsCarryTheirOwner :
    let s := onPort fun x => { x with q0 := [queued], chans := x.chans.map fun r => r.map fun k => { k with w := 8 } }
    (s.linkUp 0 = true ∧ (0 : BitVec 16).toNat % 64 ≠ 63 ∧ (s.port 0).qByp = [] ∧ (s.port 0).replay = [])
    ∧ (s.positionOwner 0 0 = some 0 ∧ s.silenced 0 0 = false ∧ (s.port 0).q0 = [queued] ∧ queued.owner = 0 ∧ s.maySend 0 queued = true
      ∧ holdsPosition queued.alloc 0 = true)
    ∧ (live.modPort 0 fun x => { x with state := 3 }).positionOwner 0 65534 = none
    ∧ (s.modPart 0 fun x => { x with fenced := true }).silenced 0 0 = true := by decide +kernel

theorem witness_DataFlitsAreReceived :
    let s := pack 0
    let f : Flit := ⟨0, 0, 0, 0, 8, 5, 0, 0, false, false, [1, 2]⟩
    (s.linkUp 0 = true ∧ f.ft = 0 ∧ f.vc.toNat = (0 : Chan).val ∧ s.faults.muzzle = false ∧ (∀ w ∈ [(⟨15, true⟩ : Codeword)], w.errors ≤ 15))
    ∧ (f.sqn = (s.port 0).rxNext ∧ (s.port 0).rxHeld = [] ∧ s.room 0 (ownIx f.owner) 0 4 = true ∧ s.forSelf 0 f.owner f.dst = some 0
      ∧ f.last = false ∧ s.msgs = [])
    ∧ (s.room 0 (ownIx 1) 0 4 = false ∧ s.room 0 (ownIx 0) 2 4 = true ∧ s.forSelf 0 0 9 = none ∧ s.transitOf (s.ownerAt 0 0).job 9 = none)
    ∧ ((s.port 0).accepts 0x80000 = false ∧ (s.port 0).accepts 0 = true)
    ∧ ((s.tickWindow 0 true).port 0).errNow ≤ s.num 0x3400 1
    ∧ (let t := onPort fun x => { x with win := List.replicate 16 60000 };
      t.linkUp 0 = true ∧ t.num 0x3400 1 < ((t.tickWindow 0 true).port 0).errNow) := by decide +kernel

theorem witness_ItemsReceivedTakeEffect :
    let s := pack 0
    (s.linkUp 0 = true ∧ ([] : List (BitVec 20)).length ≤ 8 ∧ (3 : Chan).val < ([0, 0, 0, 0] : List (BitVec 32)).length
      ∧ (3 : Chan).val < (List.replicate 4 (⟨0, 0⟩ : ChanCount)).length)
    ∧ (s.inOrder 0 0 false 0 = true ∧ ([some ⟨1, 0⟩, none, none, none] : List (Option ChanCount))[0]? = some (some ⟨1, 0⟩))
    ∧ (s.inOrder 0 0 true 7 = true ∧ s.ofJob 7 = some 0 ∧ s.self 0 = 0 ∧ s.ofJob 9 = none ∧ s.transitOf 9 5 = none) := by decide +kernel

theorem witness_ItemsAreSent :
    (pack 0).linkUp 0 = true
    ∧ ((onPort fun x => { x with replay := [⟨9, queued, 0, 0, none, false⟩] }).port 0).replay.find? (fun r => r.seq == 9)
      = some ⟨9, queued, 0, 0, none, false⟩
    ∧ (pack 0).heel.state ≠ 0 ∧ (pack 0).heel.slew = 0 ∧ (pack 0).heel.holdRate = 0 := by decide +kernel

/-- VC2 rings of 16 for the partition of device 0. -/
def vc2 : State :=
  let s := mapped ((((pack 0).setObj 0x2000 4 [0]).setObj 0x2000 0x61 [16, 0]).setObj 0x2000 0x63 [16, 0])
  { s with power := { s.power with pcie := #v[1, 0] } }

/-- An FADD of 8 bytes at address 33554432 of device `dev` under OPID 3. -/
def fadd (dev : Nat) : BitVec 512 := BitVec.ofNat 512 (3 + dev * 2 ^ 32 + 33554432 * 2 ^ 64 + 8 * 2 ^ 192 + 3 * 2 ^ 256)

theorem witness_Vc2RequestsIssueAndComplete_issue :
    let v := (vc2.part 0).vc2
    ((8 : BitVec 32).toNat < 4096 ∧ (8 : BitVec 32).toNat < vc2.pnum 0 0x61 ∧ vc2.mcFree 0 = true ∧ v.mqHead ≠ 8 ∧ vc2.takes 0 ⟨0, false⟩ = true
      ∧ vc2.takes 0 ⟨1, false⟩ = false)
    ∧ (vc2.badRequest 0 (fadd 1) = false ∧ ¬ mqOp (fadd 1) ≤ 2 ∧ v.out.length < vc2.vc2Limit 0 ∧ vc2.portTo 0 (mqDev (fadd 1)) = some 0
      ∧ vc2.freshTxid 0 = some 0 ∧ vc2.damaged = [])
    ∧ (vc2.badRequest 0 (fadd 2) = true ∧ vc2.colsOf 0 ≠ [])
    ∧ ((0 : BitVec 32).toNat < vc2.pnum 0 0x63 ∧ v.kept = []
      ∧ ((0 : BitVec 32).toNat + vc2.pnum 0 0x63 - v.mcHead.toNat) % vc2.pnum 0 0x63
        ≤ (v.mcWrite.toNat + vc2.pnum 0 0x63 - v.mcHead.toNat) % vc2.pnum 0 0x63) := by decide +kernel

theorem witness_Vc2RequestsIssueAndComplete_complete :
    let s := vc2.modPart 0 fun x => { x with vc2 := { x.vc2 with out := [⟨5, fadd 1, some 100⟩] } }
    s.mcFree 0 = true ∧ (s.part 0).vc2.out.find? (fun q => q.txid == 5) = some ⟨5, fadd 1, some 100⟩ ∧ s.damaged = []
    ∧ (s.part 0).vc2.out.find? (fun q => q.txid == 6) = none := by decide +kernel

theorem witness_Vc2TargetsApplyOnce :
    let r (op1 : BitVec 64) (len : BitVec 16) (data : Bytes) : Vc2In := ⟨0, 0, 1, 5, 33554432, len, 3, op1, 0, data⟩
    let s := vc2
    let t := vc2.modPart 0 fun x => { x with vc2 := x.vc2.keep ⟨1, 3, 0, 9⟩ }
    (s.localOf 0 0 = some 0 ∧ s.hasPort 0 = true ∧ s.damaged = [])
    ∧ ((s.part 0).vc2.recorded 1 3 = none ∧ (s.part 0).vc2.stale 1 3 = false ∧ lenOk 1 33554432 4096 = true ∧ lenOk 2 33554432 1 = true
      ∧ s.mapped 0 33554432 4096 = true ∧ s.mapped 0 33554432 1 = true ∧ (r 0 1 [7]).data.length = (r 0 1 [7]).len.toNat)
    ∧ ((r 1 8 []).len = 8 ∧ 33554432 % 8 = 0 ∧ s.mapped 0 33554432 8 = true)
    ∧ ((t.part 0).vc2.recorded 1 3 = some ⟨1, 3, 0, 9⟩ ∧ ((t.part 0).vc2.first 1).isSome = true ∧ (t.part 0).vc2.recorded 1 4 = none
      ∧ (t.part 0).vc2.stale 1 4 = false)
    ∧ (s.part 0).vc2.first 1 = none := by decide +kernel

/-! Heel -/

/-- Port 0 leads to the time parent; the module belongs to domain 5. -/
def child (state : BitVec 8) : State :=
  let s := ((pack 1).setObj 0x8000 4 [0]).setObj 0x8000 6 [5, 0, 0, 0]
  { s with heel := { Heel.cold with state := state, now := 6553600, xseq := 4, t1 := some 0, good := 63 } }

theorem witness_HeelExchangesAndTime :
    ((child 2).timePort = some 0 ∧ (child 2).isRoot = false ∧ (child 2).num 0x8000 6 ≠ 0 ∧ (child 2).linkUp 0 = true)
    ∧ ((child 2).inDomain 5 = true ∧ (child 2).inDomain 6 = false) ∧ (child 2).heel.state = 2 ∧ (child 3).heel.state = 3
    ∧ (child 2).heel.slew = 0 ∧ (child 2).heel.holdRate = 0 := by decide +kernel

/-- A response whose legs differ by nothing: a delay and an offset of 0. -/
def resp : HeelItem := ⟨1, 5, 4, 0, 0, 6553600 - Config.rxDelay 0 0, true, 0⟩

theorem witness_HeelResponsesSetTime :
    let ok (s : State) : Prop := s.heel.t1 = some 0 ∧ s.isRoot = false ∧ s.timePort = some 0 ∧ s.linkUp 0 = true ∧ s.heel.slew = 0
      ∧ s.heel.holdRate = 0 ∧ ((6553600 : BitVec 64) - s.heel.now).toNat < 2 ^ 63
    (ok (child 0) ∧ ok (child 1) ∧ ok (child 2) ∧ ok (child 3) ∧ ok (child 4))
    ∧ ((child 1).inDomain resp.domain = true ∧ resp.sqn = (child 1).heel.xseq ∧ resp.locked = true
      ∧ (let t4 : BitVec 64 := 6553600 - Config.rxDelay 0 ((child 1).port 0).upSince
        0 ≤ (half ((t4 - 0) - (resp.t3 - resp.t2))).toInt ∧ (half ((t4 - 0) - (resp.t3 - resp.t2))).toInt ≤ 12000 * 65536))
    ∧ ((child 4).modPart 0 fun x => { x with runPlan := none }).noPlan = true ∧ 5 ≠ (child 1).heel.xseq := by
  refine ⟨by decide +kernel, ⟨by decide +kernel, by decide +kernel, rfl, ?_⟩, by decide +kernel, by decide +kernel⟩
  have h : ((child 1).port 0).upSince = 0 := by decide +kernel
  simp only [h, resp]
  simp [half]

/-! Basnus -/

/-- A way over management port 0, and a module whose port 0 has the address that it names. -/
def net : Path := .mgmt ⟨0, 7, 5, 46174⟩
def hub : State := live.setObj 0x1060 3 (leBytes 16 5)

/-- The same way to a module without columns or jobs. -/
def far : State := State.reset.setObj 0x1060 3 (leBytes 16 5)

/-- Session 1 of a role for partition 0 on a path, with a staging session. -/
def sess (role : BitVec 4) (path : Path) (g : Option Staging) : Session :=
  ⟨1, role, 0, path, false, 7, 8, 0, [], [], none, g, false, 0, [], [], false, 0⟩

/-- A request under SEQ 1 of session 1, before its tag. -/
def ask (op : BitVec 8) (path : Path) (index : BitVec 16) (sub : BitVec 8) (data : Bytes) : Frame :=
  moduleFrame path 0x10 1 1 op 0 index sub false 0 data.length data

/-- A frame of kind `kind` with the tag of the session. -/
def tagged (x : Session) (f : Frame) : Frame := { f with tag := frameTag x.kc f }

/-- A state with one session. -/
def holding (s : State) (x : Session) : State := { s with sessions := [x] }

theorem tagged_authentic {s : State} {x : Session} {f : Frame} (h : wellFramed f = true ∧ s.session f.sid = some x ∧ x.reaches f.path = true) :
    s.authentic (tagged x f) = some x := by
  obtain ⟨h1, h2, h3⟩ := h
  have h4 : frameTag x.kc (tagged x f) = frameTag x.kc f := rfl
  have h5 : s.session (tagged x f).sid = some x := h2
  have h6 : wellFramed (tagged x f) = true := h1
  have h7 : x.reaches (tagged x f).path = true := h3
  unfold State.authentic
  rw [h5]
  have h8 : (tagged x f).tag = frameTag x.kc f := rfl
  simp only [h6, h7, h4, h8, Bool.and_self, BEq.rfl, if_true]

theorem tagged_requested {s : State} {x : Session} {f : Frame}
    (h : (s.isReady = true ∧ s.hears f.path = true ∧ f.kind = 0x10 ∧ x.seqMax < f.seq ∧ f.rsvd = 0)
      ∧ (wellFramed f = true ∧ s.session f.sid = some x ∧ x.reaches f.path = true)) : s.requested (tagged x f) x :=
  ⟨h.1.1, h.1.2.1, h.1.2.2.1, tagged_authentic h.2, h.1.2.2.2.1, h.1.2.2.2.2⟩

/-- What `State.written` asks beyond an authentic request, of a frame before or after its tag. -/
abbrev writes (s : State) (x : Session) (f : Frame) (index sub : Nat) : Prop :=
  ((s.isReady = true ∧ s.hears f.path = true ∧ f.kind = 0x10 ∧ x.seqMax < f.seq ∧ f.rsvd = 0) ∧ (wellFramed f = true ∧ s.session f.sid = some x ∧ x.reaches f.path = true))
  ∧ f.op = 2 ∧ f.more = false ∧ f.offset = 0 ∧ f.total.toNat = f.data.length ∧ baseIndex f.index.toNat = index ∧ f.sub.toNat = sub
  ∧ (s.noted (tagged x f) x).allowWrite x (tagged x f) = stOk ∧ isStaged f.index.toNat sub = false ∧ writeLen f.index.toNat sub f.data = true
  ∧ badForm f.index.toNat sub f.data = false

theorem tagged_written {s : State} {x : Session} {f : Frame} {index sub : Nat} (h : writes s x f index sub) : s.written (tagged x f) x index sub :=
  ⟨tagged_requested h.1, h.2⟩

theorem witness_SessionsOpenAndClose_open :
    let f := moduleFrame net 1 0 0 0 0 0 0 false 0 40 (List.replicate 40 0)
    hub.start.stage = 5 ∧ hub.hears f.path = true ∧ wellFramed f = true ∧ f.kind = 1 ∧ f.data.length = 40 ∧ (0 : PartIx).val = recField f.data 4 4
    ∧ roleOnPath (BitVec.ofNat 4 (recField f.data 0 4)) 0 f.path = true ∧ (0 : PartIx).val < hub.partNo.partitions ∧ hub.sessions.length < 64
    ∧ hub.handshakes.length < 8 := by decide +kernel

/-- A handshake of the fabric manager that has come so far, and a segment of its ACCEPT. -/
def shake (n : Nat) : Handshake := ⟨9, roleFm, 0, net, 0, 1, List.replicate n 0, 6195, 0⟩
def shaken (n : Nat) : State := { hub.setObj 0x1050 1 [1] with handshakes := [shake n] }
def segment (more : Bool) (offset total n : Nat) : Frame := { moduleFrame net 3 9 0 0 0 0 0 false offset total (List.replicate n 0) with more := more }

theorem witness_SessionsOpenAndClose_accept :
    let s := shaken 5000
    let f := segment false 5000 6195 1195
    s.start.stage = 5 ∧ s.hears f.path = true ∧ wellFramed f = true ∧ f.kind = 3
    ∧ s.handshakes.find? (fun h => h.sid == f.sid && h.reaches f.path) = some (shake 5000)
    ∧ joinSegment (shake 5000).body (shake 5000).total f = some (List.replicate 6195 0) ∧ f.more = false ∧ (List.replicate 6195 (0 : Byte)).length = f.total.toNat
    ∧ s.roleKey (shake 5000).role (shake 5000).part ≠ [] := by
  refine ⟨rfl, by decide +kernel, ?_, rfl, rfl, ?_, rfl, ?_, by decide +kernel⟩
  · simp only [wellFramed, segment, moduleFrame, isRead, pathCap, List.length_replicate]
    decide
  · simp only [joinSegment, segment, moduleFrame, shake, List.length_replicate, ← List.replicate_add]
    rw [if_neg (by decide), if_pos (by decide)]
  · simp only [segment, moduleFrame, List.length_replicate]
    decide

theorem witness_SessionsOpenAndClose_segments :
    (joinSegment (shake 8).body (shake 8).total (segment true 9 6195 8) = none ∧ wellFramed (segment true 9 6195 8) = true)
    ∧ ((joinSegment (shake 8).body (shake 8).total (segment true 8 6195 8)).isSome = true ∧ (segment true 8 6195 8).more = true)
    ∧ ((joinSegment (shake 8).body (shake 8).total (segment false 8 6195 8)).map (·.length) = some 16 ∧ (segment false 8 6195 8).more = false
      ∧ 16 ≠ (segment false 8 6195 8).total.toNat)
    ∧ (shaken 8).handshakes.find? (fun h => h.sid == (segment true 8 6195 8).sid && h.reaches (segment true 8 6195 8).path) = some (shake 8) := by
  decide +kernel

theorem witness_SessionsOpenAndClose_close :
    let x := sess roleFm net (some { Staging.opened with state := 3, on := some 0 })
    (holding hub x).authentic (tagged x (moduleFrame net 0x1F 1 0 0 0 0 0 false 0 0 [])) = some x ∧ (holding hub x).hears net = true
    ∧ (holding hub x).session x.sid = some x
    ∧ (shaken 8).handshakes.find? (fun g => g.sid == (shake 8).sid) = some (shake 8) :=
  ⟨tagged_authentic (by decide +kernel), by decide +kernel, by decide +kernel, by decide +kernel⟩

/-- A state whose PCIe link 0 is trained. -/
def lighted (s : State) : State := { s with power := { s.power with pcie := #v[0x46, 0] } }
def lit : State := lighted live

theorem witness_RequestsAreAnswered_read :
    let x := sess roleH (.pf 0) none
    let f (index : BitVec 16) (sub : BitVec 8) := tagged x (ask 1 (.pf 0) index sub [])
    ((holding lit x).requested (f 0x2000 0x73) x ∧ ownRead (f 0x2000 0x73) = false
      ∧ (((holding lit x).noted (f 0x2000 0x73) x).readObj x (f 0x2000 0x73)).status = stOk)
    ∧ ((holding lit x).requested (f 0xF020 3) x ∧ (((holding lit x).noted (f 0xF020 3) x).readObj x (f 0xF020 3)).status = stOk)
    ∧ ((holding lit x).requested (f 0xF010 2) x ∧ (((holding lit x).noted (f 0xF010 2) x).readObj x (f 0xF010 2)).status ≠ stOk)
    ∧ (((holding lit x).noted (f 0x2000 0xFF) x).readObj x (f 0x2000 0xFF)).status ≠ stOk :=
  ⟨⟨tagged_requested (by decide +kernel), by decide +kernel, by decide +kernel⟩, ⟨tagged_requested (by decide +kernel), by decide +kernel⟩,
    ⟨tagged_requested (by decide +kernel), by decide +kernel⟩, by decide +kernel⟩

theorem witness_RequestsAreAnswered_stale :
    let x := { sess roleH (.pf 0) none with seqMax := 1 }
    (holding lit x).isReady = true ∧ (holding lit x).hears (.pf 0) = true
    ∧ (holding lit x).authentic (tagged x (ask 1 (.pf 0) 0x2000 0x73 [])) = some x ∧ (1 : BitVec 64) ≤ x.seqMax
    ∧ lit.authentic (ask 1 (.pf 0) 0x2000 0x73 []) = none ∧ x.kept.find? (fun k => sameFrame k.request (tagged x (ask 1 (.pf 0) 0x2000 0x73 []))) = none :=
  ⟨by decide +kernel, by decide +kernel, tagged_authentic (by decide +kernel), by decide +kernel, by decide +kernel, by decide +kernel⟩

theorem witness_RequestsAreAnswered_write :
    let y := sess roleH (.pf 0) none
    let z := sess roleT (.vf 0) none
    let lone := holding (lit.setObj 0x2000 4 [0]) z
    let x := sess roleFm net (some Staging.opened)
    let f := ask 2 net 0x2000 0x75 [0, 16, 0, 0]
    (holding lit y).written (tagged y (ask 2 (.pf 0) 0xF020 1 (List.replicate 16 1))) y 0xF020 1
    ∧ (holding lit y).written (tagged y (ask 2 (.pf 0) 0xF020 2 (List.replicate 16 1))) y 0xF020 2
    ∧ (holding lit y).written (tagged y (ask 2 (.pf 0) 0xF010 1 [0, 0x40, 0, 0, 0, 0, 0, 0])) y 0xF010 1
    ∧ (lone.written (tagged z (ask 2 (.vf 0) 0xF010 1 [0, 0x40, 0, 0, 0, 0, 0, 0])) z 0xF010 1
      ∧ recField [0, 0x40, 0, 0, 0, 0, 0, 0] 12 4 ≤ 10 ∧ recField [0, 0x40, 0, 0, 0, 0, 0, 0] 0 4 = z.part.val)
    ∧ ((holding hub x).requested (tagged x f) x ∧ isStaged f.index.toNat f.sub.toNat = true
      ∧ ((holding hub x).noted (tagged x f) x).allowWrite x (tagged x f) = stOk ∧ (stageObj ⟨f.index, f.sub, f.data⟩ []).length ≤ 256
      ∧ stagedBytes (stageObj ⟨f.index, f.sub, f.data⟩ []) ≤ 1048576) :=
  ⟨tagged_written (by decide +kernel), tagged_written (by decide +kernel), tagged_written (by decide +kernel),
    ⟨tagged_written (by decide +kernel), by decide +kernel⟩, tagged_requested (by decide +kernel), by decide +kernel, by decide +kernel,
    by decide +kernel, by decide +kernel⟩

theorem witness_RequestsAreAnswered_rest :
    let x := { sess roleH (.pf 0) none with notify := true }
    let f := ask 1 (.pf 0) 0x2000 0x73 []
    (holding lit x).authentic (tagged x (moduleFrame (.pf 0) 0x13 1 4 0 0 0 0 false 0 0 [])) = some x ∧ (holding lit x).session x.sid = some x
    ∧ (holding lit x).start.stage = 5 ∧ (holding lit x).hears (.pf 0) = true
    ∧ boxOf (.pf 0) = some 0 ∧ lit.hasPhysical 0 = true ∧ live.hasPhysical 0 = false ∧ boxOf (.vf 0) = some 2
    ∧ ((ken 1).setObj 0x2000 4 [0]).takes 0 ⟨0, false⟩ = true ∧ (ken 1).takes 0 ⟨1, false⟩ = false ∧ (ken 1).serves 0 = true ∧ (ken 1).serves 1 = false
    ∧ (live.mailboxes[(0 : Fin 18)].done = true ∧ f.path = .pf 0 ∧ f.kind = 0x10 ∧ f.op = 1
      ∧ (64 : BitVec 32).toNat % 8192 = 64 + f.data.length + f.extra.length)
    ∧ ({ live with mailboxes := live.mailboxes.set 0 ⟨false, false, 0, none⟩ } : State).mailboxes[(0 : Fin 18)].done = false :=
  ⟨tagged_authentic (by decide +kernel), by decide +kernel⟩

/-! Staging -/

/-- The fabric manager's session with a staging session. -/
def fm (g : Option Staging) : Session := sess roleFm net g

/-- BAR_MARGIN of partition 0, and PART_COLS without bytes. -/
def margin : StagedObj := ⟨0x2000, 0x75, [0, 16, 0, 0]⟩
def short : StagedObj := ⟨0x2000, 1, []⟩

/-- A write of the fabric manager. -/
def wr (index : BitVec 16) (sub : BitVec 8) (data : Bytes) : Frame := ask 2 net index sub data

/-- A checked staging session of one object. -/
def checked : Staging := { Staging.opened with state := 2, objs := [margin], reserved := true }

theorem witness_StagingSessionsCommit_open :
    (holding hub (fm none)).written (tagged (fm none) (wr 0x1100 1 [1])) (fm none) 0x1100 1 ∧ (fm none).staging = none
    ∧ leNat (tagged (fm none) (wr 0x1100 1 [1])).data = 1
    ∧ (((holding hub (fm none)).noted (tagged (fm none) (wr 0x1100 1 [1])) (fm none)).sessions.filter fun y => y.staging.isSome).length < 16 :=
  ⟨tagged_written (by decide +kernel), by decide +kernel⟩

theorem witness_StagingSessionsCommit_check :
    let x := fm (some { Staging.opened with objs := [margin] })
    let f := tagged x (wr 0x1100 2 [1])
    (holding hub x).written f x 0x1100 2 ∧ leNat f.data = 1 ∧ ((holding hub x).noted f x).checkSet [margin] none roleFm = none
    ∧ (((holding hub x).noted f x).checkSet [short] none roleFm).isSome = true :=
  ⟨tagged_written (by decide +kernel), by decide +kernel⟩

theorem witness_StagingSessionsCommit_commit :
    let x := fm (some checked)
    let f := tagged x (wr 0x1100 3 [9, 0, 0, 0, 0, 0, 0, 0])
    let off := hub.modPart 0 fun y => { y with jobState := 0, running := false }
    (∀ s ∈ [hub, off], (holding s x).written f x 0x1100 3 ∧ ((holding s x).noted f x).checkSet checked.objs none roleFm = none
      ∧ ((holding s x).noted f x).conflict x.sid checked = false)
    ∧ (((holding off x).noted f x).running checked.objs = [] ∧ ((holding off x).noted f x).clockOf checked = none)
    ∧ (((holding hub x).noted f x).running checked.objs = [0] ∧ ((holding hub x).noted f x).clockOf checked = some 0
      ∧ BitVec.ofNat 64 (leNat f.data) ≠ BitVec.allOnes 64 ∧ ((holding hub x).noted f x).hasBegun 0 9 = false
      ∧ ((holding hub x).noted f x).hasBegun 0 0 = true) := by
  refine ⟨?_, by decide +kernel, by decide +kernel⟩
  intro s hs
  rcases List.mem_cons.mp hs with rfl | hs
  · exact ⟨tagged_written (by decide +kernel), by decide +kernel⟩
  · rw [List.mem_singleton.mp hs]
    exact ⟨tagged_written (by decide +kernel), by decide +kernel⟩

theorem witness_AbortsWithdrawPendingCommits :
    let g (step : BitVec 64) : Staging := { checked with state := 3, step := step, on := some 0 }
    let x (step : BitVec 64) := fm (some (g step))
    let f (step : BitVec 64) := tagged (x step) (wr 0x1100 5 [1])
    ((holding hub (x 9)).written (f 9) (x 9) 0x1100 5 ∧ leNat (f 9).data = 1 ∧ ((holding hub (x 9)).noted (f 9) (x 9)).hasBegun 0 9 = false)
    ∧ ((holding hub (x 0)).written (f 0) (x 0) 0x1100 5 ∧ ((holding hub (x 0)).noted (f 0) (x 0)).hasBegun 0 0 = true) :=
  ⟨⟨tagged_written (by decide +kernel), by decide +kernel⟩, ⟨tagged_written (by decide +kernel), by decide +kernel⟩⟩

/-! Orders -/

/-- The host's session, whose handles name host memory. -/
def host : Session := sess roleH (.pf 0) none

def hw (index : BitVec 16) (sub : BitVec 8) (data : Bytes) : Frame := ask 2 (.pf 0) index sub data

theorem witness_OrdersTakeEffect_begin :
    let s := holding (lighted (mapped ((pack 0).modPart 0 fun x => { x with images := [⟨7, Kennel.cold, 0, [], 0, 0, []⟩], stepCommitted := 7 }))) host
    ((s.written (tagged host (hw 0x2000 0x34 (leBytes 32 (4096 * 2 ^ 64)))) host 0x2000 0x34 ∧ (s.part 0).load = none ∧ (s.part 0).oldPlan = none
      ∧ (s.part 0).partState = 1)
    ∧ (let v := leBytes 16 (0 + 4096 * 2 ^ 64)
      (s.written (tagged host (hw 0x2000 0x53 v)) host 0x2000 0x53 ∧ recField v 0 1 = 0 ∧ recField v 1 31 = 0 ∧ recField v 64 64 ≠ 0
        ∧ recField v 64 64 ≤ (s.region 0 (rgModel 0)).size ∧ 2097152 * recField v 32 32 + recField v 64 64 ≤ (s.region 0 rgLibrary).size
        ∧ s.slotBusy 0 0 = false ∧ s.libraryBusy 0 0 4096 = false ∧ (s.part 0).stepping = true))
    ∧ (s.faults.muzzle = false ∧ s.written (tagged host (hw 0x2000 0x55 (leBytes 32 (2 ^ 64 * 3)))) host 0x2000 0x55 ∧ (∃ b, boxOf (tagged host (hw 0x2000 0x55 (leBytes 32 (2 ^ 64 * 3)))).path = some b)
      ∧ (∃ d, s.ingestEntry 0 = some d ∧ d.fetch = true)
      ∧ ([1, 2, 3] : Bytes).length = recField (leBytes 32 (2 ^ 64 * 3)) 64 64)
    ∧ (let v := leBytes 32 (2 ^ 64 * 1048576 + 2 ^ 128 * 7)
      s.written (tagged host (hw 0x2000 0x7A v)) host 0x2000 0x7A
        ∧ (s.part 0).images.find? (fun i => i.step == BitVec.ofNat 64 (recField v 128 64)) = some ⟨7, Kennel.cold, 0, [], 0, 0, []⟩
        ∧ (s.captureOf 0 ⟨7, Kennel.cold, 0, [], 0, 0, []⟩).length ≤ recField v 64 64
        ∧ (BitVec.ofNat 64 (recField v 128 64) + 1 - (s.part 0).stepCommitted).toNat ≤ 2)) := by
  refine ⟨⟨tagged_written (by decide +kernel), by decide +kernel⟩, ⟨tagged_written (by decide +kernel), by decide +kernel⟩,
    ⟨by decide +kernel, tagged_written (by decide +kernel), ⟨0, by decide +kernel⟩, ⟨⟨0, 0, 0, true, 0, 0⟩, by decide +kernel⟩, by decide +kernel⟩,
    ⟨tagged_written (by decide +kernel), by decide +kernel⟩⟩

theorem witness_OrdersTakeEffect_rest :
    let x := fm none
    let s := holding far x
    (s.written (tagged x (wr 0x8000 0x21 (leBytes 8 7))) x 0x8000 0x21 ∧ recField (leBytes 8 7) 48 16 = 0 ∧ recField (leBytes 8 7) 46 2 ≤ 1)
    ∧ (s.written (tagged x (wr 0x8000 0x22 [1])) x 0x8000 0x22 ∧ ∀ p : PartIx, (s.part p).busy = false)
    ∧ (let v := List.replicate 32 9 ++ [0x10] ++ List.replicate 15 0
      s.written (tagged x (wr 0x7000 0x30 v)) x 0x7000 0x30 ∧ x.role ≠ roleT ∧ recField v 261 123 = 0 ∧ recField v 256 8 / 16 % 2 = 1
        ∧ recField v 256 8 % 16 < s.partNo.partitions)
    ∧ ((hub.modPart 0 fun y => { y with load := some ⟨0, 3⟩ }).part 0).load = some ⟨0, 3⟩ ∧ ({ hub with selfVerdict := 1 } : State).selfVerdict = 1 := by
  refine ⟨⟨tagged_written (by decide +kernel), by decide +kernel⟩, ⟨tagged_written (by decide +kernel), by decide +kernel⟩,
    ⟨tagged_written (by decide +kernel), by decide +kernel⟩, by decide +kernel, rfl⟩

/-- A capture whose step used key 0 twice, with two digests, of which one at most can be right. -/
def captured : Bytes :=
  List.replicate 74 0 ++ [2, 0] ++ ([1] ++ List.replicate 17 0) ++ ([1] ++ List.replicate 17 0) ++ List.replicate 32 0 ++ List.replicate 32 1 ++ [0, 0]

theorem witness_OrdersTakeEffect_loads :
    let s := live.modPart 0 fun y => { y with load := some ⟨0, 3⟩ }
    let t := s.setObj 0x2000 0x7B [0, 0, 0, 0]
    ((s.part 0).load = some ⟨0, 3⟩ ∧ ([1, 2, 3] : Bytes).length = (3 : BitVec 64).toNat ∧ s.faults.muzzle = false ∧ s.auditRefused 0 none = false)
    ∧ (t.part 0).load = some ⟨0, 3⟩ ∧ t.auditRefused 0 (some captured) = true := by
  refine ⟨by decide +kernel, by decide +kernel, ?_⟩
  have h : captureSeeds captured = [(0, List.replicate 32 0), (0, List.replicate 32 1)] := by decide +kernel
  have h1 : ∀ d : Bytes, (d != List.replicate 32 0) = true ∨ (d != List.replicate 32 1) = true := by
    intro d
    by_cases hd : d = List.replicate 32 0
    · right
      rw [hd]
      decide
    · left
      simpa using hd
  unfold State.auditRefused
  simp only [h, List.any_cons, List.any_nil, Bool.or_false]
  rw [Bool.and_eq_true, Bool.or_eq_true]
  exact ⟨by decide +kernel, h1 _⟩

/-! Faults -/

theorem witness_FaultsLatchAndEscalate :
    (hub.pins.pwrGood = true ∧ hub.collects = true ∧ ({ hub with pins := { hub.pins with pwrGood := false } } : State).collects = false
      ∧ hub.partNo.fswBit 48 = true ∧ PartNo.s096.fswBit 40 = false
      ∧ (hub.faults.firstError.getLsbD 0 = false ∧ hub.faults.fsw.getLsbD 0 = false ∧ hub.ownsCol 0 0 = true ∧ (hub.part 0).running = true))
    ∧ (let at_ (l : BitVec 2) : State := { hub with faults := { Faults.cold with
          fsw := 1, timer := Faults.cold.timer.set 0 (some 100), level := Faults.cold.level.set 0 l, scope := Faults.cold.scope.set 0 1 } };
      ∀ l ∈ [(0 : BitVec 2), 1, 2], (at_ l).faults.timer[(0 : Fin 50)] = some 100 ∧ (at_ l).faults.level[(0 : Fin 50)].toNat < (at_ l).escMax 0
        ∧ 0 ∈ (at_ l).fenceScope 0 ∧ ((at_ l).part 0).partState = 1) := by decide +kernel

/-- A latched bit 3 whose cause is over, or stands, and the device Muzzle at a level. -/
def faulty (persist : BitVec 64) (level : BitVec 2) (muzzle : Bool) : State :=
  { hub with faults := { Faults.cold with
      fsw := BitVec.twoPow 64 3 ||| (if muzzle then BitVec.twoPow 64 63 else 0), persist := persist, muzzle := muzzle,
      level := Faults.cold.level.set 3 level, timer := Faults.cold.timer.set 3 (some 100), firstError := 1 } }

theorem witness_FaultsAreCleared :
    let x := fm none
    let s := holding (faulty 0 1 false) x
    let m := holding (faulty 0 1 true) x
    let f (sub : BitVec 8) (v : Nat) := tagged x (wr 0x6001 sub (leBytes 8 v))
    let t := sess roleT (.vf 0) none
    let lone := (lighted hub).setObj 0x2000 4 [0]
    let g (sub : BitVec 8) (v : Nat) := tagged t (ask 2 (.vf 0) 0x6001 sub (leBytes 8 v))
    (s.written (f 2 8) x 0x6001 2 ∧ (8 : BitVec 64) &&& ~~~(s.noted (f 2 8) x).clearScope x = 0)
    ∧ ((holding lone t).written (g 2 8) t 0x6001 2 ∧ (8 : BitVec 64) &&& ~~~((holding lone t).noted (g 2 8) t).clearScope t ≠ 0
      ∧ (holding lone t).written (g 1 8) t 0x6001 1)
    ∧ (s.written (f 1 8) x 0x6001 1 ∧ (8 : BitVec 64).extractLsb' 50 13 = 0 ∧ (s.noted (f 1 8) x).causeOf 3 = false
      ∧ ((holding (faulty 8 1 false) x).noted (f 1 8) x).causeOf 3 = true)
    ∧ (m.written (f 1 (2 ^ 63)) x 0x6001 1 ∧ x.role ≠ roleT ∧ BitVec.ofNat 64 (leNat (f 1 (2 ^ 63)).data) = BitVec.twoPow 64 63
      ∧ ∀ b : Fin 50, (m.noted (f 1 (2 ^ 63)) x).faults.fsw.getLsbD b.val = true → (m.noted (f 1 (2 ^ 63)) x).faults.level[b].toNat < 2) := by
  refine ⟨⟨tagged_written (by decide +kernel), by decide +kernel⟩, ⟨tagged_written (by decide +kernel), by decide +kernel, tagged_written (by decide +kernel)⟩,
    ⟨tagged_written (by decide +kernel), by decide +kernel⟩, ⟨tagged_written (by decide +kernel), by decide +kernel⟩⟩

theorem witness_FaultsAreCleared_unfence :
    let x := fm none
    let f := tagged x (wr 0x6011 3 [0])
    let s := holding (hub.modPart 0 fun y => { y with partState := 3, fenced := true }) x
    (s.written f x 0x6011 3 ∧ leNat f.data = (0 : PartIx).val ∧ ((s.noted f x).part 0).partState = 3 ∧ (s.noted f x).fenceFree 0 = true)
    ∧ ((holding hub x).written f x 0x6011 3 ∧ (((holding hub x).noted f x).part 0).partState ≠ 3) :=
  ⟨⟨tagged_written (by decide +kernel), by decide +kernel⟩, ⟨tagged_written (by decide +kernel), by decide +kernel⟩⟩

/-! Firmware -/

/-- A module with a crate in a state. -/
def crated (state : BitVec 4) : State := { lighted far with fw := { Firmware.factory with crate := ⟨state, 0, 0, 0, [1], 1, none⟩ } }

theorem witness_FirmwareIsServed_crate :
    let x := fm none
    let o (role : BitVec 4) := sess role (.pf 0) none
    let s (state : BitVec 4) := holding (crated state) x
    let f (sub : BitVec 8) (v : Bytes) := tagged x (wr 0x7000 sub v)
    ((holding (crated 0) (o roleH)).written (tagged (o roleH) (hw 0x7000 4 (leBytes 32 (2 ^ 64 * 2)))) (o roleH) 0x7000 4
      ∧ (∃ m, boxOf (tagged (o roleH) (hw 0x7000 4 (leBytes 32 (2 ^ 64 * 2)))).path = some m)
      ∧ ([1, 2] : Bytes).length = recField (tagged (o roleH) (hw 0x7000 4 (leBytes 32 (2 ^ 64 * 2)))).data 64 64)
    ∧ (s 0).written (f 5 [1, 2]) x 0x7000 5
    ∧ ((s 2).written (f 6 [1]) x 0x7000 6 ∧ ((s 2).noted (f 6 [1]) x).fw.crate.state = 2 ∧ (((s 2).noted (f 6 [1]) x).checkImage [1]).result ≠ 3)
    ∧ ((s 3).written (f 7 [1]) x 0x7000 7 ∧ ((s 3).noted (f 7 [1]) x).fw.crate.state = 3)
    ∧ ((s 4).written (f 7 [0]) x 0x7000 7 ∧ ((s 4).noted (f 7 [0]) x).fw.crate.state = 4) := by
  refine ⟨⟨tagged_written (by decide +kernel), ⟨0, by decide +kernel⟩, by decide +kernel⟩, tagged_written (by decide +kernel),
    ⟨tagged_written (by decide +kernel), by decide +kernel⟩, ⟨tagged_written (by decide +kernel), by decide +kernel⟩,
    ⟨tagged_written (by decide +kernel), by decide +kernel⟩⟩

theorem witness_FirmwareIsServed_raise :
    let x := fm none
    let i : Image := { factoryImage 0 with svn := 5 }
    let fused (n : BitVec 6) : State := { far with fw := { Firmware.factory with
      banks := Firmware.factory.banks.set 0 ⟨some i, none, factorySelector 0, factorySelector 0⟩, svnFused := Firmware.factory.svnFused.set 0 n } }
    let f := tagged x (wr 0x7000 0x11 [1])
    (∀ n ∈ [(4 : BitVec 6), 5], (holding (fused n) x).written f x 0x7000 0x11 ∧ leNat f.data = (0 : Fin 6).val + 1
      ∧ ((holding (fused n) x).noted f x).activeImage 1 = some i)
    ∧ ((holding (fused 4) x).noted f x).fw.svnFused[(0 : Fin 6)] < i.svn ∧ i.svn ≤ ((holding (fused 5) x).noted f x).fw.svnFused[(0 : Fin 6)] := by
  refine ⟨?_, by decide +kernel, by decide +kernel⟩
  intro n hn
  rcases List.mem_cons.mp hn with rfl | hn
  · exact ⟨tagged_written (by decide +kernel), by decide +kernel, rfl⟩
  · rw [List.mem_singleton.mp hn]
    exact ⟨tagged_written (by decide +kernel), by decide +kernel, rfl⟩

theorem witness_FirmwareIsServed_restart :
    let x := fm none
    let f (v : Byte) := tagged x (wr 0x7000 8 [v])
    ((holding far x).written (f 1) x 0x7000 8 ∧ ∀ p : PartIx, (((holding far x).noted (f 1) x).part p).jobState = 0)
    ∧ ((holding hub x).written (f 1) x 0x7000 8 ∧ (((holding hub x).noted (f 1) x).part 0).busy = true)
    ∧ (holding hub x).written (f 2) x 0x7000 8 :=
  ⟨⟨tagged_written (by decide +kernel), by decide +kernel⟩, ⟨tagged_written (by decide +kernel), by decide +kernel⟩, tagged_written (by decide +kernel)⟩

/-- A module in a stage of its start. -/
def starting (stage : BitVec 8) : State := { lighted State.reset with start := { Start.ready with stage := stage } }

theorem witness_FirmwareIsServed_pup :
    ({ starting 3 with fw := { Firmware.factory with probation := some 2 } } : State).fw.probation = some (BitVec.ofNat 8 ((1 : Fin 6).val + 1))
    ∧ (starting 3).pins.pwrGood = true ∧ 1 ≤ (starting 3).start.stage ∧ (starting 4).start.stage ≤ 4
    ∧ (let y : Pup := ⟨true, 0, [], 0, 0⟩;
      let s : State := { starting 7 with start := { Start.ready with stage := 7, pup := some y } };
      let f (kind : BitVec 8) (more : Bool) : Frame := { moduleFrame (.pf 0) kind 0 0 0 0 0 1 false 0 16 [1, 2] with more := more };
      (s.pupFrame (f 0x20 true) 0x20 = some y ∧ (f 0x20 true).offset = 0 ∧ (f 0x20 true).more = true ∧ (f 0x20 true).total.toNat ≤ 16777216)
      ∧ s.pupFrame { f 0x22 false with data := [], len := 0 } 0x22 = some y ∧ s.pupFrame { f 0x23 false with data := [], len := 0 } 0x23 = some y
      ∧ firstBadIf s.partNo s.activeSet = none) := by decide +kernel

/-! Start-up and pins -/

/-- Pins of a module in another position. -/
def pinned (f : Pins → Pins) : State := { State.reset with pins := f State.reset.pins }

theorem witness_PinsStartAndStop :
    (pinned fun p => { p with pwrEn := false, pwrGood := false }).pins.pwrEn = false
    ∧ (∀ perst ∈ [true, false], let s := pinned fun p => { p with pwrGood := false, perstN := perst };
      s.pins.pwrEn = true ∧ s.pins.pwrGood = false ∧ s.start.stalled = false ∧ s.power.temps[inletIx].toInt ≤ warnLimit inletIx ∧ s.pins.perstN = perst)
    ∧ (State.reset.pins.pwrGood = true ∧ State.reset.start.waiting = false)
    ∧ (let s : State := { pinned fun p => { p with perstN := false } with start := { Start.ready with stage := 0, waiting := true } };
      s.pins.perstN = false ∧ s.pins.pwrGood = true ∧ s.start.waiting = true)
    ∧ (let s : State := { pinned fun p => { p with pwrGood := false } with power := { Power.cold with input := .short } }; s.power.input ≠ .out)
    ∧ ({ State.reset with power := { Power.cold with input := .out } } : State).power.input = .out
    ∧ (let s := pinned fun p => { p with bifurN := false }; s.pins.bifurN = false ∧ s.pins.pwrGood = true) := by decide +kernel

theorem witness_StagesFollow :
    (let s (r : Bool) : State := { starting 1 with pins := { Pins.running with recoveryN := r } };
      (s false).inStage 1 = true ∧ (s false).pins.recoveryN = false ∧ (s false).start.cause ≤ 1
      ∧ (s true).start.rom.bad = 0 ∧ (s true).pins.recoveryN = true ∧ (s true).fw.crate.state ≠ 4 ∧ (s true).fw.probation = none
      ∧ (s true).setReady = true
      ∧ ∀ k ≤ 7, (s true).partNo.kind k = true →
        (((s true).fwBanks k).map fun b => ((s true).usableIn k b.active).isSome) = some true)
    ∧ (starting 2).inStage 2 = true ∧ (starting 3).inStage 3 = true ∧ (starting 4).inStage 4 = true
    ∧ ((starting 2).pins.pwrGood = true ∧ (starting 2).start.stalled = false ∧ (starting 2).start.waiting = false
      ∧ (starting 2).stageLimit.isSome = true ∧ (starting 2).fw.probation = none)
    ∧ (let s := pinned fun p => { p with pwrGood := false }; s.pins.pwrGood = false ∧ s.pins.pwrEn = true ∧ s.start.stalled = false) := by decide +kernel

theorem witness_SensorsAreWatched :
    (State.reset.pins.pwrGood = true ∧ State.reset.start.waiting = false ∧ State.reset.start.stage ≠ 0 ∧ State.reset.power.excursion = none)
    ∧ ({ State.reset with power := { Power.cold with excursion := some 5 } } : State).power.excursion = some 5
    ∧ (State.reset.hasSensor 1 = true ∧ ({ State.reset with partNo := .s096 } : State).hasSensor 1 = false)
    ∧ (∀ k : SensorIx, let v := BitVec.ofInt 32 (warnLimit k + 1); warnLimit k < v.toInt ∧ v.toInt < criticalLimit k
      ∧ State.reset.power.warn.getLsbD k.val = false)
    ∧ (∀ k : SensorIx, criticalLimit k ≤ (BitVec.ofInt 32 (criticalLimit k)).toInt) ∧ State.reset.pins.pwrEn = true
    ∧ (∀ k : SensorIx, (BitVec.ofInt 32 (warnLimit k - 48)).toInt ≤ warnLimit k - 48)
    ∧ ({ State.reset with power := { Power.cold with pcie := #v[0x46, 0] } } : State).power.pcie[(0 : Fin 2)] ≠ 0
    ∧ (State.reset.pins.perstN = true ∧ 1 ≤ (6 : BitVec 4).toNat ∧ (6 : BitVec 4).toNat ≤ 6 ∧ State.reset.pins.bifurN = true
      ∧ (pinned fun p => { p with bifurN := false }).pins.bifurN = false ∧ 6 < (7 : BitVec 4).toNat) := by decide +kernel

theorem witness_TrayBusAndPortsAnswer :
    State.reset.pins.pwrGood = true ∧ (pinned fun p => { p with pwrGood := false }).pins.pwrGood = false
    ∧ hub.answersOn 0 5 = true ∧ hub.nextHop 0 5 = some 5 := by decide +kernel

/-! Whole steps -/

theorem witness_StepRunsTheFrontCommand :
    ({ hub with pending := [.smbStatus, .inputDip] } : State).pending = [.smbStatus, .inputDip] ∧ hub.pending = [] := by decide +kernel

theorem witness_EncodingsAgree :
    EngOp.engine (.macc ⟨sg0, 3, true, true, 1, true, 96, 31, 6, 6, 0, 0⟩) = some .mxe ∧ EngOp.engine .stepend = none
    ∧ (decodeWord .mxe 0x0400000000000000).isSome = true := by decide

/-- R9, R80: a VADD with a nonzero SUB leaves any value in VD, after as long as an addition takes. -/
theorem test_illegal_vadd :
    let o : Origin := ⟨c0, .vxe, 0, 8⟩
    let op : EngOp := .vadd ⟨sg0, 7, false, 0, false, 0, false, 0, false, 0, 0, false, 1⟩
    op.wf = false ∧ ((planOf (hub.ctx 0) o Cell.cold op).undef 5 op false).lands
      = [⟨14, .v 7 (Config.freeValue 2048 5) (BitVec.allOnes 64), false, true, o⟩] := ⟨by decide, rfl⟩

/-- R80, R109: reserved bits set make a word illegal, and the word still names its instruction; opcode 0 names none. -/
theorem test_reserved_bits : decodeWord .vxe 0x2000000000000001 = none
    ∧ readWord .vxe 0x2000000000000001 = some (.vadd ⟨sg0, 0, false, 0, false, 0, false, 0, false, 0, 0, false, 0⟩)
    ∧ readWord .vxe 0 = none := by decide +kernel

theorem witness_InstructionsKeepToTheirPartition :
    (Instr.vadd c0 ⟨sg0, 7, false, 0, false, 0, false, 0, false, 0, 0, false, 1⟩).engine
      = some (c0, .vxe, .vadd ⟨sg0, 7, false, 0, false, 0, false, 0, false, 0, 0, false, 1⟩)
    ∧ hub.owner c0.col = some 0 ∧ State.reset.owner c0.col = none ∧ hub.ownsCol 0 1 = false := by decide +kernel

theorem witness_EveryStepKeepsTheForm :
    Memory.wf (hub.mem) = true ∧ (∀ c ∈ hub.cellsOf 0, Memory.wf (hub.cell c).store = true) ∧ (hub.dict.Pairwise fun a b => a.1 < b.1)
    ∧ (∃ t, step { hub with pending := [.inputDip] } = .next t) := by
  refine ⟨by decide +kernel, by decide +kernel, by decide +kernel, ⟨_, rfl⟩⟩

/-! Further witnesses: the clauses on arrivals, boundaries, links and starts -/

theorem witness_LandingsAndSignals_unchecked :
    ({ val := LandVal.s 1 7, kill := false, check := false, due := 8, by_ := ⟨c0, .sqe, 0, 6⟩ } : Landing).check = false := rfl

theorem witness_ArrivalsAreGathered_late :
    let s (sent : Bool) : State := (pack 0).modPart 0 fun x => { x with stepNow := 3, barrier := { x.barrier with sent := sent } }
    let b (step : BitVec 64) : BarrierItem := ⟨7, step, false, 0, 1, 0, 0x7FFF, 1, 0⟩
    (∀ sent ∈ [true, false], (s sent).inOrder 0 0 true 7 = true ∧ (s sent).ofJob 7 = some 0 ∧ ((s sent).part 0).gathers = true
      ∧ (b 3).dst = (s sent).self 0 ∧ (s sent).barStep 0 = 3)
    ∧ 2 ^ 63 ≤ ((b 2).step - (s false).barStep 0).toNat ∧ ((b 3).step = (s true).barStep 0 ∧ ((s true).part 0).bar.sent = true)
    ∧ ((pack 1).part 0).upBackup = false ∧ (1 : BitVec 14) ≠ 0 := by decide +kernel

theorem witness_RootDecides_last :
    let a : BarrierItem := ⟨7, 0, false, 2, 1, 0, 1, 1, 0⟩
    lacking.inOrder 0 0 true 7 = true ∧ lacking.ofJob a.job = some 0 ∧ a.dst = lacking.self 0 ∧ (lacking.part 0).gathers = true
    ∧ a.step = lacking.barStep 0 ∧ lacking.missing 0 = [a.src] ∧ (lacking.part 0).bar.own = some 0 ∧ lacking.isBarRoot 0 = true
    ∧ (lacking.part 0).bar.sent = false ∧ (lacking.part 0).between = false ∧ (lacking.part 0).oldPlan = none ∧ alone.missing 0 = [] := by decide +kernel

theorem witness_ReleasesCommitOrStop_between :
    let s := (pack 1).modPart 0 fun x => { x with barrier := { x.barrier with release := some ⟨0, false, 0, 131072000⟩, processed := true } }
    let b : BarrierItem := ⟨7, s.barStep 0, true, 2, 0, 1, 0x7FFF, 2, 0⟩
    s.inOrder 0 0 true 7 = true ∧ s.ofJob b.job = some 0 ∧ b.dst = s.self 0 ∧ (s.part 0).bar.release = none ∧ s.isBarRoot 0 = false
    ∧ s.heel.state ≠ 0 ∧ (s.part 0).busy = true ∧ (s.part 0).between = true := by decide +kernel

/-- A member whose barrier of step 0 has committed, with the slot map of step 1 or without. -/
def mapGiven (whole : Bool) : State :=
  member.modPart 0 fun x => { x with
    barrier := { x.barrier with release := some ⟨0, false, 0, 131072000⟩ }
    kennel := { x.kennel with slotMap := some ⟨1, 0, []⟩, mapWhole := whole } }

theorem witness_BoundaryProcessingRuns_member :
    (∀ whole ∈ [true, false], ((mapGiven whole).part 0).barrier.release = some ⟨0, false, 0, 131072000⟩
      ∧ ((mapGiven whole).part 0).barrier.processed = false ∧ ((mapGiven whole).part 0).jobState ≠ 4 ∧ (mapGiven whole).isHome 0 = false
      ∧ (mapGiven whole).awaitsMirror 0 0 = false ∧ ((mapGiven whole).part 0).kennel.mapWhole = whole
      ∧ ((mapGiven whole).part 0).kennel.slotMap = some ⟨1, 0, []⟩)
    ∧ (((mapGiven true).modPart 0 Partition.eraseOld).commitsAtBoundary 0 1).nextPlan 0 0 = some plan
    ∧ ((((ended false false).modPart 0 Partition.eraseOld).commitsAtBoundary 0 1).nextPlan 0 0).isSome = true
    ∧ ((ended false false).part 0).jobState ≠ 4 := by decide +kernel

theorem witness_BoundaryProcessingRuns_recorded :
    let i : BoundaryImage := ⟨1, Kennel.cold, 0, [], 0, 0, []⟩
    let s := (ended false false).modPart 0 fun x => { x with jobState := 4, images := [i] }
    (s.part 0).barrier.release = some ⟨0, false, 0, 131072000⟩ ∧ (s.part 0).barrier.processed = false ∧ (s.part 0).jobState = 4
    ∧ (s.part 0).images.find? (fun i => i.step == 1) = some i := by decide +kernel

/-- A Kennel whose entry 0 is in state `st`: stream 9 of 2 tokens and MAXLEN 10, for a model with 64 KiB a token. The report words of slot 0
carry bit 63 or not; `kv` is the free list of KVPOOL. -/
def kenAt (st : Nat) (full : Bool) (kv : List (BitVec 64)) : State :=
  ((((mapped (ken st)).setObj 0x2000 0x46 [0, 0, 1, 0]).modPart 0 fun x => { x with kennel := { x.kennel with
    entries := [withSlot (withState (BitVec.ofNat 512 (9 * 2 ^ 64 + 2 * 2 ^ 224 + 10 * 2 ^ 256)) st) 0, 0], kvFree := kv
    stepRec := some ⟨0, 0, [⟨true, 0, 2, 0, 1⟩]⟩ } })).modCell c0 fun k => { k with
    reports := [⟨0, 5, if full then BitVec.twoPow 64 63 else 0, 1⟩, ⟨0, 0, 0x0002000100030007, 2⟩, ⟨0, 2, 0x7, 3⟩] }

theorem witness_BoundaryProcessingRuns_report :
    (∀ full ∈ [true, false], let s := kenAt stRunning full []; 0 < (s.ken 0).entries.length ∧ (s.ken 0).extra.length = (s.ken 0).entries.length
      ∧ s.damaged = [] ∧ eLive (s.entry 0 0) = true ∧ eLen (s.entry 0 0) ≤ eMaxLen (s.entry 0 0) ∧ (s.reportWord 0 0 5).getLsbD 63 = full
      ∧ eState (s.entry 0 0) = stRunning ∧ s.cqFree 0 = true)
    ∧ (let s := kenAt stRunning true []
      let w := raiseDeadline (s.entry 0 0) 65536
      0 < ((s.setEntry 0 0 (withSlot (withState w stQueued) 0xFFF)).applyReport 0 0 (eSlot w)).2) := by decide +kernel

theorem witness_BoundaryProcessingRuns_pages :
    (let s := kenAt stQueued true [33554432, 33619968, 33685504];
      0 < (s.ken 0).entries.length ∧ s.damaged = [] ∧ eLive (s.entry 0 0) = true
      ∧ ((eLen (s.entry 0 0) + kOf 0 + 1) * s.pnum 0 0x46 + 65535) / 65536 < 65536
      ∧ drawPages (s.ken 0).kvHeld (((eLen (s.entry 0 0) + kOf 0 + 1) * s.pnum 0 0x46 + 65535) / 65536 - eNPages (s.entry 0 0)) (s.ken 0).kvFree
        = some ([33554432, 33619968, 33685504], []))
    ∧ (let s := kenAt stQueued true [];
      drawPages (s.ken 0).kvHeld (((eLen (s.entry 0 0) + kOf 0 + 1) * s.pnum 0 0x46 + 65535) / 65536 - eNPages (s.entry 0 0)) (s.ken 0).kvFree = none)
    ∧ (let s := kenAt stCancelled true []
      (s.ken 0).extra.length = (s.ken 0).entries.length ∧ (s.ken 0).leaves 0 = true ∧ (s.ken 0).leaves 1 = false) := by decide +kernel

theorem witness_BoundaryProcessingRuns_slots :
    let s := kenAt stQueued true [33554432, 33619968, 33685504]
    let pl : PlanRec := { plan with slots := [⟨8, false⟩] }
    let free : List SlotRec := [⟨false, 0, 0, 0, 0⟩]
    (((0 : Nat), (⟨0, false, 1, 0⟩ : VarDesc)) ∈ plan.vars.zipIdx.map fun v => (v.2, v.1))
    ∧ ([0].find? fun e => (plan.vars.zipIdx.map fun v => (v.2, v.1)).any fun u => u.2.mslot.toNat == eMslot ((s.ken 0).entry e)) = some 0
    ∧ (⟨0, false, 1, 0⟩ : VarDesc).kw.toNat ≤ eKw ((s.ken 0).entry 0)
    ∧ (0 < (s.ken 0).entries.length ∧ s.damaged = [] ∧ eLive (s.entry 0 0) = true ∧ eMslot (s.entry 0 0) = (⟨0, false, 1, 0⟩ : VarDesc).mslot.toNat)
    ∧ (free[0]? = some ⟨false, 0, 0, 0, 0⟩ ∧ pl.slots[0]? = some ⟨8, false⟩ ∧ eBark (s.entry 0 0) = false
      ∧ eLen (s.entry 0 0) + kOf 0 + 1 ≤ (⟨8, false⟩ : SlotDesc).maxCtx.toNat)
    ∧ eMslot (s.entry 0 0) ≠ (⟨0, true, 1, 0⟩ : VarDesc).mslot.toNat := by decide +kernel

theorem witness_JobsStartAndRunTheNextStep_more :
    (let s := { (pack 0).modPart 0 fun x => { x with jobState := 0, running := false, loadStatus := 0, startWritten := 3 } with selfVerdict := 1 };
      s.selfVerdict = 1 ∧ (s.part 0).jobState = 0 ∧ (s.part 0).partState = 1 ∧ (s.part 0).loadStatus.extractLsb' 0 8 = 0 ∧ s.jobTag 0 ≠ 0
      ∧ (s.part 0).startWritten = 3 ∧ (s.part 0).waiting = [] ∧ s.msgs = [])
    ∧ (pack 0).selfVerdict ≠ 1 ∧ (ended false true).pnum 0 0x57 = 0 := by decide +kernel

theorem witness_RingCommandsTakeEffect_more :
    (ken stQueued).damaged = [] ∧ scArg (sq 1 1 8 (1 * 2 ^ 96)) 134 1 = 0 ∧ scArg (sq 1 1 8 (2 ^ 96 + 2 ^ 134)) 134 1 = 1
    ∧ (let s := (ken stFree).modPart 0 fun x => { x with jobState := 0, running := false }
      s.ringReady 0 = true ∧ s.refusal 0 (sq 7 1 0 5) = none ∧ (s.part 0).jobState = 0) := by decide +kernel

theorem witness_KennelItemsAndBarkWork_messages :
    let s (st : Nat) : State := keyed.modPart 0 fun x => { x with kennel := { x.kennel with
      entries := [withState (BitVec.ofNat 512 (9 * 2 ^ 64)) st, 0], extra := [EntryX.free, EntryX.free] } }
    eLive ((s stRunning).entry 0 0) = true ∧ ((s stRunning).part 0).seedsAtOnce = false
    ∧ (((s stRunning).modPart 0 fun x => { x with jobState := 3 }).part 0).seedsAtOnce = true
    ∧ (eState ((s stSuspended).entry 0 0) = stSuspended ∧ 0 < ((s stSuspended).ken 0).extra.length)
    ∧ (eState ((s stRunning).entry 0 0) ≠ stFree ∧ 0 < ((s stRunning).ken 0).entries.length) := by decide +kernel

theorem witness_MemoryErrorsAreContained_more :
    live.isReady = true ∧ ((256 : Nat) < 65536)
    ∧ ∀ p : PartIx, (({ live with parts := Vector.replicate 16 { Partition.cold with partState := 1, jobState := 2, running := true } } : State).part p).stepping
      = true := by decide +kernel

theorem witness_PortsTrain_more :
    let s := onPort fun x => { x with state := 1, grace := true, qByp := [queued] }
    s.hasPort 0 = true ∧ (s.port 0).state = 1 ∧ (s.port 0).grace = true := by decide +kernel

theorem witness_PortsGoDown_held :
    let s := onPort fun x => { x with graceHeld := [(5, queued)] }
    s.hasPort 0 = true ∧ (s.port 0).grace = false ∧ (s.port 0).graceHeld ≠ [] := by decide +kernel

theorem witness_ItemsReceivedTakeEffect_more :
    let s (w : Nat) : State := onPort fun x => { x with chans := x.chans.map fun r => r.map fun k => { k with w := w } }
    let full (w : Nat) : Nat := (s w).reserve 0 (ownIx 0) 0 + (s w).shared 0 (ownIx 0)
    ((s 0).inOrder 0 0 false 0 = true → True) ∧ ((s 0).port 0).chans[ownIx 0][(0 : Chan)].w < full 0
    ∧ full 60000 ≤ ((s 60000).port 0).chans[ownIx 0][(0 : Chan)].w := by decide +kernel

theorem witness_ItemsAreSent_more :
    let s := onPort fun x => { x with
      chans := x.chans.map fun r => r.map fun k => { k with freed := 4 }, rxNext := 0, rxHeld := [(2, .data ⟨0, 2, 0, 0, 8, 5, 0, 1, false, false, [1, 2]⟩ 1 0)] }
    s.linkUp 0 = true ∧ (s.port 0).grown (ownIx 0) = true ∧ ((pack 0).port 0).grown (ownIx 0) = false ∧ (s.port 0).missing = [0, 1] := by decide +kernel

theorem witness_Vc2TargetsApplyOnce_unmapped :
    vc2.localOf 0 0 = some 0 ∧ lenOk 2 0 1 = true ∧ vc2.mapped 0 0 1 = false ∧ 0 % 8 = 0 ∧ vc2.mapped 0 0 8 = false := by decide +kernel

theorem witness_SessionsOpenAndClose_full :
    let s := { shaken 5000 with sessions := List.replicate 64 (sess roleFm net none) }
    s.start.stage = 5 ∧ s.hears net = true ∧ s.handshakes = (shaken 5000).handshakes ∧ 64 ≤ s.sessions.length :=
  ⟨rfl, by decide +kernel, rfl, by decide⟩

theorem witness_FaultsLatchAndEscalate_more :
    let two := live.setObj 0x2000 1 [0xFF, 0xFF]
    (two.bothDies 0 = true ∧ (two.part 0).busy = true ∧ hub.collects = true)
    ∧ (∀ b ∈ [(36 : Fin 50), 37, 38, 39, 42, 44], hub.partNo.fswBit b.val = true) ∧ hub.damaged = [] := by decide +kernel

theorem witness_FaultsAreCleared_more :
    let x := fm none
    let s := holding ((faulty 0 1 false).modPart 0 fun y => { y with sf := 1 }) x
    let f (v : Nat) := tagged x (wr 0x6001 1 (leBytes 8 v))
    (s.written (f (2 ^ 50)) x 0x6001 1 ∧ (BitVec.twoPow 64 50) &&& ~~~(s.noted (f (2 ^ 50)) x).clearScope x = 0
      ∧ (BitVec.twoPow 64 50).extractLsb' 50 13 ≠ 0)
    ∧ (s.written (f (2 ^ 48)) x 0x6001 1 ∧ (BitVec.twoPow 64 48).extractLsb' 50 13 = 0 ∧ (BitVec.twoPow 64 48).getLsbD 63 = false
      ∧ x.role ≠ roleT ∧ ((s.noted (f (2 ^ 48)) x).part 0).frozen = none ∧ ((s.noted (f (2 ^ 48)) x).part 0).sf = 1) :=
  ⟨⟨tagged_written (by decide +kernel), by decide +kernel⟩, ⟨tagged_written (by decide +kernel), by decide +kernel⟩⟩

theorem witness_PinsStartAndStop_more :
    ({ State.reset with start := { Start.ready with stalled := true } } : State).start.stalled = true
    ∧ warnLimit inletIx < ({ State.reset with power := { Power.cold with temps := Power.cold.temps.set inletIx 800 } } : State).power.temps[inletIx].toInt
    ∧ (pinned fun p => { p with pwrGood := false }).pins.pwrEn = true := by decide +kernel

/-- A module in stage ROM with factory images in both banks of every KIND, what flash answers there, and a crate. -/
def selecting (bad : BitVec 12) (probation : Option (BitVec 8)) (crate : BitVec 4) : State :=
  { starting 1 with
    start := { Start.ready with stage := 1, rom := ⟨bad, .good⟩ }
    fw := { Firmware.factory with
      banks := Vector.ofFn fun i => ⟨some (factoryImage i), some (factoryImage i), factorySelector i, factorySelector i⟩
      probation := probation, crate := ⟨crate, 0, 0, 0, [1], 1, none⟩ } }

theorem witness_StagesFollow_sets :
    (∀ s ∈ [selecting 0xFFF none 0, selecting 2 (some 2) 0, selecting 2 none 0, selecting 0 none 0, selecting 0 none 4],
      s.inStage 1 = true ∧ s.pins.recoveryN = true)
    ∧ ((selecting 0xFFF none 0).measureBanks 0xFFF).selectable = false
    ∧ (let m := (selecting 2 (some 2) 0).measureBanks 2; m.selectable = true ∧ m.fw.probation = some 2 ∧ m.activeFails 2 = true)
    ∧ (let m := (selecting 2 none 0).measureBanks 2; m.selectable = true ∧ m.fw.probation = none ∧ m.givesWay = some 2)
    ∧ (let m := (selecting 0 none 0).measureBanks 0; m.selectable = true ∧ m.fw.probation = none ∧ m.givesWay = none ∧ m.fw.crate.state ≠ 4)
    ∧ (let m := (selecting 0 none 4).measureBanks 0; m.selectable = true ∧ m.givesWay = none ∧ m.fw.crate.state = 4) := by decide +kernel

end Sys2Proof.Tests
end

section
/-!
PROOFS. Faults at issue: what becomes of an instruction whose plan meets a fault (R25, R368), in every engine.
-/

namespace Sys2Proof.Machine

theorem State.ready_iff {s : State} {p : PartIx} {c : CellRef} {e : Eng} :
    s.ready p c e = true ↔ s.owner c.col = some p ∧ (s.part p).runs = true ∧ (s.part p).front = true
      ∧ ((s.cell c).eng e).canIssue (s.part p).cyc = true ∧ ((s.cell c).eng e).iq = [] := by
  simp only [State.ready, Bool.and_eq_true, beq_iff_eq, List.isEmpty_iff, and_assoc]

/-- A cell with instruction `o` in the queue of engine `e`, which was empty. -/
def Cell.enqueued (k : Cell) (e : Eng) (o : EngOp) : Cell := k.setEng e { k.eng e with iq := [o] }

theorem Cell.fetch_enqueued (k : Cell) (e : Eng) (o : EngOp) : (k.enqueued e o).fetch e = .op o o.wf := by
  simp [Cell.fetch, Cell.enqueued]

theorem Cell.canIssue_enqueued (k : Cell) (d e : Eng) (o : EngOp) (cyc : BitVec 32) :
    ((k.enqueued e o).eng d).canIssue cyc = (k.eng d).canIssue cyc := by
  by_cases h : d = e
  · subst h; simp only [Cell.enqueued, Cell.eng_setEng_same, Engine.canIssue]
  · rw [Cell.enqueued, Cell.eng_setEng_of_ne _ _ _ _ h]

theorem Cell.holdOf_enqueued (k : Cell) (e : Eng) (o : EngOp) : (k.enqueued e o).holdOf e = holdOfOp k o := by
  rw [Cell.holdOf_queue _ e o [] (by simp [Cell.enqueued])]
  simp only [holdOfOp, Cell.enqueued, Cell.setEng_txs, Cell.setEng_staging]

theorem Cell.popWaits_enqueued {k : Cell} {e : Eng} {o : EngOp} {cyc : BitVec 32} (h : k.lets e cyc o = true) :
    (k.enqueued e o).popWaits e cyc = false :=
  Cell.popWaits_false (k.fetch_enqueued e o) <| by
    rw [show (k.enqueued e o).vxe.canIssue cyc = k.vxe.canIssue cyc from k.canIssue_enqueued .vxe e o cyc]
    exact Cell.lets_dpop h

/-- A legal instruction whose plan meets a fault leaves the queue, and its cell does nothing else (R368). -/
theorem issueEng_enqueued_of_fault {x : StepCtx} {c : CellRef} {k : Cell} {e : Eng} {o : EngOp} {f : SchedFault} {n : Nat}
    (hq : (k.eng e).iq = []) (hcan : (k.eng e).canIssue x.cyc = true) (hw : o.wf = true) (hy : k.lets e x.cyc o = true)
    (hf : (planOf { x with free := n } ⟨c, e, (k.eng e).pc, x.cyc⟩ k o).fault ⟨c, e, (k.eng e).pc, x.cyc⟩ k = some f) :
    issueEng x c ⟨k.enqueued e o, [], n⟩ e = ⟨k.faulted e x.cyc, [f], n⟩ := by
  have hroom : (isLoop o && decide (loopDepth ≤ (k.eng e).loops.length)) = false := Cell.lets_loop hy
  have hback : k.setEng e { k.eng e with iq := [] } = k := by rw [← hq]; exact k.setEng_eng e
  simp only [issueEng, Cell.canIssue_enqueued, hcan, if_true, Cell.fetch_enqueued, hw]
  simp only [Cell.enqueued, Cell.eng_setEng_same, Cell.setEng_setEng, List.tail_cons, hback, hroom, Bool.not_false, Bool.and_self,
    if_true, Cell.issue, hf, Cell.faulted, hq, List.nil_append]

/-- The head of a queue of a free engine, when nothing holds it: what issue makes of it, with the races (R122), the seeds (R264) and
the faults noted. -/
theorem State.issueHead_of_free {s : State} {p : PartIx} {c : CellRef} {e : Eng} {k : Cell} {r : IssueEval} (hk : s.cell c = k)
    (hruns : (s.part p).runs = true) (hfront : (s.part p).front = true) (hcan : (k.eng e).canIssue (s.part p).cyc = true)
    (hpop : k.popWaits e (s.part p).cyc = false) (hhold : k.holdOf e = none) (hi : issueEng (s.ctx p) c ⟨k, [], s.free⟩ e = r) :
    s.issueHead p c e = .next (((({ s.setCell c r.cell with free := r.free } : State).noteRaces p c k).noteSeeds p c k).modPart p
      fun x => { x with pendFaults := x.pendFaults ++ r.faults }) := by
  subst hk hi
  unfold State.issueHead
  rw [if_neg (by simp [hruns, hfront, hcan]), if_neg (by simp [hpop]), if_neg (by simp [hhold])]
  rfl

/-- Issue of a legal instruction whose plan meets a fault: the fault waits for the end of the cycle, the engine issues nothing more in it, and
nothing else changes. -/
theorem State.engine_faults {s : State} {p : PartIx} {c : CellRef} {e : Eng} {o : EngOp} {f : SchedFault} (h : s.ready p c e = true)
    (hw : o.wf = true) (hh : holdOfOp (s.cell c) o = none) (hy : (s.cell c).lets e (s.part p).cyc o = true) (he : f.eng = e)
    (hf : (planOf (s.ctx p) (s.org p c e) (s.cell c) o).fault (s.org p c e) (s.cell c) = some f) :
    ∃ t, s.engine c e o = .next t ∧ Machine.faults s t p c f := by
  obtain ⟨-, hruns, hfront, hcan, hq⟩ := State.ready_iff.1 h
  have hi : issueEng (s.ctx p) c ⟨(s.cell c).enqueued e o, [], s.free⟩ e = ⟨(s.cell c).faulted e (s.part p).cyc, [f], s.free⟩ :=
    issueEng_enqueued_of_fault hq hcan hw hy hf
  have hhead := State.issueHead_of_free (s := s.setCell c ((s.cell c).enqueued e o)) (State.cell_setCell_same _ _ _) hruns hfront
    (((s.cell c).canIssue_enqueued e e o _).trans hcan) (Cell.popWaits_enqueued hy) (((s.cell c).holdOf_enqueued e o).trans hh) hi
  rw [State.setCell_setCell] at hhead
  refine ⟨_, (State.engine_enqueues h).trans hhead, ?_⟩
  rw [State.noteRaces_same, State.noteSeeds_same]
  · subst he; rfl
  · show ((s.setCell c _).cell c).drawn = _
    rw [State.cell_setCell_same, Cell.faulted, Cell.enqueued, Cell.setEng_drawn, Cell.setEng_drawn]
  · show ((s.setCell c _).cell c).txs = _
    rw [State.cell_setCell_same, Cell.faulted, Cell.enqueued, Cell.setEng_txs, Cell.setEng_txs]

end Sys2Proof.Machine
end

section
/-!
PROOFS. Waits (R34): the plan of a WAIT, and what phase 3 finds of a wait in progress.
-/

namespace Sys2Proof.Machine

theorem exec_waitTally (c : CellRef) (e : Eng) (f : WaitF) (s : State) : exec (.waitTally c e f) s = s.engine c e (.wait f) := rfl

/-- The fault of a WAIT whose due cycle has come by its issue. -/
def waitMiss (o : Origin) (f : WaitF) (due : Nat) : SchedFault :=
  ⟨.staticMiss, o.cell, o.eng, o.pc, .tally f.tally, BitVec.ofNat 32 due, o.issued⟩

/-- A WAIT meets no fault but that its due cycle has come by its issue. -/
theorem planWait_fault (o : Origin) (f : WaitF) (k : Cell) :
    (planWait o f k).fault o k =
      if waitDue f (k.eng o.eng) ≤ o.issued.toNat then some (waitMiss o f (waitDue f (k.eng o.eng))) else none := rfl

/-- An engine issues nothing while a wait is in progress. -/
theorem Engine.canIssue_of_wait {g : Engine} {w : WaitRec} (h : g.wait = some w) (cyc : BitVec 32) : g.canIssue cyc = false := by
  simp [Engine.canIssue, h]

@[simp] theorem Cell.setEng_tally (k : Cell) (e : Eng) (g : Engine) : (k.setEng e g).tally = k.tally := by cases e <;> rfl

/-- The cell after a met wait of engine `e`: the wait is over, and its threshold off the tally where C = 1. -/
def Cell.waitMet (k : Cell) (e : Eng) (f : WaitF) : Cell :=
  let c := k.setEng e { k.eng e with wait := none }
  if f.c then { c with tally := wr c.tally f.tally (rd k.tally f.tally - f.thr) } else c

theorem Cell.eng_waitMet (k : Cell) (e : Eng) (f : WaitF) : (k.waitMet e f).eng e = { k.eng e with wait := none } := by
  unfold Cell.waitMet
  dsimp only
  split
  · exact (Cell.eng_congr rfl rfl rfl rfl e).trans (k.eng_setEng_same e _)
  · exact k.eng_setEng_same e _

theorem Cell.rd_tally_waitMet (k : Cell) (e : Eng) (f : WaitF) :
    rd (k.waitMet e f).tally f.tally = rd k.tally f.tally - (if f.c then f.thr else 0) := by
  cases hc : f.c <;> simp [Cell.waitMet, hc]

/-! A wait in progress, by the cases of R34 -/

section
variable {k : Cell} {c : CellRef} {e : Eng} {w : WaitRec} {d : BitVec 32} (hwait : (k.eng e).wait = some w)
include hwait

theorem evalWait_of_not_due (hdue : w.due ≠ d.toNat) : evalWait c d ⟨k, [], []⟩ e = ⟨k, [], []⟩ := by
  simp [evalWait, hwait, hdue]

theorem evalWait_of_met (hdue : w.due = d.toNat) (hmet : w.f.thr ≤ rd k.tally w.f.tally) :
    evalWait c d ⟨k, [], []⟩ e = ⟨k.waitMet e w.f, [], []⟩ := by
  simp [evalWait, hwait, hdue, hmet, Cell.waitMet]

theorem evalWait_of_missed (hdue : w.due = d.toNat) (hmet : ¬ w.f.thr ≤ rd k.tally w.f.tally) (hv : w.f.v = false) :
    evalWait c d ⟨k, [], []⟩ e = ⟨k, [], [⟨.staticMiss, c, e, w.pc, .tally w.f.tally, d, w.issued⟩]⟩ := by
  simp [evalWait, hwait, hdue, hmet, hv]

theorem evalWait_of_held (hdue : w.due = d.toNat) (hmet : ¬ w.f.thr ≤ rd k.tally w.f.tally) (hv : w.f.v = true) :
    evalWait c d ⟨k, [], []⟩ e = ⟨k, [⟨c, e, w.pc, .wait w.f.tally⟩], []⟩ := by
  simp [evalWait, hwait, hdue, hmet, hv]

end

/-- Issue of a WAIT whose due cycle has come: a STATIC_MISS. -/
theorem exec_waitTally_misses {s : State} {p : PartIx} {c : CellRef} {e : Eng} {f : WaitF} (h : s.ready p c e = true)
    (hw : (EngOp.wait f).wf = true) (hd : waitDue f ((s.cell c).eng e) ≤ (s.part p).cyc.toNat) :
    answers (.waitTally c e f) s fun t => faults s t p c (waitMiss (s.org p c e) f (waitDue f ((s.cell c).eng e))) := by
  have hf : (planOf (s.ctx p) (s.org p c e) (s.cell c) (.wait f)).fault (s.org p c e) (s.cell c)
      = some (waitMiss (s.org p c e) f (waitDue f ((s.cell c).eng e))) :=
    (planWait_fault _ f _).trans (if_pos hd)
  obtain ⟨t, ht, hfault⟩ := State.engine_faults h hw rfl rfl rfl hf
  exact ⟨t, (exec_waitTally c e f s).trans ht, hfault⟩

/-- Issue of a WAIT before its due cycle: its engine waits. -/
theorem exec_waitTally_waits {s : State} {p : PartIx} {c : CellRef} {e : Eng} {f : WaitF} (h : s.ready p c e = true)
    (hw : (EngOp.wait f).wf = true) (hd : (s.part p).cyc.toNat < waitDue f ((s.cell c).eng e)) :
    answers (.waitTally c e f) s fun t => ((t.cell c).eng e).wait
      = some ⟨f, waitDue f ((s.cell c).eng e), (s.part p).cyc, ((s.cell c).eng e).pc⟩ := by
  have hf : (planWait (s.org p c e) f (s.cell c)).fault (s.org p c e) (s.cell c) = none :=
    (planWait_fault _ f _).trans (if_neg (Nat.not_le.2 hd))
  obtain ⟨t, ht, -, happ, -⟩ := State.engine_applied h hw (pl := planWait (s.org p c e) f (s.cell c)) rfl rfl rfl rfl rfl rfl rfl hf
  exact ⟨t, (exec_waitTally c e f s).trans ht, congrArg Engine.wait happ.engine⟩

/-- Settles O12: at issue by whether the due cycle has come, at the due cycle by the condition and V. -/
theorem waitsFollowTheirDueCycle : Obligations.WaitsFollowTheirDueCycle := by
  unfold Obligations.WaitsFollowTheirDueCycle
  refine ⟨fun s p c e f h hw => ⟨exec_waitTally_misses h hw, fun hd => ?_⟩, fun k c e w d hwait hdue => ⟨?_, ?_, ?_, ?_⟩⟩
  · obtain ⟨t, ht, hwaits⟩ := exec_waitTally_waits h hw hd
    exact ⟨t, ht, hwaits, Engine.canIssue_of_wait hwaits⟩
  · intro hmet
    rw [evalWait_of_met hwait hdue hmet, Cell.eng_waitMet]
    refine ⟨rfl, rfl, rfl, k.rd_tally_waitMet e w.f, fun hend hready => ?_⟩
    simp [Engine.canIssue, hend, ← hdue, hready]
  · intro hmet hv
    rw [evalWait_of_missed hwait hdue hmet hv]
    exact ⟨rfl, rfl, rfl⟩
  · intro hmet hv
    rw [evalWait_of_held hwait hdue hmet hv]
    exact ⟨rfl, rfl, rfl⟩
  · intro cyc hcyc
    exact evalWait_of_not_due hwait fun h => hcyc (BitVec.eq_of_toNat_eq (h.symm.trans hdue))

end Sys2Proof.Machine
end

section
/-!
PROOFS. Granules of the cell store (R39): packed elements, granules as bytes, and what a load returns after a write.
-/

namespace Sys2Proof.Machine

/-! Packed elements (R61) -/

theorem packNat_lt (w : Nat) (xs : List Nat) : packNat w xs < 2 ^ (w * xs.length) := by
  induction xs with
  | nil => simp [packNat]
  | cons a as ih =>
    have ha : a % 2 ^ w < 2 ^ w := Nat.mod_lt _ (by positivity)
    calc a % 2 ^ w + 2 ^ w * packNat w as
      _ < 2 ^ w * (packNat w as + 1) := by rw [Nat.mul_succ]; omega
      _ ≤ 2 ^ w * 2 ^ (w * as.length) := Nat.mul_le_mul_left _ ih
      _ = 2 ^ (w * (a :: as).length) := by rw [← pow_add, List.length_cons, Nat.mul_succ, Nat.add_comm]

theorem packNat_elem (w i : Nat) (xs : List Nat) : packNat w xs / 2 ^ (w * i) % 2 ^ w = xs.getD i 0 % 2 ^ w := by
  induction xs generalizing i with
  | nil => simp [packNat]
  | cons a as ih =>
    cases i with
    | zero => simp [packNat]
    | succ i =>
      have hdiv : (a % 2 ^ w + 2 ^ w * packNat w as) / 2 ^ w = packNat w as := by
        rw [Nat.add_mul_div_left _ _ (by positivity), Nat.div_eq_of_lt (Nat.mod_lt _ (by positivity)), Nat.zero_add]
      rw [packNat, Nat.mul_succ, Nat.add_comm (w * i), pow_add, ← Nat.div_div_eq_div_mul, hdiv, ih, List.getD_cons_succ]

theorem elemOf_lt {n : Nat} (x : BitVec n) (w i : Nat) : elemOf x w i < 2 ^ w := Nat.mod_lt _ (by positivity)

/-- An element of packed elements that all have room. -/
theorem elemOf_pack {n w : Nat} {xs : List Nat} (h : w * xs.length ≤ n) (i : Nat) : elemOf (pack n w xs) w i = xs.getD i 0 % 2 ^ w := by
  have hlt : packNat w xs < 2 ^ n := (packNat_lt w xs).trans_le (Nat.pow_le_pow_right (by omega) h)
  rw [elemOf, pack, BitVec.toNat_ofNat, Nat.mod_eq_of_lt hlt, packNat_elem]

theorem elemOf_mergeBytes (en : BitVec 256) (old new : Granule) {i : Nat} (h : i < 256) :
    elemOf (mergeBytes en old new) 8 i = elemOf (if en.getLsbD i then new else old) 8 i := by
  rw [mergeBytes, elemOf_pack (by simp)]
  simp only [List.getD_eq_getElem?_getD, List.getElem?_map, List.getElem?_range h, Option.map_some, Option.getD_some]
  exact Nat.mod_eq_of_lt (elemOf_lt _ 8 i)

/-! Granules as bytes -/

theorem length_bytesOf (x : Granule) : (bytesOf x).length = 256 := length_leBytes _ _

/-- A word of `n` bytes is below 256 ^ `n`. -/
theorem toNat_lt_256_pow {n : Nat} (x : BitVec (8 * n)) : x.toNat < 256 ^ n := by
  rw [show 256 = 2 ^ 8 from rfl, ← pow_mul]
  exact x.isLt

theorem granuleOf_bytesOf (x : Granule) : granuleOf (bytesOf x) = x := by
  apply BitVec.eq_of_toNat_eq
  rw [granuleOf, bytesOf, leNat_leBytes, Nat.mod_eq_of_lt (toNat_lt_256_pow (n := 256) x), BitVec.ofNat_toNat, BitVec.setWidth_eq]

/-- A write leaves a read of other addresses. -/
theorem Memory.read_write_of_disjoint (m : Memory) {a b n : Nat} {bs : Bytes} (h : b + n ≤ a ∨ a + bs.length ≤ b) :
    Memory.read (Memory.write m a bs) b n = Memory.read m b n := by
  apply List.ext_getElem (by simp [Memory.length_read])
  intro i hi _
  have hin : i < n := by simpa [Memory.length_read] using hi
  have hbyte : Memory.byte (Memory.write m a bs) (b + i) = Memory.byte m (b + i) := by rw [Memory.byte_write, if_neg (by omega)]
  rw [← Memory.getD_read _ b n i hin, ← Memory.getD_read _ b n i hin] at hbyte
  simpa [List.getD_eq_getElem?_getD, Memory.length_read, hin] using hbyte

theorem gAddr_disjoint {g h : BitVec 14} (hne : h ≠ g) : gAddr h + 256 ≤ gAddr g ∨ gAddr g + 256 ≤ gAddr h := by
  have : h.toNat ≠ g.toNat := fun he => hne (BitVec.eq_of_toNat_eq he)
  unfold gAddr
  omega

/-! The granules written in a step -/

theorem mem_insertRising {n : Nat} {g h : BitVec n} {l : List (BitVec n)} : h ∈ insertRising g l ↔ h = g ∨ h ∈ l := by
  induction l with
  | nil => simp [insertRising]
  | cons x xs ih =>
    simp only [insertRising]
    split
    · rename_i hgx; simp [hgx]
    · split
      · exact List.mem_cons
      · rw [List.mem_cons, ih, List.mem_cons, or_left_comm]

theorem Cell.mem_written_storeG (k : Cell) (g h : BitVec 14) (d : Granule) (en : BitVec 256) :
    h ∈ (k.storeG g d en).written ↔ h = g ∨ h ∈ k.written := mem_insertRising

theorem Cell.loadG_of_not_written {k : Cell} {g : BitVec 14} (h : g ∉ k.written) : k.loadG g = 0 := by
  simp [Cell.loadG, h]

theorem Cell.loadG_of_written {k : Cell} {g : BitVec 14} (h : g ∈ k.written) :
    k.loadG g = granuleOf (Memory.read k.store (gAddr g) 256) := by
  simp [Cell.loadG, h]

/-- A load after a write of the granule: the new bytes where enabled, elsewhere what a load returned before it, zeros at the first write. -/
theorem Cell.loadG_storeG_same (k : Cell) (g : BitVec 14) (d : Granule) (en : BitVec 256) :
    (k.storeG g d en).loadG g = mergeBytes en (k.loadG g) d := by
  have hread := Memory.read_write k.store (gAddr g) (bytesOf (mergeBytes en (k.loadG g) d))
  rw [length_bytesOf] at hread
  rw [Cell.loadG_of_written ((k.mem_written_storeG g g d en).2 (.inl rfl)), Cell.storeG, hread, granuleOf_bytesOf]

/-- A write of one granule leaves what a load of another returns. -/
theorem Cell.loadG_storeG_of_ne (k : Cell) {g h : BitVec 14} (d : Granule) (en : BitVec 256) (hne : h ≠ g) :
    (k.storeG g d en).loadG h = k.loadG h := by
  have hmem : h ∈ (k.storeG g d en).written ↔ h ∈ k.written := by simp [Cell.mem_written_storeG, hne]
  by_cases hw : h ∈ k.written
  · rw [Cell.loadG_of_written hw, Cell.loadG_of_written (hmem.2 hw), Cell.storeG]
    congr 1
    exact Memory.read_write_of_disjoint _ (by rw [length_bytesOf]; exact gAddr_disjoint hne)
  · rw [Cell.loadG_of_not_written hw, Cell.loadG_of_not_written (mt hmem.1 hw)]

theorem Cell.written_boundary (k : Cell) (entry : Eng → BitVec 32) : (k.boundary entry).written = [] := rfl

/-- Settles O16, by what a load returns after a write of the same and of another granule. -/
theorem firstWriteClearsAGranule : Obligations.FirstWriteClearsAGranule := by
  unfold Obligations.FirstWriteClearsAGranule
  refine ⟨fun k g => Cell.loadG_of_not_written, fun k g d en => ⟨?_, fun i hi => ?_, fun h hne => ⟨?_, ?_⟩⟩,
    fun k entry g => ⟨?_, ?_⟩⟩
  · exact (k.mem_written_storeG g g d en).2 (.inl rfl)
  · rw [k.loadG_storeG_same, elemOf_mergeBytes en _ d hi, apply_ite (elemOf · 8 i)]
  · exact k.loadG_storeG_of_ne d en hne
  · simp [Cell.mem_written_storeG, hne]
  · exact k.written_boundary entry
  · exact Cell.loadG_of_not_written (by rw [k.written_boundary]; exact List.not_mem_nil)

end Sys2Proof.Machine
end

section
/-!
PROOFS. Busy ports (R84): the fault of a plan whose port is in use at its issue, and the matrix instructions that take it.
-/

namespace Sys2Proof.Machine

theorem exec_mpal (c : CellRef) (f : MpalF) (s : State) : exec (.mpal c f) s = s.engine c .mxe (.mpal f) := rfl

theorem exec_mldw (c : CellRef) (f : MldwF) (s : State) : exec (.mldw c f) s = s.engine c .mxe (.mldw f) := rfl

theorem exec_mdrn (c : CellRef) (f : MdrnF) (s : State) : exec (.mdrn c f) s = s.engine c .mxe (.mdrn f) := rfl

theorem Cell.mem_ports_of_portHeld {k : Cell} {v w : PortWindow} (h : k.portHeld w = some v) :
    v ∈ k.ports ∧ v.port = w.port ∧ v.first ≤ w.last ∧ w.first ≤ v.last := by
  have hmeets := List.find?_some h
  simp only [Bool.and_eq_true, beq_iff_eq, decide_eq_true_eq] at hmeets
  exact ⟨List.mem_of_find?_eq_some h, hmeets⟩

/-- The fault of an instruction that needs port `k` while one issued in cycle `second` holds it. -/
def portOverrun (o : Origin) (k : PortKind) (second : BitVec 32) : SchedFault :=
  ⟨.queueOverrun, o.cell, o.eng, o.pc, .port k, o.issued, second⟩

/-- A plan with one port, and no cause of a fault that comes before it (log 63), overruns the port where a window holds it. -/
theorem Plan.fault_of_portHeld {pl : Plan} {o : Origin} {k : Cell} {v w : PortWindow} (hu : k.earlyUse o.issued pl.uses = none)
    (hpop : pl.pop = none) (htx : pl.tx = none) (hports : pl.ports = [w]) (hv : k.portHeld w = some v) :
    pl.fault o k = some (portOverrun o w.port v.issued) := by
  simp [Plan.fault, portOverrun, hu, hpop, htx, hports, hv]

/-- Issue of an instruction that needs the port of `w` ends in a QUEUE_OVERRUN against one that holds the port, and nothing else. -/
def overruns (s t : State) (p : PartIx) (c : CellRef) (e : Eng) (w : PortWindow) : Prop :=
  ∃ v ∈ (s.cell c).ports, v.port = w.port ∧ v.first ≤ w.last ∧ w.first ≤ v.last
    ∧ faults s t p c (portOverrun (s.org p c e) w.port v.issued)

/-- Issue, in any engine, of a legal instruction whose one port is in use. -/
theorem State.engine_overruns {s : State} {p : PartIx} {c : CellRef} {e : Eng} {o : EngOp} {pl : Plan} {w : PortWindow}
    (h : s.ready p c e = true) (hw : o.wf = true) (hh : holdOfOp (s.cell c) o = none) (hy : (s.cell c).lets e (s.part p).cyc o = true)
    (hpl : planOf (s.ctx p) (s.org p c e) (s.cell c) o = pl) (hu : (s.cell c).earlyUse (s.part p).cyc pl.uses = none)
    (hpop : pl.pop = none) (htx : pl.tx = none) (hports : pl.ports = [w]) (hbusy : ((s.cell c).portHeld w).isSome = true) :
    ∃ t, s.engine c e o = .next t ∧ overruns s t p c e w := by
  obtain ⟨v, hv⟩ := Option.isSome_iff_exists.1 hbusy
  subst hpl
  obtain ⟨hmem, hport, hfirst, hlast⟩ := Cell.mem_ports_of_portHeld hv
  have hfault := Plan.fault_of_portHeld (o := s.org p c e) hu hpop htx hports hv
  obtain ⟨t, ht, hf⟩ := State.engine_faults h hw hh hy rfl hfault
  exact ⟨t, ht, v, hmem, hport, hfirst, hlast, hf⟩

/-! The ports that the plans of the matrix instructions take -/

theorem planMpal_ports (o : Origin) (f : MpalF) (k : Cell) :
    (planMpal o f k).ports = [⟨.weight, o.issued, o.issued, o.issued⟩] := by
  simp [planMpal, loading]

theorem planMldw_ports (o : Origin) (f : MldwF) (k : Cell) :
    (planMldw o f k).ports = [⟨.weight, o.issued, o.issued + BitVec.ofNat 32 (mldwG (fmtD f.wfmt)) - 1, o.issued⟩] := by
  simp [planMldw, loading, granules]

theorem planMdrn_ports (o : Origin) (f : MdrnF) (k : Cell) :
    (planMdrn o f k).ports = [⟨.drain, o.issued, o.issued + BitVec.ofNat 32 (mdrnG f.ofmt) - 1, o.issued⟩] := rfl

/-- Settles O10: each of MPAL, MLDW and MDRN plans one port window, and a plan whose port is in use overruns it. -/
theorem busyPortsAreOverrun : Obligations.BusyPortsAreOverrun := by
  unfold Obligations.BusyPortsAreOverrun
  refine fun s p c h => ⟨fun f hw hbusy => ?_, fun f hw hu hbusy => ?_, fun f hw hu hbusy => ?_⟩
  · obtain ⟨t, ht, hover⟩ := State.engine_overruns h hw rfl rfl rfl rfl rfl rfl (planMpal_ports _ f _) hbusy
    exact ⟨t, (exec_mpal c f s).trans ht, hover⟩
  · obtain ⟨t, ht, hover⟩ := State.engine_overruns h hw rfl rfl rfl hu rfl rfl (planMldw_ports _ f _) hbusy
    exact ⟨t, (exec_mldw c f s).trans ht, hover⟩
  · obtain ⟨t, ht, hover⟩ := State.engine_overruns h hw rfl rfl rfl hu rfl rfl (planMdrn_ports _ f _) hbusy
    exact ⟨t, (exec_mdrn c f s).trans ht, hover⟩

end Sys2Proof.Machine
end

section
/-!
PROOFS. Writes that take effect at once (R291, R292, R297): the session of a request and its staging session, and what a request that writes a
whole value does.
-/

namespace Sys2Proof.Machine

/-! Staging sessions through a request -/

/-- A session that is modified, by its SID, is found modified. -/
theorem State.session_modSession_same (s : State) (sid : BitVec 32) {f : Session → Session} (hf : ∀ x, (f x).sid = x.sid) :
    (s.modSession sid f).session sid = (s.session sid).map f := by
  have hpred : ((fun x : Session => x.sid == sid) ∘ fun x => if x.sid = sid then f x else x) = fun x => x.sid == sid := by
    funext x
    by_cases hx : x.sid = sid <;> simp [hx, hf]
  unfold State.session State.modSession
  rw [List.find?_map, hpred]
  refine Option.map_congr fun x hfind => ?_
  have hx : x.sid = sid := by simpa using List.find?_some hfind
  exact if_pos hx

/-- The staging session of the session with a SID (R301). -/
def State.stagingOf (s : State) (sid : BitVec 32) : Option Staging := (s.session sid).bind (·.staging)

theorem State.stagingOf_of_session {s : State} {sid : BitVec 32} {y : Session} (h : s.session sid = some y) : s.stagingOf sid = y.staging := by
  rw [State.stagingOf, h, Option.bind_some]

theorem State.stagingOf_congr {s t : State} (h : t.sessions = s.sessions) (sid : BitVec 32) : t.stagingOf sid = s.stagingOf sid := by
  unfold State.stagingOf State.session
  rw [h]

/-- Writing other fields of a session leaves its staging session. -/
theorem State.stagingOf_modSession_same (s : State) (sid : BitVec 32) {f : Session → Session} (hsid : ∀ x, (f x).sid = x.sid)
    (hstaging : ∀ x, (f x).staging = x.staging) : (s.modSession sid f).stagingOf sid = s.stagingOf sid := by
  simp [State.stagingOf, s.session_modSession_same sid hsid, Option.bind_map, hstaging]

@[simp] theorem State.stagingOf_modStaging_same (s : State) (sid : BitVec 32) (f : Staging → Staging) :
    (s.modStaging sid f).stagingOf sid = (s.stagingOf sid).map f := by
  unfold State.stagingOf State.modStaging
  rw [State.session_modSession_same]
  · cases s.session sid <;> rfl
  · exact fun _ => rfl

@[simp] theorem State.toLink_sessions (s : State) (l : Fin 2) (o : Out) : (s.toLink l o).sessions = s.sessions := by
  unfold State.toLink
  split <;> rfl

@[simp] theorem State.emitFrame_sessions (s : State) (f : Frame) : (s.emitFrame f).sessions = s.sessions := by
  unfold State.emitFrame
  split
  · split <;> rfl
  · rfl

@[simp] theorem State.answer_sessions (s : State) (f : Frame) : (s.answer f).sessions = s.sessions := by
  unfold State.answer
  split
  · exact s.emitFrame_sessions f
  · split <;> simp [State.interrupt]

@[simp] theorem State.stagingOf_noted (s : State) (f : Frame) (x : Session) : (s.noted f x).stagingOf x.sid = s.stagingOf x.sid := by
  unfold State.noted
  rw [State.stagingOf_modSession_same, State.stagingOf_modSession_same] <;> exact fun _ => rfl

@[simp] theorem State.stagingOf_say (s : State) (x : Session) (f : Frame) (st : Status) : (s.say x f st).stagingOf x.sid = s.stagingOf x.sid :=
  (State.stagingOf_congr (State.answer_sessions _ _) _).trans (s.stagingOf_modSession_same _ (fun _ => rfl) fun _ => rfl)

@[simp] theorem State.stagingOf_wrote (s : State) (x : Session) (f : Frame) : (s.wrote x f).stagingOf x.sid = s.stagingOf x.sid :=
  (State.stagingOf_say _ x f stOk).trans (s.stagingOf_modSession_same _ (fun _ => rfl) fun _ => rfl)

/-- The session of an authentic frame is the one that its SID names. -/
theorem State.session_of_authentic {s : State} {f : Frame} {x : Session} (h : s.authentic f = some x) : s.session x.sid = some x := by
  unfold State.authentic at h
  split at h
  next y hy =>
    split at h
    · cases h
      have hsid : x.sid = f.sid := by simpa using List.find?_some hy
      rw [hsid, hy]
    · cases h
  · cases h

/-! A whole value is written -/

/-- An index that is neither a partition's nor a port's stands for itself. -/
theorem eq_of_baseIndex {i k : Nat} (h : baseIndex i = k) (hpart : k ≠ 0x2000) (hport : k ≠ 0x3000) : i = k := by
  unfold baseIndex at h
  split at h
  · exact absurd h.symm hpart
  · split at h
    · exact absurd h.symm hport
    · exact h

theorem partOfIndex_of_baseIndex {i : Nat} (h : baseIndex i ≠ 0x2000) : partOfIndex i = none := by
  unfold partOfIndex
  split
  next hi => exact absurd (if_pos hi) h
  · rfl

section
variable {s : State} {f : Frame} {x : Session} {index sub : Nat} (h : s.written f x index sub) (host : Option Bytes)
include h

theorem State.session_of_written : s.session x.sid = some x := by
  obtain ⟨⟨-, -, -, hauth, -, -⟩, -⟩ := h
  exact State.session_of_authentic hauth

/-- The row of its object serves the request. -/
theorem State.row_of_written : s.row f 2 index sub host = s.serve f host := by
  obtain ⟨⟨hready, hhears, -⟩, hop, -, -, -, hindex, hsub, -⟩ := h
  exact if_pos ⟨hready, hhears, hop, hindex, hsub⟩

/-- The write of an object of the module itself, which is not staged, is that object's effect. -/
theorem State.writeObj_of_written (t : State) (hpart : index ≠ 0x2000) (hport : index ≠ 0x3000) :
    State.writeObj host t x f f.data = t.writeMod x index sub f.data host := by
  obtain ⟨-, -, -, -, -, hindex, hsub, -, hstaged, hlen, hform⟩ := h
  have hself := eq_of_baseIndex hindex hpart hport
  have hnone : partOfIndex f.index.toNat = none := partOfIndex_of_baseIndex (hindex ▸ hpart)
  rw [hself] at hstaged hlen hform hnone
  simp [State.writeObj, hself, hsub, hstaged, hlen, hform, hnone]

/-- What a request that writes a whole value does: it is noted, the value is written, and its status is answered; the segments of the value are
done with where it is OK or BAD_LEN (R291, R310). -/
theorem State.serve_of_written {u : State} {st : Status} (hw : State.writeObj host (s.noted f x) x f f.data = (st, u)) :
    s.serve f host = (if st = stOk ∨ st = stBadLen then u.modSession x.sid fun y => { y with writing := y.writing.filter fun p => !p.is f }
      else u).say x f st := by
  obtain ⟨⟨-, -, hkind, hauth, hseq, hrsvd⟩, hop, hmore, hoff, htotal, -, -, hallow, -⟩ := h
  have hjoin (b : Bytes) (n : BitVec 32) : joinSegment b n f = some f.data := if_pos hoff
  have hnoted : ((s.modSession x.sid fun y => { y with seen := s.ns }).modSession x.sid fun y => { y with seqMax := f.seq }) = s.noted f x := rfl
  unfold State.serve State.request
  simp only [hkind, if_true, hauth, hseq, hrsvd, hop, hnoted]
  unfold State.doWrite
  -- OFFSET 0 starts the value again, whether or not segments of it have come
  cases x.writing.find? fun p => p.is f <;> simp [hallow, hjoin, hmore, htotal, hw, State.say]

theorem State.serve_of_taken {u : State} (hw : State.writeObj host (s.noted f x) x f f.data = (stOk, u)) :
    s.serve f host = u.wrote x f := by
  rw [State.serve_of_written h host hw, if_pos (.inl rfl)]
  rfl

theorem State.serve_of_refused {u : State} {st : Status} (hw : State.writeObj host (s.noted f x) x f f.data = (st, u))
    (hok : st ≠ stOk) (hlen : st ≠ stBadLen) : s.serve f host = u.say x f st := by
  rw [State.serve_of_written h host hw, if_neg (by simp [hok, hlen])]

end

end Sys2Proof.Machine
end

section
/-!
PROOFS. STG_ABORT: the withdrawal of a pending commit (R306).
-/

namespace Sys2Proof.Machine

theorem exec_stgAbort (f : Frame) (s : State) : exec (.stgAbort f) s = .next (s.row f 2 0x1100 5 none) := rfl

theorem State.writeMod_stgAbort (s : State) {v : Bytes} (hv : leNat v = 1) (x : Session) (host : Option Bytes) :
    s.writeMod x 0x1100 5 v host = s.stgAbort x := by
  simp [State.writeMod, hv]

/-- The staging session of a withdrawn commit. -/
def Staging.withdrawn (g : Staging) : Staging := { g with state := 6, reserved := false }

/-- STG_ABORT = 1 of a pending commit turns on whether boundary processing before its step has begun. -/
theorem State.stgAbort_of_pending {x : Session} {g : Staging} {p : PartIx} (hx : x.staging = some g) (hstate : g.state = 3) (hon : g.on = some p)
    (s : State) : s.stgAbort x = if s.hasBegun p g.step then (stTooLate, s) else (stOk, s.modStaging x.sid Staging.withdrawn) := by
  unfold State.stgAbort
  rw [hx]
  simp only [hstate, hon]
  rfl

theorem exec_stgAbort_of_written {s : State} {f : Frame} {x : Session} (h : s.written f x 0x1100 5) :
    exec (.stgAbort f) s = .next (s.serve f none) := by
  rw [exec_stgAbort, State.row_of_written h]

theorem State.writeObj_stgAbort {s : State} {f : Frame} {x : Session} (h : s.written f x 0x1100 5) (hone : leNat f.data = 1) (t : State) :
    State.writeObj none t x f f.data = t.stgAbort x :=
  (State.writeObj_of_written h none t (by decide) (by decide)).trans (t.writeMod_stgAbort hone x none)

/-- Settles O46: STG_ABORT = 1 is served by `State.stgAbort`, which for a pending commit turns on whether boundary processing before its step has
begun; the session of the request is the one whose staging session it changes. -/
theorem abortsWithdrawPendingCommits : Obligations.AbortsWithdrawPendingCommits := by
  unfold Obligations.AbortsWithdrawPendingCommits
  intro s f x g p h hone hx hstate hon
  have habort := (State.writeObj_stgAbort h hone (s.noted f x)).trans (State.stgAbort_of_pending hx hstate hon _)
  refine ⟨fun hbegun => ?_, fun hbegun => ?_⟩
  · have hserve := State.serve_of_taken h none (habort.trans (if_neg (by simp [hbegun])))
    refine ⟨_, exec_stgAbort_of_written h, fun y hy => ?_, hserve⟩
    rw [hserve] at hy
    have hstaging : y.staging = some g.withdrawn := calc
      y.staging = (((s.noted f x).modStaging x.sid Staging.withdrawn).wrote x f).stagingOf x.sid := (State.stagingOf_of_session hy).symm
      _ = (s.stagingOf x.sid).map Staging.withdrawn := by simp
      _ = some g.withdrawn := by rw [State.stagingOf_of_session (State.session_of_written h), hx, Option.map_some]
    exact ⟨g.withdrawn, hstaging, rfl, rfl, rfl⟩
  · have hserve := State.serve_of_refused h none (habort.trans (if_pos hbegun)) (by decide) (by decide)
    exact ⟨_, exec_stgAbort_of_written h, hserve⟩

end Sys2Proof.Machine
end
